-- ==== Sys2Proof/Word.lean ====
section
/-! DEFINITION. The machine's word types: 64-bit words, 32-bit lanes, bytes. -/

namespace Sys2Proof

/-- A 64-bit word: a scalar register, a doubleword, a queue entry (R13, R15). -/
abbrev Word := BitVec 64

/-- A 32-bit lane value (R1). -/
abbrev Lane := BitVec 32

/-- A byte of memory (R6). -/
abbrev Byte := BitVec 8

end Sys2Proof
end

