-- ==== Sys2Proof/Machine/Sparse.lean ====
section
/-! DEFINITION. Register files and memories as sorted lists of (key, value) pairs: keys strictly rising and no entry
equal to the value that an unlisted key reads as, so that equal contents are equal data. -/

namespace Sys2Proof.Machine

/-- A store keyed by numbers; an unlisted key reads as the default that the reader names. -/
abbrev Sparse (α : Type) := List (Nat × α)

/-- The value at key k; d where the key is not listed. -/
def Sparse.get {α : Type} (d : α) : Sparse α → Nat → α
  | [], _ => d
  | (i, v) :: m, k => if i = k then v else Sparse.get d m k

/-- The entries lo, lo + 1, … (n of them) of a function, those equal to d left out. -/
def Sparse.ofFn {α : Type} [DecidableEq α] (d : α) (f : Nat → α) : Nat → Nat → Sparse α
  | _, 0 => []
  | lo, n + 1 => if f lo = d then Sparse.ofFn d f (lo + 1) n else (lo, f lo) :: Sparse.ofFn d f (lo + 1) n

/-- The entries below key k. -/
def Sparse.below {α : Type} (k : Nat) (m : Sparse α) : Sparse α := m.filter fun e => decide (e.1 < k)

/-- The entries from key k on. -/
def Sparse.above {α : Type} (k : Nat) (m : Sparse α) : Sparse α := m.filter fun e => decide (k ≤ e.1)

/-- The store with keys lo to lo + n - 1 holding f. -/
def Sparse.splice {α : Type} [DecidableEq α] (d : α) (m : Sparse α) (lo n : Nat) (f : Nat → α) : Sparse α :=
  m.below lo ++ (Sparse.ofFn d f lo n ++ m.above (lo + n))

/-- The store with key k holding v. -/
def Sparse.set {α : Type} [DecidableEq α] (d : α) (m : Sparse α) (k : Nat) (v : α) : Sparse α :=
  m.splice d k 1 fun _ => v

/-- Keys strictly rise from lo on, and no value is the default. -/
def Sparse.wfFrom {α : Type} [DecidableEq α] (d : α) : Nat → Sparse α → Bool
  | _, [] => true
  | lo, (i, v) :: m => decide (lo ≤ i) && decide (v ≠ d) && Sparse.wfFrom d (i + 1) m

/-- The canonical form of a store. -/
def Sparse.wf {α : Type} [DecidableEq α] (d : α) (m : Sparse α) : Bool := Sparse.wfFrom d 0 m

/-- A list of bytes as a function of the position. -/
def byteAt (bs : List Byte) (i : Nat) : Byte := bs.getD i 0

/-- The n bytes from key lo on. -/
def Sparse.bytes (m : Sparse Byte) (lo n : Nat) : List Byte := (List.range n).map fun i => m.get 0 (lo + i)

/-- The store with the bytes bs from key lo on. -/
def Sparse.setBytes (m : Sparse Byte) (lo : Nat) (bs : List Byte) : Sparse Byte :=
  m.splice 0 lo bs.length fun k => byteAt bs (k - lo)

/-- A little-endian byte list as a number (R6). -/
def leNat : List Byte → Nat
  | [] => 0
  | b :: bs => b.toNat + 256 * leNat bs

/-- The n low bytes of a number, little-endian (R6). -/
def leBytes : Nat → Nat → List Byte
  | 0, _ => []
  | n + 1, w => BitVec.ofNat 8 w :: leBytes n (w / 256)

end Sys2Proof.Machine
end

