-- ==== Sys2Proof/Machine/Aes.lean ====
section
/-! DEFINITION. The encryption of stored lines (R365): AES-256 and its XTS mode, which the spec names and does not print, as
FIPS 197 and IEEE 1619 give them; and the ZEL form of a line (R76, R78). A block is 16 bytes, its columns one after another. -/

namespace Sys2Proof.Machine

/-- The substitution box of AES: byte x stands at place x. -/
def aesBox : Nat :=
  0xc072a49cafa2d4adf04759fa7dc982ca76abd7fe2b670130c56f6bf27b777c63 +
  0x75b227ebe28012079a059618c323c7041531d871f1e5a534ccf73f362693fdb7 * 2 ^ 256 +
  0xcf584c4a39becb6a5bb1fc20ed00d153842fe329b3d63b52a05a6e1b1a2c8309 * 2 ^ 512 +
  0xd2f3ff1021dab6bcf5389d928f40a351a89f3c507f02f94585334d43fbaaefd0 * 2 ^ 768 +
  0xdb0b5ede14b8ee4688902a22dc4f816073195d643d7ea7c41744975fec130ccd * 2 ^ 1024 +
  0x08ae7a65eaf4566ca94ed58d6d37c8e779e4959162acd3c25c2406490a3a32e0 * 2 ^ 1280 +
  0x9e1dc186b95735610ef6034866b53e708a8bbd4b1f74dde8c6b4a61c2e2578ba * 2 ^ 1536 +
  0x16bb54b00f2d99416842e6bf0d89a18cdf2855cee9871e9b948ed9691198f8e1 * 2 ^ 1792

/-- The inverse box. -/
def aesInvBox : Nat :=
  0xcbe9dec444438e3487ff2f9b8239e37cfbd7f3819ea340bf38a53630d56a0952 +
  0x25d18b6d49a25b76b224d92866a12e084ec3fa420b954cee3d23c2a632947b54 * 2 ^ 256 +
  0x849d8da75746155edab9edfd5048706c92b6655dcc5ca4d41698688664f6f872 * 2 ^ 512 +
  0x6b8a130103bdafc1020f3fca8f1e2cd00645b3b80558e4f70ad3bc8c00abd890 * 2 ^ 768 +
  0x6edf751ce837f9e28535ade72274ac9673e6b4f0cecff297eadc674f4111913a * 2 ^ 1024 +
  0xf45acd78fec0db9a2079d2c64b3e56fc1bbe18aa0e62b76f89c5291d711af147 * 2 ^ 1280 +
  0xef9cc9939f7ae52d0d4ab519a97f51605fec8027591012b131c7078833a8dd1f * 2 ^ 1536 +
  0x7d0c2155631469e126d677ba7e042b17619953833cbbebc8b0f52aae4d3be0a0 * 2 ^ 1792

/-- A byte through a box. -/
def aesSub (box : Nat) (b : Byte) : Byte := BitVec.ofNat 8 (box / 256 ^ b.toNat)

/-- A byte times x in the field of AES. -/
def aesDouble (b : Byte) : Byte := (b <<< 1) ^^^ (if b.msb then 0x1B else 0)

/-- A byte times a small number in the field of AES. -/
def aesTimes (m : Nat) (b : Byte) : Byte :=
  let b2 := aesDouble b
  let b4 := aesDouble b2
  let b8 := aesDouble b4
  let part (i : Nat) (v : Byte) : Byte := if m.testBit i then v else 0
  part 0 b ^^^ part 1 b2 ^^^ part 2 b4 ^^^ part 3 b8

/-- Two byte lists added bit by bit. -/
def xorBytes (a b : List Byte) : List Byte := List.zipWith (· ^^^ ·) a b

/-- The next word of the key schedule; the words so far, the newest first, and the index of the next. -/
def aesNextWord (ws : List (List Byte)) (i : Nat) : List (List Byte) :=
  let prev := ws.headD []
  let t := if i % 8 = 0 then
      xorBytes ((prev.drop 1 ++ prev.take 1).map (aesSub aesBox)) [BitVec.ofNat 8 (2 ^ (i / 8 - 1)), 0, 0, 0]
    else if i % 8 = 4 then prev.map (aesSub aesBox) else prev
  xorBytes (ws.getD 7 []) t :: ws

/-- The 15 round keys of a 32-byte key, the first first. -/
def aesRoundKeys (key : List Byte) : List (List Byte) :=
  let w0 := (List.range 8).reverse.map fun i => (key.drop (4 * i)).take 4
  let ws := ((List.range 52).foldl (fun ws i => aesNextWord ws (8 + i)) w0).reverse
  (List.range 15).map fun r => ((ws.drop (4 * r)).take 4).flatten

/-- The rows of a block moved left by their number times d columns. -/
def aesShift (d : Nat) (b : List Byte) : List Byte :=
  (List.range 16).map fun i => byteAt b ((i + 4 * (d * (i % 4))) % 16)

/-- Each column of a block times the circulant matrix of these four factors. -/
def aesMix (ms : List Nat) (b : List Byte) : List Byte :=
  (List.range 16).map fun i =>
    (List.range 4).foldl (fun x j => x ^^^ aesTimes (ms.getD ((j + 4 - i % 4) % 4) 0) (byteAt b (i / 4 * 4 + j))) 0

/-- One middle round of the cipher. -/
def aesRound (b k : List Byte) : List Byte :=
  xorBytes (aesMix [2, 3, 1, 1] (aesShift 1 (b.map (aesSub aesBox)))) k

/-- One middle round undone. -/
def aesUnround (b k : List Byte) : List Byte :=
  aesMix [14, 11, 13, 9] (xorBytes ((aesShift 3 b).map (aesSub aesInvBox)) k)

/-- AES-256 of a block under round keys. -/
def aesEncrypt (ks : List (List Byte)) (b : List Byte) : List Byte :=
  let b := ((ks.drop 1).take 13).foldl aesRound (xorBytes b (ks.getD 0 []))
  xorBytes (aesShift 1 (b.map (aesSub aesBox))) (ks.getD 14 [])

/-- Its inverse. -/
def aesDecrypt (ks : List (List Byte)) (b : List Byte) : List Byte :=
  let b := ((ks.drop 1).take 13).reverse.foldl aesUnround (xorBytes b (ks.getD 14 []))
  xorBytes ((aesShift 3 b).map (aesSub aesInvBox)) (ks.getD 0 [])

/-- A tweak times x, as the little-endian number that its bytes are. -/
def xtsNext (t : List Byte) : List Byte :=
  let n := leNat t
  let c := leBytes 16 (2 * n % 2 ^ 128)
  if n.testBit 127 then xorBytes c (0x87 :: List.replicate 15 0) else c

/-- The blocks of a data unit through a cipher, the tweak's multiples added before and after. -/
def xtsBlocks (f : List Byte → List Byte) : Nat → List Byte → List Byte → List Byte
  | 0, _, _ => []
  | n + 1, t, bs => xorBytes (f (xorBytes (bs.take 16) t)) t ++ xtsBlocks f n (xtsNext t) (bs.drop 16)

/-- AES-256-XTS of a data unit of whole blocks: the key pair, whose low half is the data key, and the tweak. -/
def xts (enc : Bool) (key tweak : Nat) (bs : List Byte) : List Byte :=
  let ks := aesRoundKeys (leBytes 32 (key % 2 ^ 256))
  let kt := aesRoundKeys (leBytes 32 (key / 2 ^ 256))
  xtsBlocks (if enc then aesEncrypt ks else aesDecrypt ks) (bs.length / 16) (aesEncrypt kt (leBytes 16 tweak)) bs

/-- The bytes that a stored line of size code c occupies (Table 3.4). -/
def zelSize (c : Nat) : Nat := if c = 0 then 128 else 32 * c

/-- Byte i of the line stored at `st` with size code c (R76, R149): payload bytes that the granule does not carry read zero. -/
def zelByte (by_ : Nat → Byte) (st c i : Nat) : Byte :=
  if c = 0 then by_ (st + i)
  else if (by_ (st + i / 8)).toNat.testBit (i % 8) then
    let rank := ((List.range i).filter fun j => (by_ (st + j / 8)).toNat.testBit (j % 8)).length
    if 16 + rank < 32 * c then by_ (st + 16 + rank) else 0
  else 0

/-- A line in the encoder's unique ZEL form: its size code and its stored bytes (R76). -/
def zelEncode (line : List Byte) : Nat × List Byte :=
  let nz := line.filter fun b => decide (b ≠ 0)
  let n := nz.length
  let c := if n ≤ 16 then 1 else if n ≤ 48 then 2 else if n ≤ 80 then 3 else 0
  if c = 0 then (0, line) else
  let bitmap := (List.range 16).map fun g => BitVec.ofNat 8
    ((List.range 8).foldl (fun a j => a + if byteAt line (8 * g + j) = 0 then 0 else 2 ^ j) 0)
  (c, bitmap ++ nz ++ List.replicate (32 * c - 16 - n) 0)

/-- A directory of size codes (R79, R149): byte k holds the codes of lines 4k to 4k + 3. -/
def zelDir (codes : List Nat) (n : Nat) : List Byte :=
  (List.range n).map fun k => BitVec.ofNat 8
    ((List.range 4).foldl (fun a m => a + codes.getD (4 * k + m) 0 * 4 ^ m) 0)

/-- Where line j of a run of ZEL lines starts, from `st`, by the size code function. -/
def zelStart (code : Nat → Nat) (st : Nat) : Nat → Nat
  | 0 => st
  | j + 1 => zelStart code st j + zelSize (code j)

/-- A stored form expanded to 128 bytes. A bitmap that is no encoder's may name more payload than the form holds: those bytes
are the open ones that `beyond` gives. -/
def zelExpand (code : Nat) (beyond : Nat → Byte) (bs : List Byte) : List Byte :=
  if code = 0 then bs else
  let on (i : Nat) : Bool := (byteAt bs (i / 8)).toNat.testBit (i % 8)
  ((List.range 128).foldl (fun (acc : List Byte × Nat) i =>
    if on i then
      ((if acc.2 < zelSize code then byteAt bs acc.2 else beyond i) :: acc.1, acc.2 + 1)
    else ((0 : Byte) :: acc.1, acc.2)) (([] : List Byte), 16)).1.reverse

/-- The 128 bytes that a line stored under one key pair and tweak shows under another (R365): its stored form, compressed on a
tier that compresses lines (R77, R78), decrypted. -/
def rekeyed (zel : Bool) (key tweak key' tweak' : Nat) (beyond : Nat → Byte) (line : List Byte) : List Byte :=
  let form := if zel then zelEncode line else (0, line)
  zelExpand form.1 beyond (xts false key' tweak' (xts true key tweak form.2))

end Sys2Proof.Machine
end

