-- ==== Sys2Proof/Config.lean ====
section
/-! DEFINITION. The values that the spec leaves open: constants without a body, applied to a counter that the state
holds and each use advances, so that no proof can know one. -/

namespace Sys2Proof.Config

/-- The open 64-bit value of the n-th use: a checksum (R384), the leftover of a cancelled command's destination
(R250), what a peer or the host answers, a count of clk that has passed (R101). -/
opaque freeWord : Nat → BitVec 64

/-- The open byte i of the n-th use: a byte of ciphertext read under another key (R365), of a discarded line (R280),
of a cancelled or stopped destination (R250, R366), of a peer's memory (R369). -/
opaque freeByte : Nat → Nat → BitVec 8

/-- The open choice of the n-th use: which of two outcomes that the spec both allows comes about. -/
opaque freeBool : Nat → Bool

/-- The open number of the n-th use. -/
opaque freeNat : Nat → Nat

/-- The HBM stack that holds the frame at an address: the spec numbers the stacks and does not place frames in them. -/
opaque hbmStack : Nat → Fin 12

/-- The FP32 scale of ts_quant for a greatest magnitude n × 2^e whose quotient by 448 rounds to zero or beyond FP32: R75 states
none. -/
opaque tsScale : Nat → Int → BitVec 32

/-- The element of ts_quant for a magnitude n × 2^e under such a scale where the scale is no divisor. -/
opaque tsElem : Nat → Nat → Int → BitVec 8

end Sys2Proof.Config
end

