-- ==== Sys2Proof/Syntax.lean ====
section
/-! DEFINITION. The instructions: one constructor per row of the opcode table (A-stream words, X vector-slot,
control and scalar-slot operations, Z-stream words, and the device events that have no word of their own).
Operand fields are kept as the encoding numbers them (Nat); the meaning sign-extends. -/

namespace Sys2Proof

/-- The guard of an X pair word (R49, R50): `ginv` and `gpred`. -/
structure XGuard where
  ginv : Nat
  gpred : Nat
  deriving DecidableEq, Repr

/-- No guard: `gpred` = 127 and `ginv` = 0 (R50). -/
def XGuard.none : XGuard := ⟨0, 127⟩

/-- A vector-slot operand: its kind (Table 2.7) and its six-bit field. -/
inductive VOp where
  | vec (n : Nat)
  | k (n : Nat)
  | const (n : Nat)
  | lit (n : Nat)
  deriving DecidableEq, Repr

/-- A request that arrives from a peer through a Sizal port (R369). -/
inductive PeerReq where
  /-- read `n` bytes -/
  | rd (n : Nat)
  /-- write the bytes -/
  | wr (data : List (BitVec 8))
  /-- an atomic of R253: operation code, 32-bit form, operand, compare value -/
  | amo (op w : Nat) (x e : BitVec 64)
  deriving DecidableEq, Repr

/-- One constructor per row of the opcode table, in the table's order. -/
inductive Instr where
  /-- ADD (R92): Writes the sum of two s registers modulo 2^64. -/
  | add (d : Nat) (a : Nat) (b : Nat)
  /-- SUB (R92): Writes the difference of two s registers modulo 2^64. -/
  | sub (d : Nat) (a : Nat) (b : Nat)
  /-- AND (R92): Writes the bitwise and of two s registers. -/
  | and (d : Nat) (a : Nat) (b : Nat)
  /-- OR (R92): Writes the bitwise or of two s registers. -/
  | or (d : Nat) (a : Nat) (b : Nat)
  /-- XOR (R92): Writes the bitwise xor of two s registers. -/
  | xor (d : Nat) (a : Nat) (b : Nat)
  /-- ANDN (R92): Writes a and not b. -/
  | andn (d : Nat) (a : Nat) (b : Nat)
  /-- SLL (R92): Shifts left by b[5:0]. -/
  | sll (d : Nat) (a : Nat) (b : Nat)
  /-- SRL (R92): Shifts right logically by b[5:0]. -/
  | srl (d : Nat) (a : Nat) (b : Nat)
  /-- SRA (R92): Shifts right arithmetically by b[5:0]. -/
  | sra (d : Nat) (a : Nat) (b : Nat)
  /-- ROL (R92): Rotates left by b[5:0]. -/
  | rol (d : Nat) (a : Nat) (b : Nat)
  /-- SLT (R92): Writes 1 if a is less than b signed. -/
  | slt (d : Nat) (a : Nat) (b : Nat)
  /-- SLTU (R92): Writes 1 if a is less than b unsigned. -/
  | sltu (d : Nat) (a : Nat) (b : Nat)
  /-- MIN (R92): Writes the signed lesser of two registers. -/
  | min (d : Nat) (a : Nat) (b : Nat)
  /-- MAX (R92): Writes the signed greater of two registers. -/
  | max (d : Nat) (a : Nat) (b : Nat)
  /-- MINU (R92): Writes the unsigned lesser of two registers. -/
  | minu (d : Nat) (a : Nat) (b : Nat)
  /-- MAXU (R92): Writes the unsigned greater of two registers. -/
  | maxu (d : Nat) (a : Nat) (b : Nat)
  /-- MUL (R92): Writes the low 64 bits of the product. -/
  | mul (d : Nat) (a : Nat) (b : Nat)
  /-- MULH (R92): Writes the high 64 bits of the signed product. -/
  | mulh (d : Nat) (a : Nat) (b : Nat)
  /-- MULHU (R92): Writes the high 64 bits of the unsigned product. -/
  | mulhu (d : Nat) (a : Nat) (b : Nat)
  /-- DIV (R93): Signed division truncating toward zero, never faulting. -/
  | div (d : Nat) (a : Nat) (b : Nat)
  /-- DIVU (R93): Unsigned division, never faulting. -/
  | divu (d : Nat) (a : Nat) (b : Nat)
  /-- REM (R93): Signed remainder with defined corner cases. -/
  | rem (d : Nat) (a : Nat) (b : Nat)
  /-- REMU (R93): Unsigned remainder with defined corner cases. -/
  | remu (d : Nat) (a : Nat) (b : Nat)
  /-- POPC (R92): Writes the number of set bits. -/
  | popc (d : Nat) (a : Nat)
  /-- CLZ (R92): Writes the number of leading zero bits. -/
  | clz (d : Nat) (a : Nat)
  /-- CTZ (R92): Writes the number of trailing zero bits. -/
  | ctz (d : Nat) (a : Nat)
  /-- BHASH (R95): Performs one two-token step of the chained block hash. -/
  | bhash (d : Nat) (a : Nat) (b : Nat)
  /-- SEXT_B (R92): Sign-extends the low byte. -/
  | sextB (d : Nat) (a : Nat)
  /-- SEXT_H (R92): Sign-extends the low half word. -/
  | sextH (d : Nat) (a : Nat)
  /-- SEXT_W (R92): Sign-extends the low word. -/
  | sextW (d : Nat) (a : Nat)
  /-- FSH (R94): Funnel-shifts the 128-bit pair a:b right by an immediate count. -/
  | fsh (d : Nat) (a : Nat) (b : Nat) (n : Nat)
  /-- ADDI (R96): Adds a sign-extended 14-bit immediate. -/
  | addi (d : Nat) (a : Nat) (i : Nat)
  /-- ANDI (R96): Ands with a zero-extended immediate. -/
  | andi (d : Nat) (a : Nat) (i : Nat)
  /-- ORI (R96): Ors with a zero-extended immediate. -/
  | ori (d : Nat) (a : Nat) (i : Nat)
  /-- XORI (R96): Xors with a zero-extended immediate. -/
  | xori (d : Nat) (a : Nat) (i : Nat)
  /-- SLTI (R96): Signed compare with a sign-extended immediate. -/
  | slti (d : Nat) (a : Nat) (i : Nat)
  /-- SLTIU (R96): Unsigned compare with a sign-extended immediate. -/
  | sltiu (d : Nat) (a : Nat) (i : Nat)
  /-- SLLI (R96): Shifts left by an immediate count. -/
  | slli (d : Nat) (a : Nat) (n : Nat)
  /-- SRLI (R96): Shifts right logically by an immediate count. -/
  | srli (d : Nat) (a : Nat) (n : Nat)
  /-- SRAI (R96): Shifts right arithmetically by an immediate count. -/
  | srai (d : Nat) (a : Nat) (n : Nat)
  /-- ROLI (R96): Rotates left by an immediate count. -/
  | roli (d : Nat) (a : Nat) (n : Nat)
  /-- LI (R96): Loads a sign-extended 20-bit immediate. -/
  | li (d : Nat) (i : Nat)
  /-- LSI (R96): Shifts the destination left by 20 and appends a 20-bit immediate. -/
  | lsi (d : Nat) (i : Nat)
  /-- BFX (R97): Extracts a zero-extended bit field. -/
  | bfx (d : Nat) (a : Nat) (w : Nat) (st : Nat)
  /-- BFX_S (R97): Extracts a sign-extended bit field. -/
  | bfxS (d : Nat) (a : Nat) (w : Nat) (st : Nat)
  /-- BFI (R97): Inserts a bit field into the destination. -/
  | bfi (d : Nat) (a : Nat) (w : Nat) (st : Nat)
  /-- LD_B (R228): Zero-extending byte load. -/
  | ldB (d : Nat) (a : Nat) (m : Nat) (o : Nat)
  /-- LD_H (R228): Zero-extending half-word load. -/
  | ldH (d : Nat) (a : Nat) (m : Nat) (o : Nat)
  /-- LD_W (R228): Zero-extending word load. -/
  | ldW (d : Nat) (a : Nat) (m : Nat) (o : Nat)
  /-- LD_D (R228): Doubleword load. -/
  | ldD (d : Nat) (a : Nat) (m : Nat) (o : Nat)
  /-- LD_BS (R228): Sign-extending byte load. -/
  | ldBs (d : Nat) (a : Nat) (m : Nat) (o : Nat)
  /-- LD_HS (R228): Sign-extending half-word load. -/
  | ldHs (d : Nat) (a : Nat) (m : Nat) (o : Nat)
  /-- LD_WS (R228): Sign-extending word load. -/
  | ldWs (d : Nat) (a : Nat) (m : Nat) (o : Nat)
  /-- ST_B (R228): Byte store. -/
  | stB (d : Nat) (a : Nat) (m : Nat) (o : Nat)
  /-- ST_H (R228): Half-word store. -/
  | stH (d : Nat) (a : Nat) (m : Nat) (o : Nat)
  /-- ST_W (R228): Word store. -/
  | stW (d : Nat) (a : Nat) (m : Nat) (o : Nat)
  /-- ST_D (R228): Doubleword store. -/
  | stD (d : Nat) (a : Nat) (m : Nat) (o : Nat)
  /-- VLD (R230): Loads 1024 contiguous words into the next entry of a vector queue. -/
  | vld (q : Nat) (a : Nat)
  /-- VLD_S (R230): Loads 1024 strided words into a vector queue entry. -/
  | vldS (q : Nat) (a : Nat) (b : Nat)
  /-- VLD_BC (R230): Loads one word broadcast to every lane of a vector queue entry. -/
  | vldBc (q : Nat) (a : Nat)
  /-- QPUSH (R232): Pushes an s register to qs0, qs1 or qz1. -/
  | qpush (q : Nat) (a : Nat)
  /-- QPOP (R232): Pops qx0, qx1 or qy0 into an s register. -/
  | qpop (d : Nat) (q : Nat)
  /-- WLC (R135): Writes a loop register. -/
  | wlc (n : Nat) (a : Nat)
  /-- COPY (R242): Issues a window copy command and returns its handle. -/
  | copy (d : Nat) (a : Nat) (b : Nat) (y : Nat) (x : Nat) (sc : Nat)
  /-- GATHER (R246): Issues a copy whose source dimension-1 coordinates come from an index list. -/
  | gather (d : Nat) (a : Nat) (b : Nat) (y : Nat) (x : Nat) (sc : Nat)
  /-- SCATTER (R246): Issues a copy whose destination dimension-1 coordinates come from an index list. -/
  | scatter (d : Nat) (a : Nat) (b : Nat) (y : Nat) (x : Nat) (sc : Nat)
  /-- RCOPY (R247): Issues a global-to-global copy that rotates element pairs. -/
  | rcopy (d : Nat) (a : Nat) (b : Nat) (y : Nat) (x : Nat) (sc : Nat)
  /-- COPY_MMA (R248): Issues a tile copy followed by a follow-on MMA. -/
  | copyMma (d : Nat) (a : Nat) (b : Nat) (y : Nat) (x : Nat) (sc : Nat)
  /-- CANCEL (R250): Cancels an engine command and stalls until the engine acknowledges. -/
  | cancel (a : Nat)
  /-- HWAIT (R250): Stalls until a command has completed, been cancelled or been stopped. -/
  | hwait (a : Nat)
  /-- HTEST (R250): Writes the state of a command handle. -/
  | htest (d : Nat) (a : Nat)
  /-- AMO_ADD_RLX (R253): Relaxed atomic add. -/
  | amoAddRlx (d : Nat) (a : Nat) (b : Nat) (w : Nat) (sc : Nat)
  /-- AMO_AND_RLX (R253): Relaxed atomic and. -/
  | amoAndRlx (d : Nat) (a : Nat) (b : Nat) (w : Nat) (sc : Nat)
  /-- AMO_OR_RLX (R253): Relaxed atomic or. -/
  | amoOrRlx (d : Nat) (a : Nat) (b : Nat) (w : Nat) (sc : Nat)
  /-- AMO_XOR_RLX (R253): Relaxed atomic xor. -/
  | amoXorRlx (d : Nat) (a : Nat) (b : Nat) (w : Nat) (sc : Nat)
  /-- AMO_MIN_RLX (R253): Relaxed atomic signed minimum. -/
  | amoMinRlx (d : Nat) (a : Nat) (b : Nat) (w : Nat) (sc : Nat)
  /-- AMO_MAX_RLX (R253): Relaxed atomic signed maximum. -/
  | amoMaxRlx (d : Nat) (a : Nat) (b : Nat) (w : Nat) (sc : Nat)
  /-- AMO_MINU_RLX (R253): Relaxed atomic unsigned minimum. -/
  | amoMinuRlx (d : Nat) (a : Nat) (b : Nat) (w : Nat) (sc : Nat)
  /-- AMO_MAXU_RLX (R253): Relaxed atomic unsigned maximum. -/
  | amoMaxuRlx (d : Nat) (a : Nat) (b : Nat) (w : Nat) (sc : Nat)
  /-- AMO_SWAP_RLX (R253): Relaxed atomic swap. -/
  | amoSwapRlx (d : Nat) (a : Nat) (b : Nat) (w : Nat) (sc : Nat)
  /-- AMO_CAS_RLX (R253): Relaxed atomic compare and swap. -/
  | amoCasRlx (d : Nat) (a : Nat) (b : Nat) (w : Nat) (sc : Nat)
  /-- AMO_FADD_RLX (R253): Relaxed atomic FP32 add. -/
  | amoFaddRlx (d : Nat) (a : Nat) (b : Nat) (sc : Nat)
  /-- AMO_FMAX_RLX (R253): Relaxed atomic FP32 maximum. -/
  | amoFmaxRlx (d : Nat) (a : Nat) (b : Nat) (sc : Nat)
  /-- AMO_FMIN_RLX (R253): Relaxed atomic FP32 minimum. -/
  | amoFminRlx (d : Nat) (a : Nat) (b : Nat) (sc : Nat)
  /-- AMO_ADD_ACQ (R253): Acquire atomic add. -/
  | amoAddAcq (d : Nat) (a : Nat) (b : Nat) (w : Nat) (sc : Nat)
  /-- AMO_AND_ACQ (R253): Acquire atomic and. -/
  | amoAndAcq (d : Nat) (a : Nat) (b : Nat) (w : Nat) (sc : Nat)
  /-- AMO_OR_ACQ (R253): Acquire atomic or. -/
  | amoOrAcq (d : Nat) (a : Nat) (b : Nat) (w : Nat) (sc : Nat)
  /-- AMO_XOR_ACQ (R253): Acquire atomic xor. -/
  | amoXorAcq (d : Nat) (a : Nat) (b : Nat) (w : Nat) (sc : Nat)
  /-- AMO_MIN_ACQ (R253): Acquire atomic signed minimum. -/
  | amoMinAcq (d : Nat) (a : Nat) (b : Nat) (w : Nat) (sc : Nat)
  /-- AMO_MAX_ACQ (R253): Acquire atomic signed maximum. -/
  | amoMaxAcq (d : Nat) (a : Nat) (b : Nat) (w : Nat) (sc : Nat)
  /-- AMO_MINU_ACQ (R253): Acquire atomic unsigned minimum. -/
  | amoMinuAcq (d : Nat) (a : Nat) (b : Nat) (w : Nat) (sc : Nat)
  /-- AMO_MAXU_ACQ (R253): Acquire atomic unsigned maximum. -/
  | amoMaxuAcq (d : Nat) (a : Nat) (b : Nat) (w : Nat) (sc : Nat)
  /-- AMO_SWAP_ACQ (R253): Acquire atomic swap. -/
  | amoSwapAcq (d : Nat) (a : Nat) (b : Nat) (w : Nat) (sc : Nat)
  /-- AMO_CAS_ACQ (R253): Acquire atomic compare and swap. -/
  | amoCasAcq (d : Nat) (a : Nat) (b : Nat) (w : Nat) (sc : Nat)
  /-- AMO_FADD_ACQ (R253): Acquire atomic FP32 add. -/
  | amoFaddAcq (d : Nat) (a : Nat) (b : Nat) (sc : Nat)
  /-- AMO_FMAX_ACQ (R253): Acquire atomic FP32 maximum. -/
  | amoFmaxAcq (d : Nat) (a : Nat) (b : Nat) (sc : Nat)
  /-- AMO_FMIN_ACQ (R253): Acquire atomic FP32 minimum. -/
  | amoFminAcq (d : Nat) (a : Nat) (b : Nat) (sc : Nat)
  /-- AMO_ADD_REL (R253): Release atomic add. -/
  | amoAddRel (d : Nat) (a : Nat) (b : Nat) (w : Nat) (sc : Nat)
  /-- AMO_AND_REL (R253): Release atomic and. -/
  | amoAndRel (d : Nat) (a : Nat) (b : Nat) (w : Nat) (sc : Nat)
  /-- AMO_OR_REL (R253): Release atomic or. -/
  | amoOrRel (d : Nat) (a : Nat) (b : Nat) (w : Nat) (sc : Nat)
  /-- AMO_XOR_REL (R253): Release atomic xor. -/
  | amoXorRel (d : Nat) (a : Nat) (b : Nat) (w : Nat) (sc : Nat)
  /-- AMO_MIN_REL (R253): Release atomic signed minimum. -/
  | amoMinRel (d : Nat) (a : Nat) (b : Nat) (w : Nat) (sc : Nat)
  /-- AMO_MAX_REL (R253): Release atomic signed maximum. -/
  | amoMaxRel (d : Nat) (a : Nat) (b : Nat) (w : Nat) (sc : Nat)
  /-- AMO_MINU_REL (R253): Release atomic unsigned minimum. -/
  | amoMinuRel (d : Nat) (a : Nat) (b : Nat) (w : Nat) (sc : Nat)
  /-- AMO_MAXU_REL (R253): Release atomic unsigned maximum. -/
  | amoMaxuRel (d : Nat) (a : Nat) (b : Nat) (w : Nat) (sc : Nat)
  /-- AMO_SWAP_REL (R253): Release atomic swap. -/
  | amoSwapRel (d : Nat) (a : Nat) (b : Nat) (w : Nat) (sc : Nat)
  /-- AMO_CAS_REL (R253): Release atomic compare and swap. -/
  | amoCasRel (d : Nat) (a : Nat) (b : Nat) (w : Nat) (sc : Nat)
  /-- AMO_FADD_REL (R253): Release atomic FP32 add. -/
  | amoFaddRel (d : Nat) (a : Nat) (b : Nat) (sc : Nat)
  /-- AMO_FMAX_REL (R253): Release atomic FP32 maximum. -/
  | amoFmaxRel (d : Nat) (a : Nat) (b : Nat) (sc : Nat)
  /-- AMO_FMIN_REL (R253): Release atomic FP32 minimum. -/
  | amoFminRel (d : Nat) (a : Nat) (b : Nat) (sc : Nat)
  /-- AMO_ADD_RC (R253): Acquire-release atomic add. -/
  | amoAddRc (d : Nat) (a : Nat) (b : Nat) (w : Nat) (sc : Nat)
  /-- AMO_AND_RC (R253): Acquire-release atomic and. -/
  | amoAndRc (d : Nat) (a : Nat) (b : Nat) (w : Nat) (sc : Nat)
  /-- AMO_OR_RC (R253): Acquire-release atomic or. -/
  | amoOrRc (d : Nat) (a : Nat) (b : Nat) (w : Nat) (sc : Nat)
  /-- AMO_XOR_RC (R253): Acquire-release atomic xor. -/
  | amoXorRc (d : Nat) (a : Nat) (b : Nat) (w : Nat) (sc : Nat)
  /-- AMO_MIN_RC (R253): Acquire-release atomic signed minimum. -/
  | amoMinRc (d : Nat) (a : Nat) (b : Nat) (w : Nat) (sc : Nat)
  /-- AMO_MAX_RC (R253): Acquire-release atomic signed maximum. -/
  | amoMaxRc (d : Nat) (a : Nat) (b : Nat) (w : Nat) (sc : Nat)
  /-- AMO_MINU_RC (R253): Acquire-release atomic unsigned minimum. -/
  | amoMinuRc (d : Nat) (a : Nat) (b : Nat) (w : Nat) (sc : Nat)
  /-- AMO_MAXU_RC (R253): Acquire-release atomic unsigned maximum. -/
  | amoMaxuRc (d : Nat) (a : Nat) (b : Nat) (w : Nat) (sc : Nat)
  /-- AMO_SWAP_RC (R253): Acquire-release atomic swap. -/
  | amoSwapRc (d : Nat) (a : Nat) (b : Nat) (w : Nat) (sc : Nat)
  /-- AMO_CAS_RC (R253): Acquire-release atomic compare and swap. -/
  | amoCasRc (d : Nat) (a : Nat) (b : Nat) (w : Nat) (sc : Nat)
  /-- AMO_FADD_RC (R253): Acquire-release atomic FP32 add. -/
  | amoFaddRc (d : Nat) (a : Nat) (b : Nat) (sc : Nat)
  /-- AMO_FMAX_RC (R253): Acquire-release atomic FP32 maximum. -/
  | amoFmaxRc (d : Nat) (a : Nat) (b : Nat) (sc : Nat)
  /-- AMO_FMIN_RC (R253): Acquire-release atomic FP32 minimum. -/
  | amoFminRc (d : Nat) (a : Nat) (b : Nat) (sc : Nat)
  /-- FENCE_ACQ (R254): Orders earlier loads before later accesses at a scope. -/
  | fenceAcq (sc : Nat)
  /-- FENCE_REL (R254): Orders earlier accesses before later stores at a scope. -/
  | fenceRel (sc : Nat)
  /-- FENCE_AR (R254): Acts as both an acquire and a release fence. -/
  | fenceAr (sc : Nat)
  /-- FENCE_DRAIN (R254): Stalls until every earlier access and command has completed, then acts as fence.ar. -/
  | fenceDrain (sc : Nat)
  /-- WAITW_EQ (R255): Waits until a monitored word equals the comparand or a limit passes. -/
  | waitwEq (d : Nat) (a : Nat) (b : Nat)
  /-- WAITW_NE (R255): Waits until a monitored word differs from the comparand. -/
  | waitwNe (d : Nat) (a : Nat) (b : Nat)
  /-- WAITW_GEU (R255): Waits until a monitored word is at least the comparand, unsigned. -/
  | waitwGeu (d : Nat) (a : Nat) (b : Nat)
  /-- WAITW_LTU (R255): Waits until a monitored word is below the comparand, unsigned. -/
  | waitwLtu (d : Nat) (a : Nat) (b : Nat)
  /-- RESV (R257): Maps or unmaps a stash window. -/
  | resv (d : Nat) (a : Nat) (b : Nat)
  /-- DISC (R258): Discards a range of lines without write-back after a release. -/
  | disc (d : Nat) (a : Nat) (b : Nat) (sc : Nat)
  /-- MIGR (R259): Migrates a page to another cache die. -/
  | migr (d : Nat) (a : Nat) (b : Nat) (sc : Nat)
  /-- PIN (R260): Sets the pin bit on the pages of a range. -/
  | pin (d : Nat) (a : Nat) (b : Nat)
  /-- UNPIN (R260): Clears the pin bit on the pages of a range. -/
  | unpin (d : Nat) (a : Nat) (b : Nat)
  /-- LAUNCH (R322): Reads a launch record, checks it and accepts or rejects the launch. -/
  | launch (a : Nat)
  /-- IRV (R323): Flushes held stores and ends the replayable region. -/
  | irv
  /-- END (R324): Ends the A-stream or a base-die sequencer stream. -/
  | endA
  /-- BAR_ARR (R327): Arrives at a gang barrier with a release. -/
  | barArr (n : Nat) (sc : Nat)
  /-- BAR_WAIT (R327): Waits for the barrier phase to advance with an acquire. -/
  | barWait (n : Nat) (sc : Nat)
  /-- BAR_SYNC (R327): Arrives at a barrier and then waits for its phase to advance. -/
  | barSync (n : Nat) (sc : Nat)
  /-- FORK (R331): Starts a stream on a base-die sequencer. -/
  | fork (d : Nat) (a : Nat) (b : Nat) (sc : Nat)
  /-- MSEND (R333): Sends an eight-word message to a mailbox. -/
  | msend (d : Nat) (a : Nat) (b : Nat) (sc : Nat)
  /-- MRECV (R333): Receives a message from a mailbox, or raises its error. -/
  | mrecv (d : Nat) (a : Nat) (b : Nat)
  /-- SRCH (R334): Issues a search command to a search unit. -/
  | srch (d : Nat) (a : Nat) (b : Nat) (sc : Nat)
  /-- SCOMMIT (R355): Commits a sampled token if its turn matches the slot's turn counter. -/
  | scommit (d : Nat) (a : Nat) (b : Nat)
  /-- TRUNC (R356): Truncates a stream slot to a position and performs the cut's memory work. -/
  | trunc (d : Nat) (a : Nat) (b : Nat)
  /-- SREAD (R357): Reads one slot word atomically. -/
  | sread (d : Nat) (a : Nat) (b : Nat)
  /-- SARM_CREATE (R358): Creates a stream slot. -/
  | sarmCreate (d : Nat) (a : Nat) (b : Nat)
  /-- SARM_ARM (R358): Arms a stream slot's timer. -/
  | sarmArm (d : Nat) (a : Nat) (b : Nat)
  /-- SARM_DISARM (R358): Disarms a stream slot. -/
  | sarmDisarm (d : Nat) (a : Nat) (b : Nat)
  /-- SARM_RETIRE (R358): Retires a stream slot to free. -/
  | sarmRetire (d : Nat) (a : Nat) (b : Nat)
  /-- SARM_EVICT (R358): Evicts a stream slot under the eviction procedure. -/
  | sarmEvict (d : Nat) (a : Nat) (b : Nat)
  /-- NOP (R383): Does nothing for one clk. -/
  | nop
  /-- MFS (R100): Reads a special register. -/
  | mfs (d : Nat) (n : Nat) (m : Nat)
  /-- MTS (R100): Writes a special register. -/
  | mts (a : Nat) (n : Nat) (m : Nat)
  /-- ECALL (R383): Flushes held stores, releases and raises fault 0x13 with call set. -/
  | ecall (n : Nat) (m : Nat)
  /-- ERET (R382): Applies the action in trsel to a frozen task. -/
  | eret
  /-- TRAP (R383): Raises fault 0x13 with a code. -/
  | trap (n : Nat) (m : Nat)
  /-- BRK (R383): Raises breakpoint fault 0x14. -/
  | brk (n : Nat) (m : Nat)
  /-- BEZ (R98): Branches when a register equals zero. -/
  | bez (a : Nat) (o : Nat)
  /-- BNZ (R98): Branches when a register is nonzero. -/
  | bnz (a : Nat) (o : Nat)
  /-- BLTZ (R98): Branches when a register is negative. -/
  | bltz (a : Nat) (o : Nat)
  /-- BGEZ (R98): Branches when a register is zero or positive. -/
  | bgez (a : Nat) (o : Nat)
  /-- BGTZ (R98): Branches when a register is positive. -/
  | bgtz (a : Nat) (o : Nat)
  /-- BLEZ (R98): Branches when a register is zero or negative. -/
  | blez (a : Nat) (o : Nat)
  /-- BR (R98): Branches always. -/
  | br (o : Nat)
  /-- BEQ (R98): Branches when two registers are equal. -/
  | beq (a : Nat) (b : Nat) (o : Nat)
  /-- BNE (R98): Branches when two registers differ. -/
  | bne (a : Nat) (b : Nat) (o : Nat)
  /-- BLT (R98): Branches on signed less. -/
  | blt (a : Nat) (b : Nat) (o : Nat)
  /-- BGE (R98): Branches on signed greater or equal. -/
  | bge (a : Nat) (b : Nat) (o : Nat)
  /-- BLTU (R98): Branches on unsigned less. -/
  | bltu (a : Nat) (b : Nat) (o : Nat)
  /-- BGEU (R98): Branches on unsigned greater or equal. -/
  | bgeu (a : Nat) (b : Nat) (o : Nat)
  /-- CALL (R99): Links PC + 4 and jumps PC-relative. -/
  | call (d : Nat) (i : Nat)
  /-- JR (R99): Jumps to a register address. -/
  | jr (a : Nat)
  /-- JALR (R99): Links PC + 4 and jumps to a register address. -/
  | jalr (d : Nat) (a : Nat)
  /-- VNOP (R53): Empty vector slot. -/
  | vnop (g : XGuard)
  /-- FADD (R112): FP32 add per lane. -/
  | fadd (g : XGuard) (rm : Nat) (d : Nat) (a : VOp) (b : VOp)
  /-- FSUB (R112): FP32 subtract per lane. -/
  | fsub (g : XGuard) (rm : Nat) (d : Nat) (a : VOp) (b : VOp)
  /-- FMUL (R112): FP32 multiply per lane. -/
  | fmul (g : XGuard) (rm : Nat) (d : Nat) (a : VOp) (b : VOp)
  /-- FMA (R112): Fused d + a × b per lane. -/
  | fma (g : XGuard) (rm : Nat) (d : Nat) (a : VOp) (b : VOp)
  /-- FMS (R112): Fused d − a × b per lane. -/
  | fms (g : XGuard) (rm : Nat) (d : Nat) (a : VOp) (b : VOp)
  /-- FNMA (R112): Fused a × b − d per lane. -/
  | fnma (g : XGuard) (rm : Nat) (d : Nat) (a : VOp) (b : VOp)
  /-- FMIN (R113): FP32 minimum per lane. -/
  | fmin (g : XGuard) (d : Nat) (a : VOp) (b : VOp)
  /-- FMAX (R113): FP32 maximum per lane. -/
  | fmax (g : XGuard) (d : Nat) (a : VOp) (b : VOp)
  /-- FABS (R113): Clears the sign bit per lane. -/
  | fabs (g : XGuard) (d : Nat) (a : VOp)
  /-- FNEG (R113): Inverts the sign bit per lane. -/
  | fneg (g : XGuard) (d : Nat) (a : VOp)
  /-- RCP (R114): Correctly rounded reciprocal per lane. -/
  | rcp (g : XGuard) (rm : Nat) (d : Nat) (a : VOp)
  /-- RSQRT (R114): Correctly rounded reciprocal square root per lane. -/
  | rsqrt (g : XGuard) (rm : Nat) (d : Nat) (a : VOp)
  /-- EXP2 (R114): Correctly rounded 2^x per lane. -/
  | exp2 (g : XGuard) (rm : Nat) (d : Nat) (a : VOp)
  /-- LOG2 (R114): Correctly rounded log2 per lane. -/
  | log2 (g : XGuard) (rm : Nat) (d : Nat) (a : VOp)
  /-- HADD (R115): Packed 16-bit float add. -/
  | hadd (g : XGuard) (f : Nat) (rm : Nat) (d : Nat) (a : VOp) (b : VOp)
  /-- HSUB (R115): Packed 16-bit float subtract. -/
  | hsub (g : XGuard) (f : Nat) (rm : Nat) (d : Nat) (a : VOp) (b : VOp)
  /-- HMUL (R115): Packed 16-bit float multiply. -/
  | hmul (g : XGuard) (f : Nat) (rm : Nat) (d : Nat) (a : VOp) (b : VOp)
  /-- HFMA (R115): Packed 16-bit fused multiply-add. -/
  | hfma (g : XGuard) (f : Nat) (rm : Nat) (d : Nat) (a : VOp) (b : VOp)
  /-- HMIN (R115): Packed 16-bit float minimum. -/
  | hmin (g : XGuard) (f : Nat) (d : Nat) (a : VOp) (b : VOp)
  /-- HMAX (R115): Packed 16-bit float maximum. -/
  | hmax (g : XGuard) (f : Nat) (d : Nat) (a : VOp) (b : VOp)
  /-- IADD (R116): Packed integer add. -/
  | iadd (g : XGuard) (iw : Nat) (d : Nat) (a : VOp) (b : VOp)
  /-- ISUB (R116): Packed integer subtract. -/
  | isub (g : XGuard) (iw : Nat) (d : Nat) (a : VOp) (b : VOp)
  /-- IMUL (R116): Packed integer multiply, low half. -/
  | imul (g : XGuard) (iw : Nat) (d : Nat) (a : VOp) (b : VOp)
  /-- IMULH (R116): Packed signed multiply, high half. -/
  | imulh (g : XGuard) (iw : Nat) (d : Nat) (a : VOp) (b : VOp)
  /-- IMULHU (R116): Packed unsigned multiply, high half. -/
  | imulhu (g : XGuard) (iw : Nat) (d : Nat) (a : VOp) (b : VOp)
  /-- IAND (R116): Packed bitwise and. -/
  | iand (g : XGuard) (iw : Nat) (d : Nat) (a : VOp) (b : VOp)
  /-- IOR (R116): Packed bitwise or. -/
  | ior (g : XGuard) (iw : Nat) (d : Nat) (a : VOp) (b : VOp)
  /-- IXOR (R116): Packed bitwise xor. -/
  | ixor (g : XGuard) (iw : Nat) (d : Nat) (a : VOp) (b : VOp)
  /-- IANDN (R116): Packed a and not b. -/
  | iandn (g : XGuard) (iw : Nat) (d : Nat) (a : VOp) (b : VOp)
  /-- ISLL (R116): Packed shift left. -/
  | isll (g : XGuard) (iw : Nat) (d : Nat) (a : VOp) (b : VOp)
  /-- ISRL (R116): Packed logical shift right. -/
  | isrl (g : XGuard) (iw : Nat) (d : Nat) (a : VOp) (b : VOp)
  /-- ISRA (R116): Packed arithmetic shift right. -/
  | isra (g : XGuard) (iw : Nat) (d : Nat) (a : VOp) (b : VOp)
  /-- IMIN (R116): Packed signed minimum. -/
  | imin (g : XGuard) (iw : Nat) (d : Nat) (a : VOp) (b : VOp)
  /-- IMAX (R116): Packed signed maximum. -/
  | imax (g : XGuard) (iw : Nat) (d : Nat) (a : VOp) (b : VOp)
  /-- IMINU (R116): Packed unsigned minimum. -/
  | iminu (g : XGuard) (iw : Nat) (d : Nat) (a : VOp) (b : VOp)
  /-- IMAXU (R116): Packed unsigned maximum. -/
  | imaxu (g : XGuard) (iw : Nat) (d : Nat) (a : VOp) (b : VOp)
  /-- IADDS (R116): Packed signed saturating add. -/
  | iadds (g : XGuard) (iw : Nat) (d : Nat) (a : VOp) (b : VOp)
  /-- IADDUS (R116): Packed unsigned saturating add. -/
  | iaddus (g : XGuard) (iw : Nat) (d : Nat) (a : VOp) (b : VOp)
  /-- ISUBS (R116): Packed signed saturating subtract. -/
  | isubs (g : XGuard) (iw : Nat) (d : Nat) (a : VOp) (b : VOp)
  /-- ISUBUS (R116): Packed unsigned saturating subtract. -/
  | isubus (g : XGuard) (iw : Nat) (d : Nat) (a : VOp) (b : VOp)
  /-- IABS (R116): Packed saturating absolute value. -/
  | iabs (g : XGuard) (iw : Nat) (d : Nat) (a : VOp)
  /-- FCMP (R117): FP32 compare into a predicate. -/
  | fcmp (g : XGuard) (cc : Nat) (pd : Nat) (a : VOp) (b : VOp)
  /-- ICMP (R118): Integer compare into a predicate. -/
  | icmp (g : XGuard) (cc : Nat) (pd : Nat) (a : VOp) (b : VOp)
  /-- SEL (R119): Selects a or b per lane by a predicate. -/
  | sel (g : XGuard) (p : Nat) (d : Nat) (a : VOp) (b : VOp)
  /-- PAND (R120): Predicate and. -/
  | pand (g : XGuard) (pd : Nat) (pa : Nat) (pb : Nat)
  /-- POR (R120): Predicate or. -/
  | por (g : XGuard) (pd : Nat) (pa : Nat) (pb : Nat)
  /-- PXOR (R120): Predicate xor. -/
  | pxor (g : XGuard) (pd : Nat) (pa : Nat) (pb : Nat)
  /-- PANDN (R120): Predicate and-not. -/
  | pandn (g : XGuard) (pd : Nat) (pa : Nat) (pb : Nat)
  /-- PORN (R120): Predicate or-not. -/
  | porn (g : XGuard) (pd : Nat) (pa : Nat) (pb : Nat)
  /-- PNOT (R120): Predicate complement. -/
  | pnot (g : XGuard) (pd : Nat) (pa : Nat)
  /-- PSET (R120): Sets a predicate in guard-true lanes. -/
  | pset (g : XGuard) (pd : Nat)
  /-- PCLR (R120): Clears a predicate in guard-true lanes. -/
  | pclr (g : XGuard) (pd : Nat)
  /-- CVT (R122): Converts FP32 lanes to another format. -/
  | cvt (g : XGuard) (rm : Nat) (fmt : Nat) (d : Nat) (a : VOp)
  /-- CVT_F32 (R122): Converts lanes of another format to FP32. -/
  | cvtF32 (g : XGuard) (rm : Nat) (fmt : Nat) (d : Nat) (a : VOp)
  /-- MXQ (R123): Quantises 32-lane blocks into an MX format. -/
  | mxq (g : XGuard) (rm : Nat) (fmt : Nat) (d : Nat) (a : VOp) (sd : Nat)
  /-- MXDQ (R124): Dequantises MX elements to FP32. -/
  | mxdq (g : XGuard) (fmt : Nat) (d : Nat) (a : VOp) (b : VOp)
  /-- TSQ_TSF8A (R125): Quantises 128-lane groups to TSF8-A. -/
  | tsqTsf8a (g : XGuard) (rm : Nat) (d : Nat) (a : VOp) (sd : Nat)
  /-- TSQ_TSF8W (R125): Quantises lanes to TSF8-W with a supplied tile scale. -/
  | tsqTsf8w (g : XGuard) (rm : Nat) (d : Nat) (a : VOp) (b : VOp)
  /-- TSDQ (R126): Dequantises TSF8 elements to FP32. -/
  | tsdq (g : XGuard) (fmt : Nat) (d : Nat) (a : VOp) (b : VOp)
  /-- FREDSUM (R128): Pairwise-tree FP32 sum reduction. -/
  | fredsum (g : XGuard) (rm : Nat) (all : Nat) (d : Nat) (a : VOp)
  /-- FREDMAX (R128): FP32 maximum reduction. -/
  | fredmax (g : XGuard) (all : Nat) (d : Nat) (a : VOp)
  /-- FREDMIN (R128): FP32 minimum reduction. -/
  | fredmin (g : XGuard) (all : Nat) (d : Nat) (a : VOp)
  /-- IREDSUM (R128): Wrapping integer sum reduction. -/
  | iredsum (g : XGuard) (all : Nat) (d : Nat) (a : VOp)
  /-- IREDMAX (R128): Signed maximum reduction. -/
  | iredmax (g : XGuard) (all : Nat) (d : Nat) (a : VOp)
  /-- IREDMIN (R128): Signed minimum reduction. -/
  | iredmin (g : XGuard) (all : Nat) (d : Nat) (a : VOp)
  /-- IREDMAXU (R128): Unsigned maximum reduction. -/
  | iredmaxu (g : XGuard) (all : Nat) (d : Nat) (a : VOp)
  /-- IREDMINU (R128): Unsigned minimum reduction. -/
  | iredminu (g : XGuard) (all : Nat) (d : Nat) (a : VOp)
  /-- VPERM (R129): Permutes lanes by an index vector. -/
  | vperm (g : XGuard) (d : Nat) (a : VOp) (b : VOp)
  /-- VBCAST (R129): Broadcasts one lane. -/
  | vbcast (g : XGuard) (d : Nat) (a : VOp) (b : VOp)
  /-- VROT (R129): Rotates lanes. -/
  | vrot (g : XGuard) (d : Nat) (a : VOp) (b : VOp)
  /-- VSHL (R129): Shifts lanes up, filling zeros. -/
  | vshl (g : XGuard) (d : Nat) (a : VOp) (b : VOp)
  /-- VSHR (R129): Shifts lanes down, filling zeros. -/
  | vshr (g : XGuard) (d : Nat) (a : VOp) (b : VOp)
  /-- VZIP (R129): Interleaves two vectors. -/
  | vzip (g : XGuard) (d : Nat) (a : VOp) (b : VOp)
  /-- VUNZIP (R129): De-interleaves two vectors. -/
  | vunzip (g : XGuard) (d : Nat) (a : VOp) (b : VOp)
  /-- VCOMP (R129): Compresses predicated lanes to the front. -/
  | vcomp (g : XGuard) (d : Nat) (a : VOp) (p : Nat)
  /-- VBFX (R130): Extracts a zero-extended bit field per lane. -/
  | vbfx (g : XGuard) (st : Nat) (d : Nat) (a : VOp) (b : VOp)
  /-- VBFX_S (R130): Extracts a sign-extended bit field per lane. -/
  | vbfxS (g : XGuard) (st : Nat) (d : Nat) (a : VOp) (b : VOp)
  /-- VFSH (R130): Funnel-shifts two lanes per lane. -/
  | vfsh (g : XGuard) (st : Nat) (d : Nat) (a : VOp) (b : VOp)
  /-- LGTH (R131): Gathers scratchpad elements per lane. -/
  | lgth (g : XGuard) (sz : Nat) (d : Nat) (a : VOp) (b : VOp)
  /-- LSCT (R131): Scatters elements to scratchpad per lane. -/
  | lsct (g : XGuard) (sz : Nat) (d : Nat) (a : VOp) (b : VOp)
  /-- LLD (R131): Loads contiguous scratchpad elements. -/
  | lld (g : XGuard) (sz : Nat) (d : Nat) (a : VOp) (b : VOp)
  /-- LST (R131): Stores contiguous scratchpad elements. -/
  | lst (g : XGuard) (sz : Nat) (d : Nat) (a : VOp) (b : VOp)
  /-- ZPUSH (R134): Pushes a 320-bit row image to qz0. -/
  | zpush (a : VOp)
  /-- TLD (R157): Loads a tile register from scratchpad. -/
  | tld (t : Nat) (a : VOp) (b : VOp)
  /-- TFREE (R158): Queues a free of a tile register. -/
  | tfree (t : Nat)
  /-- MMA (R155): Issues a matrix multiply-accumulate into the command queue. -/
  | mma (fmt : Nat) (h : Nat) (t : Nat) (a : VOp) (b : VOp)
  /-- MMA_TS (R155): Issues a TSF8 matrix multiply-accumulate. -/
  | mmaTs (t : Nat) (a : VOp) (b : VOp)
  /-- MMA_MX (R155): Issues an MX matrix multiply-accumulate. -/
  | mmaMx (fmt : Nat) (h : Nat) (t : Nat) (a : VOp) (b : VOp)
  /-- ACCRD (R159): Queues a read of accumulator banks into a vector register. -/
  | accrd (rm : Nat) (fmt : Nat) (d : Nat) (a : VOp)
  /-- ACCZERO (R160): Queues a zeroing of accumulator banks. -/
  | acczero (a : VOp) (n : Nat)
  /-- BALLOC (R161): Allocates accumulator banks at issue. -/
  | balloc (d : Nat) (n : Nat)
  /-- BFREE (R161): Frees accumulator banks at issue. -/
  | bfree (a : VOp) (n : Nat)
  /-- MSIG (R293): Forms a 320-bit signature row image from signs. -/
  | msig (d : Nat) (a : VOp) (b : VOp)
  /-- LOOP (R137): Repeats the following words lc times. -/
  | loop (lc : Nat) (inc : Nat) (ki : Nat) (ks : Nat) (n : Nat)
  /-- REP (R138): Executes the next word C times. -/
  | rep (src : Nat) (inc : Nat) (ki : Nat) (ks : Nat) (c : Nat)
  /-- FORKX (R141): Enters forked cluster mode. -/
  | forkx (o1 : Nat) (o2 : Nat) (o3 : Nat)
  /-- JOINX (R142): Waits for all clusters and returns to joined mode. -/
  | joinx
  /-- SBSET (R143): Sets and clears synchronisation bits. -/
  | sbset (set : Nat) (clr : Nat)
  /-- SBWAIT_SET (R144): Waits until masked sync bits are set. -/
  | sbwaitSet (m : Nat)
  /-- SBWAIT_CLR (R144): Waits until masked sync bits are clear. -/
  | sbwaitClr (m : Nat)
  /-- SBWAIT_TAKE (R144): Waits until masked sync bits are set and clears them. -/
  | sbwaitTake (m : Nat)
  /-- END_X (R145): Ends the X-stream or the executing cluster. -/
  | endX
  /-- KNOP (R52): Empty scalar slot. -/
  | knop (g : XGuard)
  /-- KADD (R104): k register add. -/
  | kadd (g : XGuard) (d : Nat) (a : Nat) (b : Nat)
  /-- KADDI (R104): k register add of a 5-bit immediate. -/
  | kaddi (g : XGuard) (d : Nat) (a : Nat) (n : Nat)
  /-- KSUB (R104): k register subtract. -/
  | ksub (g : XGuard) (d : Nat) (a : Nat) (b : Nat)
  /-- KAND (R104): k register and. -/
  | kand (g : XGuard) (d : Nat) (a : Nat) (b : Nat)
  /-- KOR (R104): k register or. -/
  | kor (g : XGuard) (d : Nat) (a : Nat) (b : Nat)
  /-- KXOR (R104): k register xor. -/
  | kxor (g : XGuard) (d : Nat) (a : Nat) (b : Nat)
  /-- KSLL (R104): k register shift left by register. -/
  | ksll (g : XGuard) (d : Nat) (a : Nat) (b : Nat)
  /-- KSLLI (R104): k register shift left by immediate. -/
  | kslli (g : XGuard) (d : Nat) (a : Nat) (n : Nat)
  /-- KSRL (R104): k register logical right shift by register. -/
  | ksrl (g : XGuard) (d : Nat) (a : Nat) (b : Nat)
  /-- KSRLI (R104): k register logical right shift by immediate. -/
  | ksrli (g : XGuard) (d : Nat) (a : Nat) (n : Nat)
  /-- KSRA (R104): k register arithmetic right shift by register. -/
  | ksra (g : XGuard) (d : Nat) (a : Nat) (b : Nat)
  /-- KSRAI (R104): k register arithmetic right shift by immediate. -/
  | ksrai (g : XGuard) (d : Nat) (a : Nat) (n : Nat)
  /-- KMUL (R104): k register multiply. -/
  | kmul (g : XGuard) (d : Nat) (a : Nat) (b : Nat)
  /-- KMIN (R104): k register signed minimum. -/
  | kmin (g : XGuard) (d : Nat) (a : Nat) (b : Nat)
  /-- KMAX (R104): k register signed maximum. -/
  | kmax (g : XGuard) (d : Nat) (a : Nat) (b : Nat)
  /-- KMINU (R104): k register unsigned minimum. -/
  | kminu (g : XGuard) (d : Nat) (a : Nat) (b : Nat)
  /-- KMAXU (R104): k register unsigned maximum. -/
  | kmaxu (g : XGuard) (d : Nat) (a : Nat) (b : Nat)
  /-- KSLT (R104): k register signed less-than. -/
  | kslt (g : XGuard) (d : Nat) (a : Nat) (b : Nat)
  /-- KSLTU (R104): k register unsigned less-than. -/
  | ksltu (g : XGuard) (d : Nat) (a : Nat) (b : Nat)
  /-- KLI (R104): Loads a 10-bit signed immediate into a k register. -/
  | kli (g : XGuard) (d : Nat) (n : Nat)
  /-- KLSH (R104): Shifts a k register left by 10 and appends an immediate. -/
  | klsh (g : XGuard) (d : Nat) (n : Nat)
  /-- KBFX (R104): Extracts a 16-bit field of a k register. -/
  | kbfx (g : XGuard) (d : Nat) (a : Nat) (b : Nat)
  /-- KPOP (R105): Pops qs0 or qs1 into a k register. -/
  | kpop (g : XGuard) (d : Nat) (q : Nat)
  /-- KPUSH (R105): Pushes a k register to qx0 or qx1. -/
  | kpush (g : XGuard) (a : Nat) (q : Nat)
  /-- KCPG (R105): Sets the constant-page register. -/
  | kcpg (g : XGuard) (n : Nat)
  /-- KFADD (R106): Scalar FP32 add. -/
  | kfadd (g : XGuard) (d : Nat) (a : Nat) (b : Nat)
  /-- KFMUL (R106): Scalar FP32 multiply. -/
  | kfmul (g : XGuard) (d : Nat) (a : Nat) (b : Nat)
  /-- KFMAX (R106): Scalar FP32 maximum. -/
  | kfmax (g : XGuard) (d : Nat) (a : Nat) (b : Nat)
  /-- ZNOP (R189): Z-stream no-operation. -/
  | znop
  /-- ZREG (R173): Activates a region by handle and clears its tags. -/
  | zreg (a : Nat)
  /-- ZCMP_EQ (R178): Tags rows whose field equals zk's field. -/
  | zcmpEq (a : Nat) (d : Nat) (c : Nat) (w : Nat)
  /-- ZCMP_EQ_AND (R178): Ands an equality match into a tag. -/
  | zcmpEqAnd (a : Nat) (d : Nat) (e : Nat) (c : Nat) (w : Nat)
  /-- ZCMP_EQ_OR (R178): Ors an equality match into a tag. -/
  | zcmpEqOr (a : Nat) (d : Nat) (e : Nat) (c : Nat) (w : Nat)
  /-- ZCMP_NE (R178): Tags rows whose field differs from zk's field. -/
  | zcmpNe (a : Nat) (d : Nat) (c : Nat) (w : Nat)
  /-- ZCMP_NE_AND (R178): Ands an inequality match into a tag. -/
  | zcmpNeAnd (a : Nat) (d : Nat) (e : Nat) (c : Nat) (w : Nat)
  /-- ZCMP_NE_OR (R178): Ors an inequality match into a tag. -/
  | zcmpNeOr (a : Nat) (d : Nat) (e : Nat) (c : Nat) (w : Nat)
  /-- ZWR (R178): Writes zk's field into tagged rows. -/
  | zwr (a : Nat) (d : Nat) (c : Nat) (w : Nat)
  /-- ZWRC (R178): Writes zeros into a field of tagged rows. -/
  | zwrc (a : Nat) (d : Nat) (c : Nat) (w : Nat)
  /-- ZWRS (R178): Writes ones into a field of tagged rows. -/
  | zwrs (a : Nat) (d : Nat) (c : Nat) (w : Nat)
  /-- ZFLD (R181): Latches the source field for field arithmetic. -/
  | zfld (c : Nat) (w : Nat)
  /-- ZADD (R182): Bit-serial add of the latched field into tagged rows. -/
  | zadd (a : Nat) (d : Nat) (e : Nat) (c : Nat) (w : Nat)
  /-- ZSUB (R182): Bit-serial subtract of the latched field. -/
  | zsub (a : Nat) (d : Nat) (e : Nat) (c : Nat) (w : Nat)
  /-- ZADDK (R182): Bit-serial add of zk's field. -/
  | zaddk (a : Nat) (d : Nat) (e : Nat) (c : Nat) (w : Nat)
  /-- ZSUBK (R182): Bit-serial subtract of zk's field. -/
  | zsubk (a : Nat) (d : Nat) (e : Nat) (c : Nat) (w : Nat)
  /-- ZGT (R183): Tags rows whose field exceeds the latched field. -/
  | zgt (a : Nat) (d : Nat) (e : Nat) (c : Nat) (w : Nat)
  /-- ZLT (R183): Tags rows whose field is below the latched field. -/
  | zlt (a : Nat) (d : Nat) (e : Nat) (c : Nat) (w : Nat)
  /-- ZEQF (R183): Tags rows whose field equals the latched field. -/
  | zeqf (a : Nat) (d : Nat) (e : Nat) (c : Nat) (w : Nat)
  /-- ZGTK (R183): Tags rows whose field exceeds zk's field. -/
  | zgtk (a : Nat) (d : Nat) (e : Nat) (c : Nat) (w : Nat)
  /-- ZLTK (R183): Tags rows whose field is below zk's field. -/
  | zltk (a : Nat) (d : Nat) (e : Nat) (c : Nat) (w : Nat)
  /-- ZMUL (R184): Bit-serial unsigned multiply into a 2n-bit field. -/
  | zmul (a : Nat) (e : Nat) (c : Nat) (w : Nat)
  /-- ZMOV (R185): Copies the latched field into tagged rows. -/
  | zmov (a : Nat) (d : Nat) (c : Nat) (w : Nat)
  /-- ZCNT (R180): Counts tagged rows into a y register. -/
  | zcnt (a : Nat) (e : Nat) (y : Nat)
  /-- ZFIRST (R180): Writes the least tagged row into a y register. -/
  | zfirst (a : Nat) (e : Nat) (y : Nat)
  /-- ZTAG_AND (R179): Tag and. -/
  | ztagAnd (a : Nat) (d : Nat) (c : Nat) (e : Nat)
  /-- ZTAG_OR (R179): Tag or. -/
  | ztagOr (a : Nat) (d : Nat) (c : Nat) (e : Nat)
  /-- ZTAG_XOR (R179): Tag xor. -/
  | ztagXor (a : Nat) (d : Nat) (c : Nat) (e : Nat)
  /-- ZTAG_ANDN (R179): Tag and-not. -/
  | ztagAndn (a : Nat) (d : Nat) (c : Nat) (e : Nat)
  /-- ZTAG_MOV (R179): Tag move. -/
  | ztagMov (a : Nat) (d : Nat) (c : Nat)
  /-- ZTAG_NOT (R179): Tag complement. -/
  | ztagNot (a : Nat) (d : Nat) (c : Nat)
  /-- ZTAG_SET (R179): Sets a tag for every row. -/
  | ztagSet (a : Nat) (d : Nat)
  /-- ZTAG_CLR (R179): Clears a tag for every row. -/
  | ztagClr (a : Nat) (d : Nat)
  /-- ZSCORE (R306): Writes 256 minus the Hamming distance into the score field of tagged rows. -/
  | zscore (a : Nat) (c : Nat)
  /-- ZSEL (R307): Selects the berm and top pages, writes the result and ages rows. -/
  | zsel (d : Nat) (a : Nat) (n : Nat)
  /-- ZINS (R308): Inserts the zk row image, spilling and reaping as needed. -/
  | zins (d : Nat) (n : Nat)
  /-- ZAGE (R309): Increments the age of tagged rows. -/
  | zage (c : Nat) (n : Nat)
  /-- ZAGE_CLR (R309): Clears the age of tagged rows. -/
  | zageClr (c : Nat) (n : Nat)
  /-- ZDEL (R310): Waits for moving tagged rows and deletes tagged rows. -/
  | zdel (d : Nat) (c : Nat) (n : Nat)
  /-- ZSPILL (R311): Spills the oldest tagged row to the bound store. -/
  | zspill (d : Nat) (c : Nat) (n : Nat)
  /-- ZSPILL_CNT (R311): Reads the region's removal count. -/
  | zspillCnt (d : Nat) (n : Nat)
  /-- ZKLD (R186): Pops qz0 into zk. -/
  | zkld
  /-- ZKSET (R186): Sets a zk field from a y register. -/
  | zkset (y : Nat) (c : Nat) (w : Nat)
  /-- ZKGET (R186): Reads a zk field into a y register. -/
  | zkget (y : Nat) (c : Nat) (w : Nat)
  /-- YADD (R187): y register add. -/
  | yadd (d : Nat) (a : Nat) (b : Nat)
  /-- YADDI (R187): y register add of an 18-bit immediate. -/
  | yaddi (d : Nat) (a : Nat) (i : Nat)
  /-- YSUB (R187): y register subtract. -/
  | ysub (d : Nat) (a : Nat) (b : Nat)
  /-- YLI (R187): Loads an 18-bit immediate into a y register. -/
  | yli (d : Nat) (i : Nat)
  /-- YAND (R187): y register and. -/
  | yand (d : Nat) (a : Nat) (b : Nat)
  /-- YOR (R187): y register or. -/
  | yor (d : Nat) (a : Nat) (b : Nat)
  /-- YPUSH (R187): Pushes a y register to qy0. -/
  | ypush (a : Nat)
  /-- YPOP (R187): Pops qz1 into a y register. -/
  | ypop (d : Nat)
  /-- ZBR (R188): Z-stream unconditional branch. -/
  | zbr (i : Nat)
  /-- ZBEQ (R188): Z-stream branch on equal y registers. -/
  | zbeq (d : Nat) (a : Nat) (i : Nat)
  /-- ZBNE (R188): Z-stream branch on unequal y registers. -/
  | zbne (d : Nat) (a : Nat) (i : Nat)
  /-- ZLOOP (R188): Decrements a y register and branches if nonzero. -/
  | zloop (d : Nat) (i : Nat)
  /-- ZEND (R189): Ends the Z-stream. -/
  | zend
  /-- POWER_ON (R391): Power-on brings the device up in reduced service. -/
  | powerOn (ok : Bool)
  /-- FULL_SERVICE (R391): The device changes from reduced to full service once the package is ready. -/
  | fullService
  /-- FW_RELOAD (R393): A write of go reloads firmware, resets and brings the device up again. -/
  | fwReload (keep : Bool)
  /-- FUNCTION_LEVEL_RESET (R368): An FLR of a virtual function disables its context's queues and resets its function registers. -/
  | functionLevelReset (fn : Nat)
  /-- LINK_INITIALISATION (R369): A port initialises and advertises ZEL and 256-byte flits. -/
  | linkInitialisation (port : Nat)
  /-- PTM_CORRECTION (R340): A PTM comparison slews or steps device time, firing passed timers. -/
  | ptmCorrection (off : Int)
  /-- PPS_PULSE (R340): A 1PPS pulse marks a whole second of TAI for device time. -/
  | ppsPulse (off : Int)
  /-- HOST_READ (R368): A host read through BAR2 is translated and performed. -/
  | hostRead (fn : Nat) (off : Nat) (n : Nat)
  /-- HOST_WRITE (R368): A host posted write through BAR2 is translated and performed in order. -/
  | hostWrite (fn : Nat) (off : Nat) (data : List (BitVec 8))
  /-- PEER_REQUEST (R369): An inbound peer request is checked against pcfg and translated. -/
  | peerRequest (port : Nat) (fn : Nat) (va : Nat) (req : PeerReq)
  /-- SQT_DOORBELL (R367): A write to sqt submits submission entries up to the new tail. -/
  | sqtDoorbell (fn : Nat) (tail : Nat)
  /-- SUBMISSION_ENTRY (R367): A submission entry waiting at the ring head is accepted once its queue has room. -/
  | submissionEntry (fn : Nat)
  /-- KSLOT_LOAD (R365): Loads a key pair into a key slot for an owner. -/
  | kslotLoad (owner : Nat) (slot : Nat)
  /-- KSLOT_UNLOAD (R365): Unloads a key slot whose use count is zero. -/
  | kslotUnload (slot : Nat)
  /-- LFPUSH (R370): Adds a frame to a context's late-frame pool. -/
  | lfpush (frame : Nat) (kind : Nat)
  /-- LFREQ (R370): Gives a polder page a late frame on the host driver's request. -/
  | lfreq (ia : Nat)
  /-- TASK_QUEUE_WORD_WRITE (R318): The host writes a task-queue control word subject to its checks. -/
  | taskQueueWordWrite (q : Nat) (w : Nat)
  /-- MGERR_CLEAR (R370): A write to mgerr clears it. -/
  | mgerrClear
  /-- LOST_CLEAR (R367): A write to lost clears it. -/
  | lostClear (fn : Nat)
  /-- FRAME_TABLE_UPDATE (R207): A host driver update command changes a frame-table entry at the page's home. -/
  | frameTableUpdate (ia : Nat) (e0 : Nat) (e1 : Nat)
  /-- REGISTER_WRITE (R370): A write to a register without behaviour of its own stores the value. -/
  | registerWrite (fn : Nat) (off : Nat) (v : Nat)
  /-- LAUNCH_READY (R319): A monitored write satisfies a launch's last dependence and it becomes ready. -/
  | launchReady (id : Nat)
  /-- DEADLINE_REACHED (R319): Device time reaches a launch's deadline and it becomes ready. -/
  | deadlineReached (id : Nat)
  /-- DISPATCH (R320): The dispatcher chooses a candidate task or gang and places it on a free core. -/
  | dispatch (die : Nat)
  /-- TASK_END (R32): A task whose streams and operations have all ended releases its core. -/
  | taskEnd (core : Nat)
  /-- STREAM_DEADLOCK (R20): All streams blocked with nothing in flight for 4,096 clk raises fault 0x0B. -/
  | streamDeadlock (core : Nat)
  /-- TILE_FULL (R148): The last byte of a tile load lands and the tile becomes full. -/
  | tileFull (core : Nat) (t : Nat)
  /-- VECTOR_QUEUE_ENTRY_FILLED (R231): Every lane read of a vector load has performed and its entry becomes poppable. -/
  | vectorQueueEntryFilled (core : Nat) (q : Nat)
  /-- COPY_COMPLETION (R244): An engine command performs its reads, writes and release and completes or stops. -/
  | copyCompletion (core : Nat) (slot : Nat)
  /-- FOLLOW_ON_MMA (R164): A copy's follow-on MMA arrives and enters the matrix queue. -/
  | followOnMma (core : Nat) (slot : Nat)
  /-- MMA_EXECUTION (R156): An MMA at the queue head with its tile full executes and updates accumulators. -/
  | mmaExecution (core : Nat)
  /-- TFREE_EFFECT (R158): A queued tile free takes effect and the tile becomes empty. -/
  | tfreeEffect (core : Nat)
  /-- ACCRD_EXECUTION (R159): A queued accumulator read converts banks into a vector register. -/
  | accrdExecution (core : Nat)
  /-- ACCZERO_EXECUTION (R160): A queued acczero writes +0 to its banks. -/
  | acczeroExecution (core : Nat)
  /-- FRAME_WALK (R208): A frame-table walk ends in one outcome delivered to every merged requester. -/
  | frameWalk (ctx : Nat) (ia : Nat) (kind : Nat)
  /-- TIER_MOVE (R218): The device moves a backed page between tiers. -/
  | tierMove (ia : Nat) (tier : Nat) (frame : Nat)
  /-- HEAT_SWEEP (R221): Every 1 ms the sweeper decrements page heats. -/
  | heatSweep
  /-- HINTREP_REPORT (R220): A reuse range that contradicts its hint after 4,096 accesses is reported. -/
  | hintrepReport (ctx : Nat) (lrec : Nat) (idx : Nat)
  /-- QUIESCENCE_EPOCH (R223): The quiescence epoch advances every 8 µs. -/
  | quiescenceEpoch
  /-- QUARANTINE_RELEASE (R223): A frame leaves its quarantine queue once qdone reaches its epoch. -/
  | quarantineRelease (tier : Nat)
  /-- STASH_WRITEBACK (R199): Dirty stash lines are written back at a time of the device's choosing. -/
  | stashWriteback (core : Nat) (line : Nat)
  /-- SPILL_ACKNOWLEDGEMENT (R299): The store entry write performs and the spill is acknowledged. -/
  | spillAcknowledgement (core : Nat) (ent : Nat)
  /-- SEARCH_SCAN (R303): A search starts its scan once every covered store entry is written. -/
  | searchScan (core : Nat) (slot : Nat)
  /-- SEARCH_COMPLETION (R335): A search writes its list and performs its release. -/
  | searchCompletion (core : Nat) (slot : Nat)
  /-- REFRESH_DEBT_REPAYMENT (R337): At a refresh debt of 8 the owed refreshes are issued. -/
  | refreshDebtRepayment (dram : Nat)
  /-- WATCHDOG (R338): A sequencer watchdog expires and resets its sequencer and search unit. -/
  | watchdog (seq : Nat)
  /-- WATCHDOG_RESET_COMPLETE (R338): The watchdog reset completes and the sequencer accepts forks. -/
  | watchdogResetComplete (seq : Nat)
  /-- MESSAGE_RECEIVABLE (R333): A sent message becomes receivable in its mailbox. -/
  | messageReceivable (core : Nat) (seq : Nat)
  /-- BARRIER_RELEASE (R328): Members waiting on an advanced phase pass their waits. -/
  | barrierRelease (gang : Nat) (slot : Nat)
  /-- WAITW_WAKE (R255): A write to a watched line re-reads the word for a waiting waitw. -/
  | waitwWake (core : Nat)
  /-- WAITW_TIMEOUT (R255): A waitw limit passes and it completes with result 0. -/
  | waitwTimeout (core : Nat)
  /-- EVENT_WINDOW (R91): An event-counter window of window µs expires and a new window starts. -/
  | eventWindow (core : Nat) (c : Nat)
  /-- SLOT_TIMER (R346): At ndl − lead an armed slot's timer submits its launch and advances ndl. -/
  | slotTimer (ctx : Nat) (i : Nat)
  /-- FIN_WRITE (R350): A write to fin posts input frames or is discarded. -/
  | finWrite (ctx : Nat) (i : Nat) (v : Nat)
  /-- SLUICE (R351): The sluice applies the next posted frame in one atomic step at the slot's home. -/
  | sluice (ctx : Nat) (i : Nat)
  /-- SLUICE_MEMORY_WORK (R353): A frame's memory work finishes and fdone advances. -/
  | sluiceMemoryWork (ctx : Nat) (i : Nat)
  /-- SILENCE_EVICTION (R359): A slot silent for sil µs is evicted and its state pages get late frames. -/
  | silenceEviction (ctx : Nat) (i : Nat)
  /-- EVICTION_COMPLETE (R359): Eviction finishes and event 4 or 5 is sent. -/
  | evictionComplete (ctx : Nat) (i : Nat)
  /-- POWER_TIER_ENTRY (R371): The device enters the deepest power tier whose conditions and latency allow. -/
  | powerTierEntry
  /-- POWER_TIER_EXIT (R371): A request, monitored write or timer instant returns the device to W0. -/
  | powerTierExit
  /-- TRAP_DELIVERY (R380): The latched record is written to the trap area and the trap counter is released. -/
  | trapDelivery (core : Nat)
  /-- PMREQ_WRITE (R384): A write to pmreq pre-empts a task by save, abort or refusal. -/
  | pmreqWrite (ctx : Nat) (v : Nat)
  /-- REGION_CREATE (R364): An rgreq create zeros and registers a new region on a core. -/
  | regionCreate (ctx : Nat) (v : Nat)
  /-- REGION_RELEASE (R364): An rgreq release frees a region's rows. -/
  | regionRelease (ctx : Nat) (v : Nat)
  /-- REGION_BIND (R364): An rgreq bind writes rgbind as a region's spill binding. -/
  | regionBind (ctx : Nat) (v : Nat)
  /-- TQSEL_WRITE (R364): A write to tqsel selects a queue of the context or faults. -/
  | tqselWrite (ctx : Nat) (v : Nat)
  /-- DIKE_WRITE (R210): A write to dike.units changes the polder reservation within quota and capacity. -/
  | dikeWrite (ctx : Nat) (v : Nat)
  /-- FTOP_WRITE (R217): A write to ftop changes ord, pol and plc of the selected page. -/
  | ftopWrite (ctx : Nat) (v : Nat)
  /-- BFMT_WRITE (R87): A write to a bank format register is checked and stored. -/
  | bfmtWrite (core : Nat) (n : Nat) (v : Nat)
  /-- WINDOW_WRITE (R203): A window register write completes after earlier translations finish. -/
  | windowWrite (ctx : Nat) (n : Nat) (v : Nat)
  /-- STBASE_WRITE (R341): Writes to stbase, stcnt or sqbase are refused while any slot is not free. -/
  | stbaseWrite (ctx : Nat) (n : Nat) (v : Nat)
  /-- TRBASE_WRITE (R379): Setting trbase.v checks the trap area. -/
  | trbaseWrite (ctx : Nat) (v : Nat)
  /-- SVBASE_WRITE (R379): Writes to svbase or svstride are checked against the save area and running tasks. -/
  | svbaseWrite (ctx : Nat) (n : Nat) (v : Nat)
  /-- EVTOT_CLEAR (R91): Any write to evtot sets it to zero. -/
  | evtotClear (ctx : Nat) (c : Nat)
  /-- REPLC_CLEAR (R101): Any write to replc sets it to zero. -/
  | replcClear (ctx : Nat)
  /-- ZSLOG_CLEAR (R167): Any write to zslog0 clears the zero-substitution log. -/
  | zslogClear (ctx : Nat)
  /-- VLOG_CLEAR (R363): Any write to vlog0 or vlog1 clears the violation log. -/
  | vlogClear (ctx : Nat)
  /-- MCLOG_CLEAR (R379): Any write to mclog0 or mclog1 clears both. -/
  | mclogClear (ctx : Nat)
  /-- HINTREP_CLEAR (R220): Any write to hintrep clears it. -/
  | hintrepClear (ctx : Nat)
  /-- POWER_OFF (R394): Loss of module power loses array rows, polder lines, stream-slot device words, running tasks and memory. -/
  | powerOff
  /-- ACCESS_PERFORMED (R262): A granted access performs at its point of coherence, entering the byte's coherence order. -/
  | accessPerformed (k : Nat)
  /-- REMOTE_WRITE_ACKNOWLEDGEMENT (R275): A peer acknowledges a posted write through a peer window, or an earlier write to host memory completes on the link. -/
  | remoteWriteAcknowledgement (k : Nat)
  /-- FIRMWARE_STATE_ERROR (R393): An uncorrectable error reaches firmware, dispatcher or monitor state and the device halts awaiting reload. -/
  | firmwareStateError
  /-- FIRMWARE_LOAD_COMPLETE (R393): A reload ends, leaving fwst.st reloading for reduced service or, after both loads fail, for halted. -/
  | firmwareLoadComplete (ok : Bool)
  /-- ARITHMETIC_CLOCK_CHANGE (R3): The power governor lowers or restores the arithmetic clock, no lower than 1.2 GHz. -/
  | arithmeticClockChange (mhz : Nat)
  deriving DecidableEq, Repr

/-- The two slots of an X pair word (R49): the vector-slot or control instruction and the scalar-slot one.
Both carry the word's guard. -/
structure XWord where
  v : Instr
  k : Instr
  deriving DecidableEq, Repr

end Sys2Proof
end

