-- ==== Sys2Proof/Machine/Codes.lean ====
section
/-! DEFINITION. The code sets that encodings name: operand kinds, format codes (Tables 3.1 to 3.3 and R72), and
the defined special-register numbers with their access (Table 4.4 and the tables it names). -/

namespace Sys2Proof.Machine

/-- A format code that `cvt` names (R121): the integer formats of up to 32 bits and the floating formats. -/
def isPlainFmt (f : Nat) : Bool := (decide (1 ≤ f) && decide (f ≤ 6)) || (decide (8 ≤ f) && decide (f ≤ 15))

/-- An MX format code (R72, R73). -/
def isMxFmt (f : Nat) : Bool := decide (16 ≤ f) && decide (f ≤ 21)

/-- A format code of `mma` (Table 6.2). -/
def isMmaFmt (f : Nat) : Bool := decide (f = 2) || (decide (9 ≤ f) && decide (f ≤ 12))

/-- A format code of `accrd` (Table 6.2). -/
def isAccFmt (f : Nat) : Bool := decide (8 ≤ f) && decide (f ≤ 12)

/-- How the tasks of a context may access a special register (R100, R101). -/
inductive SrAccess where
  /-- read-only for every level -/
  | ro
  /-- read and written by user tasks -/
  | rw
  /-- read by supervisors, written by none -/
  | roSup
  /-- read and written by supervisors -/
  | rwSup
  deriving DecidableEq, Repr

/-- The access of special register n, or none where the number is not defined (Table 4.4, R101; Table 15.4, R379;
Table 6.6, R167; Tables 8.5 and 8.6, R210, R217, R220, R223; Table 8.2; Table 13.1; Table 14.2, R363). -/
def srAccess (n : Nat) : Option SrAccess :=
  if n ≤ 4 then some .ro
  else if n = 16 then some .rw
  else if 24 ≤ n ∧ n ≤ 31 then some .ro
  else if 64 ≤ n ∧ n ≤ 87 then some .rw
  else if 96 ≤ n ∧ n ≤ 101 then some .rwSup
  else if 104 ≤ n ∧ n ≤ 109 then some .rwSup
  else if 112 ≤ n ∧ n ≤ 117 then some .ro
  else if n = 120 then some .roSup
  else if n = 121 then some .rwSup
  else if n = 129 ∨ n = 131 ∨ n = 135 then some .roSup
  else if 128 ≤ n ∧ n ≤ 137 then some .rwSup
  else if 184 ≤ n ∧ n ≤ 186 then some .rwSup
  else if n = 193 ∨ n = 194 ∨ n = 198 ∨ n = 199 then some .roSup
  else if 192 ≤ n ∧ n ≤ 197 then some .rwSup
  else if 256 ≤ n ∧ n ≤ 322 then some .rwSup
  else if n = 323 then some .roSup
  else if 384 ≤ n ∧ n ≤ 389 then some .roSup
  else if n = 393 ∨ n = 396 ∨ n = 397 then some .roSup
  else if 390 ≤ n ∧ n ≤ 395 then some .rwSup
  else if 400 ≤ n ∧ n ≤ 415 then some .roSup
  else none

/-- The special register's number is defined (R100). -/
def srDefined (n : Nat) : Bool := (srAccess n).isSome

/-- No level may write the special register with `mts` (R100). -/
def srReadOnly (n : Nat) : Bool :=
  match srAccess n with
  | some .ro => true
  | some .roSup => true
  | _ => false

/-- A user task's access to the special register raises 0x02 (R100). -/
def srSupervisor (n : Nat) : Bool :=
  match srAccess n with
  | some .roSup => true
  | some .rwSup => true
  | _ => false

end Sys2Proof.Machine

namespace Sys2Proof

/-- The guard field holds no reserved value (R49, R50). -/
def XGuard.ok (g : XGuard) : Bool :=
  decide (g.ginv < 2) && (decide (g.gpred < 96) || (decide (g.gpred = 127) && decide (g.ginv = 0)))

/-- The operand exists (Table 2.7). -/
def VOp.ok : VOp → Bool
  | .vec n => decide (n < 64)
  | .k n => decide (n < 32)
  | .const n => decide (n < 64)
  | .lit n => decide (n < 64)

/-- The operand is of kind 00. -/
def VOp.isVec : VOp → Bool
  | .vec _ => true
  | _ => false

/-- The operand is of kind 01. -/
def VOp.isK : VOp → Bool
  | .k _ => true
  | _ => false

/-- The operand is of kind 11. -/
def VOp.isLit : VOp → Bool
  | .lit _ => true
  | _ => false

/-- The eight bits of the operand: kind, then field (Table 2.6). -/
def VOp.enc : VOp → Nat
  | .vec n => n
  | .k n => 64 + n
  | .const n => 128 + n
  | .lit n => 192 + n

end Sys2Proof
end

