-- ==== Sys2Proof/Machine/State.lean ====
section
/-! DEFINITION. The machine's state as plain data: everything the spec gives the machine, grouped by core, context,
function, sequencer and device; the fields marked "model" are the model's own. -/

namespace Sys2Proof.Machine

/-- A stream of a task: A, X joined, X cluster c forked, Z (R13, R21). -/
inductive Strm where
  | a
  | x
  | xc (c : Nat)
  | z
  deriving DecidableEq, Repr

/-- Who makes the next step (model): a stream of a core, a base-die sequencer, a device event, or the passing of
device time. -/
inductive Turn where
  | strm (core : Nat) (st : Strm)
  | seqr (n : Nat)
  | dev (i : Instr)
  | time (ns : Nat)
  deriving DecidableEq, Repr

/-- What a stream waits for, as Table 15.3 classes it. -/
inductive Wait where
  /-- an empty queue, by its index in Table 15.3 -/
  | empty (q : Nat)
  /-- a full queue -/
  | full (q : Nat)
  /-- a tile that is not full (`full`), or not empty -/
  | tile (t : Nat) (full : Bool)
  /-- sync bits that are not all ones (`high`) or zeros; the wait clears them as it passes (`take`) -/
  | sync (mask : Nat) (high take : Bool)
  | join
  /-- a stall of class "in flight" -/
  | flight (obj : Nat)
  /-- the matrix queue is full -/
  | mqFull
  deriving DecidableEq, Repr

/-- Where a stream stands (Table 15.3). -/
inductive StrmSt where
  | absent
  | running
  | ended
  deriving DecidableEq, Repr

/-- A stream: where it stands, what it waits for, and its pc (R13). -/
structure StrmRec where
  st : StrmSt := .absent
  wait : Option Wait := none
  pc : Word := 0
  deriving DecidableEq, Repr

/-- An active loop (R137, R140): the loop word's pc, body words, N, inc, I, latched steps by cluster, remaining count, increments made. -/
structure LoopRec where
  pc : Word
  n : Nat
  lc : Nat
  inc : Bool
  ki : Nat
  step : Sparse Word
  left : Word
  done : Word
  deriving DecidableEq, Repr

/-- What a step did (model): it took effect, it stalled, or its core took a fault. -/
inductive Note where
  | done
  | stalled
  | faulted
  deriving DecidableEq, Repr

/-- The sources of a pair word in progress, as they stood before either slot wrote (R41; model): the k copies, the guard
lanes, and the k register that the vector slot has written. -/
structure Latch where
  k : Sparse Word
  guard : BitVec 1024
  kd : Option Nat := none
  deriving DecidableEq, Repr

/-- A vector-queue entry: its 1024 lanes, whether it is visible to its reader yet (R15, R231), and the lanes with an
uncorrectable error (R389). -/
structure VEntry where
  lanes : Sparse Lane := []
  ready : Bool := true
  bad : Sparse Bool := []
  deriving DecidableEq, Repr

/-- A tile's state (R148). -/
inductive TileSt where
  | empty
  /-- a `tld` has begun: its image's scratchpad address, and its scale area's -/
  | loading (img : Nat) (sc : Option Nat)
  /-- a copy fill from this engine slot has begun -/
  | filling (slot : Nat)
  | full
  deriving DecidableEq, Repr

/-- A command of the matrix queue (R162). -/
inductive MCmd where
  /-- an MMA: operation 0 `mma`, 1 `mma.ts`, 2 `mma.mx`; format, half, tile, first bank, granule; frees its tile; the handle of the
  `copy.mma` that it follows (0: from X) -/
  | mma (op fmt h t bank w : Nat) (fr : Bool) (hdl : Word)
  | tfree (t : Nat)
  | accrd (rm fmt d bank : Nat) (cl : Nat)
  | acczero (bank n : Nat)
  deriving DecidableEq, Repr

/-- A fault on its way to a core or a sequencer (R374, R377, R378). -/
structure FaultInfo where
  code : Nat
  va : Option Nat := none
  ia : Option Nat := none
  det : Nat := 0
  tcode : Nat := 0
  call : Bool := false
  e0 : Word := 0
  e1 : Word := 0
  hdl : Word := 0
  /-- the stream resumes at the next word (`trap`, `ecall`) -/
  next : Bool := false
  /-- raised against the core, not against a stream -/
  core : Bool := false
  deriving DecidableEq, Repr

/-- What a replayable region holds back, in program order (R36, R251, R258). -/
inductive Held where
  /-- a store to an intermediate address, by its serial number -/
  | store (no ia : Nat) (data : List Byte)
  /-- a copy command by its slot and serial number: its writes, none before its data has moved; its release scope if it has one -/
  | cmd (slot no : Nat) (writes : Option (List (Nat × List Byte))) (rel : Option Nat)
  /-- a discard: the register that receives its result, and its lines -/
  | disc (d : Nat) (lines : List Nat)
  deriving DecidableEq, Repr

/-- A granted store that has not performed yet (R262 to R266); `ord` 3 marks a release fence and carries no bytes. -/
structure Pend where
  /-- the agent: a core's number for its A-stream, 512 + q for sequencer q -/
  agent : Nat
  /-- its kind and number as the violation log names them (R366) -/
  kind : Nat
  num : Nat
  ctx : Nat
  ia : Nat
  data : List Byte
  /-- ordering kind of the page: 0 strong, 1 release, 2 unordered -/
  ord : Nat
  /-- its place in the order of issue (model), and the epoch in which it was translated (R223) -/
  no : Nat := 0
  epoch : Nat := 0
  deriving DecidableEq, Repr

/-- A write that has performed and is not complete beyond the device yet (R275). -/
structure Remote where
  agent : Nat
  /-- to a peer (else to host memory) -/
  peer : Bool
  deriving DecidableEq, Repr

/-- A page with an open fault episode (R209): its record until it is sent, and how many requesters have merged. -/
structure Episode where
  page : Nat
  ctx : Nat
  mask : Nat
  count : Nat
  time : Nat
  sent : Bool
  deriving DecidableEq, Repr

/-- A request that has left through a peer port (R369): the port, the remote function, the remote virtual address, and the bytes
of a write or the length of a read. -/
structure PeerSent where
  port : Nat
  rfn : Nat
  rva : Nat
  req : PeerReq
  deriving DecidableEq, Repr

/-- A stash window (R199, R257): the virtual address it starts at, and its bank. -/
structure StashWin where
  va : Nat
  bank : Nat
  deriving DecidableEq, Repr

/-- A line that a stash holds: its intermediate address, and whether it is dirty (R199). -/
structure StLine where
  ia : Nat
  dirty : Bool
  deriving DecidableEq, Repr

/-- A key slot (R365). -/
structure KSlot where
  loaded : Bool := false
  owner : Nat := 0
  key : BitVec 512 := 0
  deriving DecidableEq, Repr

/-- A context's registers and pools. -/
structure Ctx where
  /-- the special registers of the context, by number (96 to 415), as last written -/
  sr : Sparse Word := []
  /-- the late-frame pools' frames, by kind: 0 HBM 64 KiB, 1 HBM 2 MiB, 2 second 64 KiB, 3 second 2 MiB (R210, R370) -/
  lf : Sparse (List Nat) := []
  /-- polder blocks in use (`dikeuse.blocks`, R210) -/
  blocks : Nat := 0
  /-- window registers with an uncorrectable error, by number (R389) -/
  bad : Sparse Bool := []
  deriving DecidableEq, Repr

/-- A PCI Express function's registers by offset in BAR0 (Table 14.3), and the interrupts it has been sent, by vector. -/
structure Fn where
  reg : Sparse Word := []
  irq : Sparse Nat := []
  deriving DecidableEq, Repr

/-- A task (R12, R22, R24, R31 to R37). -/
structure Task where
  /-- work identifier -/
  wid : Word := 0
  /-- virtual address of the launch record -/
  lva : Nat := 0
  /-- the launch record's words L0 to L31 (R24) -/
  lrec : Sparse Word := []
  /-- its launch's place in the acceptance order (R317) -/
  launch : Nat := 0
  /-- ready time (R317) -/
  rdy : Nat := 0
  /-- inside the replayable region (R36) -/
  inRegion : Bool := false
  /-- its gang (R325) -/
  gang : Option Nat := none
  /-- the segment that its affinity group was given (R321) -/
  seg : Option Nat := none
  deriving DecidableEq, Repr

/-- The queues of Table 1.2, each with its oldest entry first. -/
structure Queues where
  qv : Sparse (List VEntry) := []
  /-- entries of `qv`j that cluster c has popped and another has not, at 4j + c (R16, R377) -/
  hv : Sparse Nat := []
  qs : Sparse (List Word) := []
  /-- the same of `qs`j -/
  hs : Sparse Nat := []
  qx : Sparse (List Word) := []
  qz0 : List (BitVec 320) := []
  qz1 : List Lane := []
  qy0 : List Lane := []
  deriving DecidableEq, Repr

/-- The matrix engine's state (R147 to R152, R162). -/
structure Matrix where
  /-- element images: byte i of tile t at 8192t + i -/
  tile : Sparse Byte := []
  /-- scale areas: byte i of tile t at 1024t + i -/
  tsc : Sparse Byte := []
  tst : Sparse TileSt := []
  /-- the weight buffer's bytes (R149), and one past the highest granule that the task has written (R168) -/
  wbuf : Sparse Byte := []
  wbTop : Nat := 0
  /-- accumulator words: word w of bank b at 512b + w (R151) -/
  acc : Sparse Lane := []
  /-- the held map (R152) -/
  held : BitVec 128 := 0
  /-- the command queue, oldest first (R162) -/
  mq : List MCmd := []
  /-- slots of `copy.mma` commands whose follow-ons have arrived and wait for room, in order of arrival (R162, R164) -/
  wait : List Nat := []
  /-- bytes of tiles and scale areas with an uncorrectable error (R166): 1 their own; 2 + a where a `tld` met it at scratchpad
  address a -/
  tileBad : Sparse Nat := []
  tscBad : Sparse Nat := []
  /-- bytes of the weight buffer, and accumulator words, with an uncorrectable error (R166) -/
  wbBad : Sparse Bool := []
  accBad : Sparse Bool := []
  deriving DecidableEq, Repr

/-- A region table entry with its spill binding and removal count (R170, R298). -/
structure Region where
  v : Bool := false
  ctx : Nat := 0
  arr : Nat := 0
  /-- first row ÷ 8 -/
  first : Nat := 0
  /-- rows ÷ 8 - 1 -/
  len : Nat := 0
  gen : Nat := 0
  bind : Word := 0
  rcnt : Nat := 0
  deriving DecidableEq, Repr

/-- The Z-stream's registers (R174, R175, R181, R186, R308). -/
structure ZState where
  y : Sparse Lane := []
  zk : BitVec 320 := 0
  /-- the field latch: column and width -/
  latch : Option (Nat × Nat) := none
  /-- the handle of each array's active region -/
  act : Sparse Nat := []
  /-- handles of the regions the task has activated, with their rows (R29, R173) -/
  used : List (Nat × Nat) := []
  /-- tag t of array a at 8a + t -/
  tags : Sparse (BitVec 8192) := []
  /-- the spill-started bit -/
  spb : Bool := false
  deriving DecidableEq, Repr

/-- An engine command in flight (R242 to R251, R334): what it was issued with. -/
structure Cmd where
  /-- 0 `copy`, 1 `gather`, 2 `scatter`, 3 `rcopy`, 4 `copy.mma`, 5 `srch` -/
  kind : Nat
  scope : Nat
  /-- source record, W0 to W11; of a search its command, C0 to C7 -/
  src : List Word
  /-- destination record; empty for none -/
  dst : List Word := []
  /-- the context's special registers at issue, for their windows (R203) -/
  win : Sparse Word := []
  /-- `nmode` at issue (R88) -/
  nmode : Word := 0
  /-- format codes of the two ends and, of a scratchpad end, the format words of its banks in order (R88, R238) -/
  fs : Nat := 0
  fd : Nat := 0
  bs : List Word := []
  bd : List Word := []
  /-- the follow-on's descriptor (R163) -/
  desc : Word := 0
  /-- its data has landed; its follow-on has not entered the queue (R164) -/
  landed : Bool := false
  /-- its place in the order of issue (model) -/
  no : Nat := 0
  /-- it has begun to write its tile (R148) -/
  begun : Bool := false
  /-- the banks of its follow-on were not held when it arrived (R164) -/
  bad : Bool := false
  /-- search unit (R334) -/
  su : Nat := 0
  /-- the scan has run: the list it found (R303) -/
  found : Option (List (Nat × Nat)) := none
  deriving DecidableEq, Repr

/-- What became of the command of an engine slot (R249, R250). -/
inductive SlotSt where
  | idle
  | flight
  | completed
  | cancelled
  | stopped
  deriving DecidableEq, Repr

/-- An engine slot (R249): its generation, its command, and a fault not yet delivered (R376). -/
structure ESlot where
  gen : Nat := 0
  st : SlotSt := .idle
  cmd : Option Cmd := none
  flt : Option FaultInfo := none
  deriving DecidableEq, Repr

/-- A mailbox (R330): a message, whether it is receivable yet (R333), and the error words of a failure (R332). -/
structure Mbox where
  msg : Option (List Word) := none
  ready : Bool := false
  err : Option (Word × Word) := none
  deriving DecidableEq, Repr

/-- A `waitw` in progress (R255). -/
structure Waitw where
  /-- the device time at which it started, and its limit in ns, 0 for none -/
  since : Nat
  limit : Nat
  /-- its condition (0 `eq`, 1 `ne`, 2 `geu`, 3 `ltu`) and registers -/
  cc : Nat
  d : Nat
  a : Nat
  b : Nat
  /-- the word's intermediate address, translated once; none where the wait restarts after a save -/
  ia : Option Nat := none
  deriving DecidableEq, Repr

/-- How a frozen core came to be frozen, for `eret` (R375, R382, R386, R387). -/
inductive Frz where
  /-- a fault of the stream of this code at its word; the fault's code -/
  | strm (st code : Nat)
  /-- a fault taken at a boundary of the stream, or after the word -/
  | after (st code : Nat)
  /-- raised against the core -/
  | core (code : Nat)
  /-- the completion add faulted (R27) -/
  | cmpl
  /-- a save failed (R386) -/
  | save
  /-- a restore failed (R387) -/
  | restore
  deriving DecidableEq, Repr

/-- What has an uncorrectable error in a core's registers, queues and scratchpad (R389). -/
structure Ecc where
  /-- registers: s at 0, lc at 64, zk at 80, y at 96, register n of k of cluster c at 128 + 32c + n, predicates at 256 -/
  reg : Sparse Bool := []
  /-- lane l of vector register n at 1024n + l -/
  lane : Sparse Bool := []
  /-- entries of the queues other than `qv`, at 32 × the queue's place in Q28 and Q29 + the entry's, the oldest first -/
  que : Sparse Bool := []
  /-- scratchpad bytes -/
  spad : Sparse Bool := []
  deriving DecidableEq, Repr

/-- A core (R1, R11 to R21, R28, R31). -/
structure Core where
  task : Option Task := none
  /-- frozen by a fault, and how (R375) -/
  frozen : Option Frz := none
  /-- the latched composite record, by word (R377), and whether its delivery is to come (R380) -/
  rcd : Sparse Word := []
  rcdDue : Bool := false
  /-- the count of clk for which every stream has been blocked with nothing in flight (R20) -/
  dead : Nat := 0
  /-- code of the stream that ended last (R32) -/
  lastEnd : Nat := 0
  /-- s0 to s63 (R13) -/
  s : Sparse Word := []
  /-- lc0 to lc7 (R135) -/
  lc : Sparse Word := []
  /-- streams by the code of Table 15.2: 0 A, 1 X joined, 2 + c X cluster c, 6 Z -/
  strm : Sparse StrmRec := []
  /-- X is in forked mode (R21) -/
  forked : Bool := false
  /-- k registers: register n of cluster c at 32c + n -/
  k : Sparse Word := []
  /-- constant page of each cluster (R51) -/
  cpg : Sparse Nat := []
  /-- constant bank (R241) -/
  cb : Sparse Word := []
  /-- vector registers, each by lane -/
  v : Sparse (Sparse Lane) := []
  /-- predicates, a bit for each lane -/
  p : Sparse (BitVec 1024) := []
  /-- active loops of the joined stream (1) and of cluster c (2 + c), innermost first (R139) -/
  loops : Sparse (List LoopRec) := []
  /-- the repeat in progress of the same streams (R138) -/
  reps : Sparse (Option LoopRec) := []
  /-- sb0 to sb7 (R19) -/
  sb : BitVec 8 := 0
  /-- `nmode` (R89) -/
  nmode : Word := 0
  /-- `bfmt0` to `bfmt23` (R87); unlisted: FP32 -/
  bfmt : Sparse Word := []
  /-- generators that have drawn; 0: still at its seed (R81) -/
  gens : Sparse Lane := []
  /-- `evcnt0` to `evcnt5` (R91) -/
  evcnt : Sparse Nat := []
  /-- device time at which each class's window started (R91) -/
  evwin : Sparse Nat := []
  /-- traps due at the next boundary of a stream (R91): the stream's code, the event class, and the handle of an engine command -/
  due : List (Nat × Nat × Word) := []
  /-- the fault of a spill, for the Z-stream's next boundary (R209, R299) -/
  zflt : Option FaultInfo := none
  /-- `clkc` (R101) -/
  clkc : Word := 0
  /-- `leftq` by context (R101) -/
  leftq : Sparse Word := []
  /-- scratchpad bytes, stash banks included (R197) -/
  spad : Sparse Byte := []
  /-- stash windows (R199) -/
  stash : List StashWin := []
  /-- lines that the stash holds, by 1024 × bank + line -/
  stLine : Sparse (Option StLine) := []
  /-- lines in the scalar cache, by line of the intermediate address, and their bytes (R200) -/
  scLine : Sparse Bool := []
  scByte : Sparse Byte := []
  /-- held stores, queued copies and discards, oldest first (R36) -/
  held : List Held := []
  q : Queues := {}
  mx : Matrix := {}
  z : ZState := {}
  /-- region table (R170); it and the rows belong to contexts, not to the task -/
  regs : Sparse Region := []
  /-- rows: row r of array a at 8192a + r (R169) -/
  rows : Sparse (BitVec 320) := []
  /-- words of rows with an uncorrectable error: word j of row r of array a at 8 × (8192a + r) + j (R195) -/
  badRow : Sparse Bool := []
  /-- arrival counts: tile t at t, bank n at 16 + n (R245) -/
  arr : Sparse Nat := []
  /-- engine slots (R249) -/
  eng : Sparse ESlot := []
  /-- mailboxes by sequencer (R330) -/
  outBox : Sparse Mbox := []
  inBox : Sparse Mbox := []
  waitw : Option Waitw := none
  /-- the slot at which a `bar.sync` has arrived and waits (R327) -/
  barSync : Option Nat := none
  /-- a `trunc` waits for its memory work: the slot's intermediate address, and the work's number (R356) -/
  trunc : Option (Nat × Nat) := none
  /-- the record that a stalled `launch` has read (R322) -/
  launchRec : Option (Sparse Word) := none
  /-- saves made on this core (R385) -/
  saves : Nat := 0
  ecc : Ecc := {}
  deriving DecidableEq, Repr

/-- A base-die sequencer with its search unit (R330 to R332, R338). -/
structure Seqr where
  s : Sparse Word := []
  pc : Word := 0
  running : Bool := false
  /-- the core whose task forked the stream, and that task's launch and work identifier -/
  owner : Option Nat := none
  olaunch : Nat := 0
  owid : Word := 0
  ctx : Nat := 0
  /-- the forking task's special registers at the fork, for their windows (R331) -/
  win : Sparse Word := []
  /-- stalled in `msend` or `mrecv` -/
  waiting : Bool := false
  /-- the watchdog's count in ns -/
  wd : Nat := 0
  /-- in a watchdog reset -/
  resetting : Bool := false
  /-- s registers with an uncorrectable error (R389) -/
  bad : Sparse Bool := []
  deriving DecidableEq, Repr

/-- A dependence word of a launch (R26): its intermediate address, its target, and whether its last reading met it (R319). -/
structure Dep where
  ia : Nat
  target : Nat
  met : Bool := false
  deriving DecidableEq, Repr

/-- An accepted launch (R24 to R26, R317 to R320). -/
structure Launch where
  /-- place in the acceptance order -/
  id : Nat
  lva : Nat
  lrec : Sparse Word
  /-- tasks dispatched -/
  next : Nat := 0
  /-- the segment that its affinity group in progress was given (R321) -/
  seg : Nat := 0
  /-- dependence words in use -/
  deps : List Dep := []
  /-- the dependence words have been satisfied (R26) -/
  sat : Bool := false
  /-- device time at which it became ready -/
  ready : Option Nat := none
  /-- the stream slot that launched it (R346), by gnum -/
  slot : Option Nat := none
  deriving DecidableEq, Repr

/-- A task back in its queue (R33): aborted, requeued, or saved on a core. -/
structure Requeued where
  task : Task
  /-- the page it waits for (R37) -/
  page : Option Nat := none
  /-- the core it left, of a gang's member (R325) -/
  core : Option Nat := none
  deriving DecidableEq, Repr

/-- A saved task (R384 to R387): its core and the state its image holds. -/
structure Saved where
  core : Nat
  task : Task
  body : Core
  /-- the number of the free values that fill the image's sections (R385) -/
  fill : Nat
  deriving DecidableEq, Repr

/-- A gang and its barrier instances (R325, R326). -/
structure Gang where
  id : Nat
  /-- members by work identifier -/
  members : List Word
  ended : List Word := []
  /-- phase of each slot -/
  phase : Sparse Nat := []
  /-- arrived bits: slot and member -/
  arrived : List (Nat × Word) := []
  /-- 0: in one segment; 1: on one die; 2: on several -/
  span : Nat := 0
  deriving DecidableEq, Repr

/-- A spill that is not acknowledged (R299). -/
structure Spill where
  core : Nat
  ent : Nat
  gen : Nat
  /-- region row, count, store address of its entry, image with bit 319 cleared, search unit -/
  row : Nat
  n : Nat
  ia : Nat
  image : BitVec 320
  su : Nat
  ctx : Nat
  deriving DecidableEq, Repr

/-- The memory work of a frame or a truncation (R351, R352). -/
structure SlWork where
  /-- its number among the free values taken (model) -/
  id : Nat
  /-- frame number; none for `trunc` -/
  frame : Option Nat
  /-- token writes: position and token -/
  toks : List (Nat × Nat)
  /-- a cut to x with checkpoint j -/
  cut : Option (Nat × Nat)
  deriving DecidableEq, Repr

/-- What the device keeps of a stream slot that is not free (R342, R346, R351). -/
structure SlotDev where
  used : Bool := false
  ctx : Nat := 0
  idx : Nat := 0
  /-- intermediate address of its first byte -/
  ia : Nat := 0
  /-- its last timed launch -/
  launch : Option Nat := none
  work : List SlWork := []
  /-- an eviction is in progress; whether every state page has its frame (R359) -/
  evict : Option Bool := none
  deriving DecidableEq, Repr

/-- A frame in quarantine (R223). -/
structure Quar where
  tier : Nat
  frame : Nat
  big : Bool
  epoch : Nat
  deriving DecidableEq, Repr

/-- The machine's state. -/
structure State where
  /-- the agent that acts (model) -/
  cur : Turn := .time 0
  /-- the turns to come (model) -/
  agenda : List Turn := []
  /-- the default rotation's place (model) -/
  rot : Nat := 0
  /-- how many free values have been taken (model) -/
  fresh : Nat := 0
  /-- what the last instruction did (model) -/
  note : Note := .done
  /-- the sources of the pair word in progress (model) -/
  latch : Option Latch := none
  /-- device time in ns of TAI (R340) -/
  dtime : Nat := 0
  /-- PTM lock, 1PPS and last correction, as `tsync` shows them (Table 13.1), and the correction still to be slewed -/
  tsync : Word := 0
  slew : Int := 0
  /-- nanoseconds of slewing that have not taken up a whole one of the correction yet -/
  slewRem : Nat := 0
  /-- arithmetic clock in MHz (R1, R3, R4) -/
  mhz : Nat := 1700
  /-- power tier (R371), and the device times of the last host or peer request and the last memory access -/
  tier : Nat := 0
  lastReq : Nat := 0
  lastMem : Nat := 0
  /-- the boot store's image (R392) -/
  boot : List Byte := []
  /-- backed memory: byte at address a of tier t at 2^52 × t + a; tiers 0 HBM, 1 second, 2 host (R197, R206) -/
  mem : Sparse Byte := []
  /-- what a stored line of 128 bytes was written under: 0 never written, 1 in clear, else the key and tweak (R365) -/
  lkey : Sparse Nat := []
  /-- older values of a byte, each once, that a discard may bring back (R215, R280) -/
  back : Sparse (List Byte) := []
  /-- polder bytes by intermediate address (R211) -/
  pol : Sparse Byte := []
  /-- polder blocks, by 64 KiB piece: 1 + the die that holds the block (R210) -/
  blocks : Sparse Nat := []
  /-- polder lines discarded and not written since (R215) -/
  polDisc : Sparse Bool := []
  /-- 16-byte words of backed memory, and of polder pages by intermediate address, with an uncorrectable error (R389) -/
  badWord : Sparse Bool := []
  badPol : Sparse Bool := []
  /-- granted stores that have not performed, oldest first (R262) -/
  pend : List Pend := []
  /-- stores and commands issued so far (model) -/
  issued : Nat := 0
  /-- writes not acknowledged by a peer or complete on the host link (R275) -/
  remote : List Remote := []
  /-- requests that have left through peer ports, oldest first (R369) -/
  peerOut : List PeerSent := []
  /-- pages with an open fault episode (R209) -/
  episodes : List Episode := []
  /-- sweeps at which a page has stood at zero heat, and sweeps made (R221) -/
  cold : Sparse Nat := []
  sweeps : Nat := 0
  /-- accesses, misses, re-accesses and hits among them of a reuse range on a die (R220), at 16 × (3 × launch + range) + die -/
  ranges : Sparse (Nat × Nat × Nat × Nat) := []
  /-- quarantine queues and epoch (R223) -/
  quar : List Quar := []
  qepoch : Nat := 1
  ctxs : Sparse Ctx := []
  /-- virtual functions enabled (R362) -/
  numVfs : Nat := 63
  /-- interrupts of the device that wait for its writes to complete: function and vector (R278) -/
  irqDue : List (Nat × Nat) := []
  /-- the last latency tolerance message to the host in ns (R371) -/
  ltr : Option Nat := none
  fns : Sparse Fn := []
  /-- management and firmware registers of the physical function, by offset (Tables 14.4 and 15.10) -/
  mg : Sparse Word := []
  kslots : Sparse KSlot := []
  /-- ports that advertised ZEL and 256-byte flits (R77, R369) -/
  zel : Sparse Bool := []
  cores : Sparse Core := []
  seqrs : Sparse Seqr := []
  /-- accepted launches with tasks not yet dispatched (R317), in acceptance order -/
  launches : List Launch := []
  /-- launches accepted since power-on -/
  accepted : Nat := 0
  requeued : List Requeued := []
  saved : List Saved := []
  /-- dispatch counters by die, and the candidate that a die holds to: its launch and task (R320) -/
  dctr : Sparse Word := []
  hold : Sparse (Option (Nat × Word)) := []
  gangs : List Gang := []
  /-- gangs dispatched since power-on -/
  gangNo : Nat := 0
  spills : List Spill := []
  /-- stream slots that are not free, by gnum (R342) -/
  slots : Sparse SlotDev := []
  /-- refresh debts by stack, whose DRAM dies are taken as one (R337) -/
  debt : Sparse Nat := []
  deriving DecidableEq, Repr

/-- Why the machine stops. -/
inductive Fault where
  /-- an access reached a frame beyond the capacity of its tier (R197: 768 GiB of HBM, 2 TiB of second tier), an address
  that does not exist; raised by every access to memory; safe -/
  | noSuchFrame (tier addr : Nat)
  deriving DecidableEq, Repr

/-- Why there is no meaning. -/
inductive Refusal where
  /-- an instruction whose meaning has not been written; raised by the dispatcher alone; safe -/
  | notModelled (mnemonic : String)
  deriving DecidableEq, Repr

/-- The machine right after reset. -/
def State.reset : State := {}

end Sys2Proof.Machine
end

