-- ==== Sys2Proof/Machine/Base.lean ====
section
/-! DEFINITION. The named reads and writes of registers, program counters and streams, and the two ends of a plain
instruction: on to the next word, or to a target. -/

namespace Sys2Proof.Machine

/-- The outcome of a step. -/
abbrev Out := Host.Outcome State Fault Refusal

/-- The code of a stream in Table 15.2. -/
def Strm.code : Strm → Nat
  | .a => 0
  | .x => 1
  | .xc c => 2 + c
  | .z => 6

/-- The tile is loading, from a `tld` or a copy fill (R148). -/
def TileSt.isLoading : TileSt → Bool
  | .loading .. => true
  | .filling _ => true
  | _ => false

/-- The core of the agent that acts. -/
def State.coreNo (s : State) : Nat :=
  match s.cur with
  | .strm c _ => c
  | _ => 0

/-- The stream that acts. -/
def State.strmNo (s : State) : Strm :=
  match s.cur with
  | .strm _ st => st
  | _ => .a

/-- A core by its number (R11). -/
def State.coreAt (s : State) (c : Nat) : Core := s.cores.get {} c

def State.setCore (s : State) (c : Nat) (x : Core) : State := { s with cores := s.cores.set {} c x }

/-- The core of the acting stream. -/
def State.core (s : State) : Core := s.coreAt s.coreNo

/-- The state with the acting stream's core changed. -/
def State.putCore (s : State) (x : Core) : State := s.setCore s.coreNo x

/-- A sequencer by its number (R330). -/
def State.seqrAt (s : State) (n : Nat) : Seqr := s.seqrs.get {} n

def State.setSeqr (s : State) (n : Nat) (x : Seqr) : State := { s with seqrs := s.seqrs.set {} n x }

/-- The n oldest entries of the queue at place i of Q28 and Q29 have left it: the marks of the others move up (R389). -/
def Core.popMarks (c : Core) (i n : Nat) : Core :=
  { c with ecc := { c.ecc with que := c.ecc.que.filterMap fun e =>
      if e.1 / 32 ≠ i then some e else if e.1 % 32 < n then none else some (e.1 - n, e.2) } }

/-- S[n] of the acting A-stream or sequencer; s0 reads zero (R13). -/
def State.rdS (s : State) (n : Nat) : Word :=
  if n = 0 then 0 else
  match s.cur with
  | .seqr q => (s.seqrAt q).s.get 0 n
  | _ => s.core.s.get 0 n

/-- The handle of a command in an engine slot (R249). -/
def Core.handle (c : Core) (slot : Nat) : Word := BitVec.ofNat 64 ((c.eng.get {} slot).gen * 64 + slot)

/-- Register cells that are written have fresh check bits (R389). -/
def Core.fresh (c : Core) (cells : List Nat) : Core :=
  { c with ecc := { c.ecc with reg := cells.foldl (fun m i => m.set false i false) c.ecc.reg } }

/-- The scratchpad of a core with bytes from address a on. -/
def Core.putSpad (c : Core) (a : Nat) (bs : List Byte) : Core :=
  { c with spad := c.spad.setBytes a bs, ecc := { c.ecc with spad := c.ecc.spad.splice false a bs.length fun _ => false } }

/-- A byte of a core's scratchpad as a reader sees it: zero where it has an uncorrectable error (R389). -/
def Core.spadByte (c : Core) (a : Nat) : Byte := if c.ecc.spad.get false a then 0 else c.spad.get 0 a

/-- The bytes of a core's scratchpad, as a reader sees them. -/
def Core.sbytes (c : Core) (a n : Nat) : List Byte := (List.range n).map fun i => c.spadByte (a + i)

/-- S[n] := v; a write to s0 is discarded (R43). -/
def State.wrS (s : State) (n : Nat) (v : Word) : State :=
  if n = 0 then s else
  match s.cur with
  | .seqr q => s.setSeqr q { s.seqrAt q with s := (s.seqrAt q).s.set 0 n v, bad := (s.seqrAt q).bad.set false n false }
  | _ => s.putCore ({ s.core with s := s.core.s.set 0 n v }.fresh [n])

/-- A stream of a core. -/
def Core.strmAt (c : Core) (st : Strm) : StrmRec := c.strm.get {} st.code

def Core.setStrm (c : Core) (st : Strm) (r : StrmRec) : Core := { c with strm := c.strm.set {} st.code r }

/-- The pc of the acting stream or sequencer. -/
def State.pc (s : State) : Word :=
  match s.cur with
  | .seqr q => (s.seqrAt q).pc
  | _ => (s.core.strmAt s.strmNo).pc

/-- The acting stream or sequencer goes on at pc v, waiting for nothing. -/
def State.setPc (s : State) (v : Word) : State :=
  match s.cur with
  | .seqr q => s.setSeqr q { s.seqrAt q with pc := v, waiting := false }
  | _ => s.putCore (s.core.setStrm s.strmNo { s.core.strmAt s.strmNo with pc := v, wait := none })

/-- The instruction took effect, and its stream goes on at pc v. -/
def State.goTo (s : State) (v : Word) : State := { s.setPc v with note := .done }

/-- The instruction took effect, and its stream goes on at the next 32-bit word. -/
def State.step4 (s : State) : State := s.goTo (s.pc + 4)

/-- sext (x, n) of Table 0.3 as a 64-bit word. -/
def sext (n : Nat) (x : Nat) : Word := ((BitVec.ofNat n x).signExtend 64)

/-- Why an instruction does not complete: a fault, or a stall. -/
inductive Stop where
  | fault (f : FaultInfo)
  /-- the step waits and has no effect -/
  | stall (w : Wait)
  /-- the step waits after effects that stay -/
  | pause (w : Wait)
  /-- the machine stops -/
  | out (f : Fault)
  deriving DecidableEq, Repr

/-- A meaning in progress: it reads and changes the state, and may stop. -/
abbrev M (α : Type) := EStateM Stop State α

/-- fault (c) of Table 0.3. -/
def fail {α : Type} (f : FaultInfo) : M α := throw (.fault f)

def stall {α : Type} (w : Wait) : M α := throw (.stall w)

/-- The fault c where the condition holds. -/
def failIf (b : Bool) (f : FaultInfo) : M Unit := if b then fail f else pure ()

/-- A part whose fault nobody answers for: it ends there (a write-back that a request of another agent asks for). -/
def quietly (m : M Unit) : M Unit := tryCatch m fun e =>
  match e with
  | .fault _ => pure ()
  | e => throw e

/-- A part that may wait on its own: a wait of its own ends it without stopping the rest. -/
def attempt (m : M Unit) : M Unit := fun s =>
  match m s with
  | .error (.stall _) _ => .ok () s
  | .error (.pause _) t => .ok () t
  | r => r

/-- The number of the next free value. -/
def takeFresh : M Nat := do
  let s ← get
  set { s with fresh := s.fresh + 1 }
  pure s.fresh

def State.ctxAt (s : State) (c : Nat) : Ctx := s.ctxs.get {} c
def State.setCtx (s : State) (c : Nat) (x : Ctx) : State := { s with ctxs := s.ctxs.set {} c x }
def State.fnAt (s : State) (f : Nat) : Fn := s.fns.get {} f
def State.setFn (s : State) (f : Nat) (x : Fn) : State := { s with fns := s.fns.set {} f x }

/-- The device is in W0 (R371): it sends the exit latency of the tier it is in now. -/
def State.wake (s : State) : State := if s.tier = 0 then s else { s with tier := 0, ltr := some 0 }

/-- The function that acts for a context: its virtual function, or the physical one where that is not enabled (R362). -/
def State.fnOf (s : State) (ctx : Nat) : Nat := if ctx ≤ s.numVfs then ctx else 0

/-- Special register n of context c, as stored. -/
def State.sr (s : State) (c n : Nat) : Word := (s.ctxAt c).sr.get 0 n

def State.setSr (s : State) (c n : Nat) (v : Word) : State :=
  s.setCtx c { s.ctxAt c with sr := (s.ctxAt c).sr.set 0 n v, bad := (s.ctxAt c).bad.set false n false }

/-- Bits hi:lo of a word (R6). -/
def bf (w : Word) (hi lo : Nat) : Nat := w.toNat / 2 ^ lo % 2 ^ (hi - lo + 1)

/-- Bit i of a word. -/
def bit (w : Word) (i : Nat) : Bool := w.toNat.testBit i

/-- w with bits hi:lo holding v. -/
def setBf (w : Word) (hi lo v : Nat) : Word :=
  BitVec.ofNat 64 (w.toNat - bf w hi lo * 2 ^ lo + v % 2 ^ (hi - lo + 1) * 2 ^ lo)

end Sys2Proof.Machine
end

