-- ==== Sys2Proof/Machine/Num.lean ====
section
/-! DEFINITION. Number formats, rounding and conversion (R68 to R86): exact values, the rounding function of R80, the
conversion function of R83, the quantisations of R74 and R75, and the generators of R81. -/

namespace Sys2Proof.Machine

/-- n × 2^e truncated toward zero. -/
def scale2 (n : Nat) (e : Int) : Nat := if 0 ≤ e then n * 2 ^ e.toNat else n / 2 ^ (-e).toNat

/-- One step of Newton's iteration for the integer square root, repeated while it falls. -/
def isqrtIter (n : Nat) : Nat → Nat → Nat
  | 0, x => x
  | k + 1, x => let y := (x + n / x) / 2; if y < x then isqrtIter n k y else x

/-- The greatest integer whose square is not above n. -/
def isqrt (n : Nat) : Nat := if n = 0 then 0 else isqrtIter n (n.log2 + 8) (2 ^ (n.log2 / 2 + 1))

/-- An exact positive real that a device operation forms before it rounds (R80, R83, R114). -/
inductive Mag where
  /-- n / d × 2^e -/
  | ratio (n d : Nat) (e : Int)
  /-- 1 / √(n × 2^e) -/
  | invSqrt (n : Nat) (e : Int)
  /-- 2^(± n × 2^e) -/
  | pow2 (neg : Bool) (n : Nat) (e : Int)
  /-- the magnitude of log2 (n × 2^e) -/
  | log2 (n : Nat) (e : Int)
  deriving DecidableEq, Repr

/-- Bounds of 2^(f / 2^b) × 2^p for f < 2^b, from the square roots of 2: (lo, hi) with lo not above and hi not below. -/
def pow2Frac (p : Nat) (f : Nat) : Nat → Nat × Nat → Nat × Nat → Nat × Nat
  | 0, _, acc => acc
  | b + 1, c, acc =>
    let c' := (isqrt (c.1 * 2 ^ p), isqrt (c.2 * 2 ^ p) + 1)
    pow2Frac p f b c' (if f.testBit b then (acc.1 * c'.1 / 2 ^ p, acc.2 * c'.2 / 2 ^ p + 1) else acc)

/-- floor (2^(f / 2^b) × 2^j), 0 < f < 2^b, at growing precision until both bounds agree: 2^(f + j × 2^b) is the power 2^b of no integer,
so that they do once the precision passes some (j + 2) × 2^b bits. -/
def pow2Floor (f b j : Nat) : Nat → Nat → Nat
  | 0, _ => 0
  | k + 1, w =>
    let p := j + w
    let r := pow2Frac p f b (2 * 2 ^ p, 2 * 2 ^ p) (2 ^ p, 2 ^ p)
    if r.1 / 2 ^ w = r.2 / 2 ^ w then r.1 / 2 ^ w else pow2Floor f b j k (2 * w)

/-- The first k binary digits of log2 of a number in [1, 2) known to lie in [lo, hi] × 2^-p, by repeated squaring;
none where the bounds straddle 2. -/
def log2Digits (p : Nat) : Nat → Nat → Nat → Nat → Option Nat
  | 0, _, _, acc => some acc
  | k + 1, lo, hi, acc =>
    let l := lo * lo / 2 ^ p
    let h := hi * hi / 2 ^ p + 1
    if 2 * 2 ^ p ≤ l then log2Digits p k (l / 2) (h / 2 + 1) (2 * acc + 1)
    else if h ≤ 2 * 2 ^ p then log2Digits p k l h (2 * acc)
    else none

/-- floor (log2 (n × 2^-b) × 2^k) for 2^b < n < 2^(b+1), at growing precision until every digit is certain: n^(2^k) is no power of 2, so
that they are once the precision passes some (b + 2) × 2^k bits. -/
def log2Floor (n b k : Nat) : Nat → Nat → Nat
  | 0, _ => 0
  | t + 1, w =>
    let p := b + k + w
    match log2Digits p k (n * 2 ^ (p - b)) (n * 2 ^ (p - b)) 0 with
    | some r => r
    | none => log2Floor n b k t (2 * w)

/-- The greatest integer not above n / d × 2^s, and whether they are equal. -/
def ratioFl (n d : Nat) (s : Int) : Nat × Bool :=
  let num := if 0 ≤ s then n * 2 ^ s.toNat else n
  let den := if 0 ≤ s then d else d * 2 ^ (-s).toNat
  (num / den, decide (num % den = 0))

/-- The greatest integer not above x × 2^k, and whether x × 2^k is that integer. -/
def Mag.fl : Mag → Int → Nat × Bool
  | .ratio n d e, k => ratioFl n d (e + k)
  | .invSqrt n e, k =>
    let s := 2 * k - e
    let q := if 0 ≤ s then 2 ^ s.toNat / n else 1 / (n * 2 ^ (-s).toNat)
    let whole := if 0 ≤ s then decide (2 ^ s.toNat % n = 0) else decide (n * 2 ^ (-s).toNat = 1)
    (isqrt q, whole && decide (isqrt q * isqrt q = q))
  | .pow2 neg n e, k =>
    if n = 0 then ratioFl 1 1 k else
    if 1024 ≤ scale2 n e then (if neg then (0, false) else ratioFl 1 1 (1024 + k)) else
    let whole := scale2 n e
    let b := (-e).toNat
    let f := if 0 ≤ e then 0 else n % 2 ^ b
    if f = 0 then ratioFl 1 1 ((if neg then -(whole : Int) else whole) + k) else
    let i : Int := if neg then -(whole : Int) - 1 else whole
    let g := if neg then 2 ^ b - f else f
    if i + k < 0 then (0, false) else (pow2Floor g b (i + k).toNat 256 64, false)
  | .log2 n e, k =>
    let b := n.log2
    let t : Int := e + b
    if n = 2 ^ b then ratioFl t.natAbs 1 k else
    -- log2 x = t + f with 0 < f < 1 irrational
    if k < 0 then
      (if 0 ≤ t then t.natAbs / 2 ^ (-k).toNat else ((-t).natAbs - 1) / 2 ^ (-k).toNat, false)
    else
      let fk := log2Floor n b k.toNat 256 64
      if 0 ≤ t then (t.natAbs * 2 ^ k.toNat + fk, false)
      else ((-t).natAbs * 2 ^ k.toNat - fk - 1, false)

/-- A floating-point element format (Table 3.1). -/
structure FFmt where
  /-- all bits, sign included -/
  width : Nat
  /-- mantissa bits -/
  mant : Nat
  bias : Nat
  hasInf : Bool
  /-- the default NaN, where the format has one -/
  nan : Option Nat
  /-- the pattern of the largest finite magnitude -/
  maxBits : Nat
  deriving DecidableEq, Repr

def fp32 : FFmt := ⟨32, 23, 127, true, some 0x7FC00000, 0x7F7FFFFF⟩
def bf16 : FFmt := ⟨16, 7, 127, true, some 0x7FC0, 0x7F7F⟩
def fp16 : FFmt := ⟨16, 10, 15, true, some 0x7E00, 0x7BFF⟩
def e4m3 : FFmt := ⟨8, 3, 7, false, some 0x7F, 0x7E⟩
def e5m2 : FFmt := ⟨8, 2, 15, true, some 0x7E, 0x7B⟩
def e2m3 : FFmt := ⟨6, 3, 1, false, none, 0x1F⟩
def e3m2 : FFmt := ⟨6, 2, 3, false, none, 0x1F⟩
def e2m1 : FFmt := ⟨4, 1, 1, false, none, 0x7⟩

/-- 1 - bias: the exponent of the smallest normal value. -/
def FFmt.emin (f : FFmt) : Int := 1 - (f.bias : Int)

/-- The exponent of the smallest subnormal value. -/
def FFmt.qmin (f : FFmt) : Int := f.emin - f.mant

/-- The magnitude part of a pattern: all bits but the sign. -/
def FFmt.magBits (f : FFmt) (b : Nat) : Nat := b % 2 ^ (f.width - 1)

/-- The sign of a pattern. -/
def FFmt.neg (f : FFmt) (b : Nat) : Bool := b.testBit (f.width - 1)

/-- A pattern with a sign. -/
def FFmt.signed (f : FFmt) (neg : Bool) (mag : Nat) : Nat := if neg then 2 ^ (f.width - 1) + mag else mag

/-- The infinity's magnitude pattern (formats that have infinities). -/
def FFmt.infBits (f : FFmt) : Nat := f.maxBits + 1

/-- An exact operand value. -/
inductive Val where
  | nan
  | inf (neg : Bool)
  | zero (neg : Bool)
  /-- ± n × 2^e, n > 0 -/
  | fin (neg : Bool) (n : Nat) (e : Int)
  deriving DecidableEq, Repr

/-- The value of a pattern (R69). -/
def FFmt.val (f : FFmt) (b : Nat) : Val :=
  let m := f.magBits b
  let neg := f.neg b
  if f.maxBits < m then
    (if f.hasInf && decide (m = f.infBits) then .inf neg else .nan)
  else if m = 0 then .zero neg
  else
    let ex := m / 2 ^ f.mant
    let fr := m % 2 ^ f.mant
    if ex = 0 then .fin neg fr f.qmin else .fin neg (2 ^ f.mant + fr) (f.qmin + ex - 1)

/-- The pattern is a subnormal of the format. -/
def FFmt.isSub (f : FFmt) (b : Nat) : Bool := decide (f.magBits b ≠ 0) && decide (f.magBits b < 2 ^ f.mant)

/-- Counts of the event classes of Table 3.9, invalid first. -/
structure Evs where
  inv : Nat := 0
  ovf : Nat := 0
  sat : Nat := 0
  unf : Nat := 0
  inx : Nat := 0
  zsub : Nat := 0
  deriving DecidableEq, Repr

def Evs.add (a b : Evs) : Evs :=
  ⟨a.inv + b.inv, a.ovf + b.ovf, a.sat + b.sat, a.unf + b.unf, a.inx + b.inx, a.zsub + b.zsub⟩

/-- The count of class c. -/
def Evs.of (a : Evs) : Nat → Nat
  | 0 => a.inv
  | 1 => a.ovf
  | 2 => a.sat
  | 3 => a.unf
  | 4 => a.inx
  | 5 => a.zsub
  | _ => 0

/-- One element's result: its pattern, its events, and whether it used a draw of its own (R82). -/
structure Res where
  bits : Nat
  evs : Evs := {}
  drew : Bool := false
  deriving DecidableEq, Repr

/-- Whether draw < r × 2^32, where r = x / q - a, given x / q × 2^32 as (floor, exact) (R80, R83). -/
def drawBelow (draw a : Nat) (t : Nat × Bool) : Bool :=
  let r := t.1 - a * 2 ^ 32
  decide (draw < r) || (decide (draw = r) && !t.2)

/-- The rounding choice of Table 3.5: the multiple of the quantum 2^qe, as an integer, and whether x = a. -/
def roundAt (x : Mag) (neg : Bool) (qe : Int) (rm draw : Nat) : Nat × Bool :=
  let a := x.fl (-qe)
  if a.2 then (a.1, true) else
  let up : Bool :=
    if rm = 0 then
      (let h := x.fl (-qe + 1)
       if h.1 % 2 = 0 then false else if h.2 then decide (a.1 % 2 = 1) else true)
    else if rm = 1 then false
    else if rm = 2 then !neg
    else if rm = 3 then neg
    else drawBelow draw a.1 (x.fl (-qe + 32))
  (if up then a.1 + 1 else a.1, false)

/-- round (x, F, rm, g) of R80 for x ≠ 0: the magnitude pattern (which may lie above the format's largest), and
whether the result equals x. -/
def roundF (x : Mag) (neg : Bool) (f : FFmt) (rm draw : Nat) : Nat × Bool :=
  let k := (x.fl (-f.emin)).1.log2
  let r := roundAt x neg (f.qmin + k) rm draw
  (k * 2 ^ f.mant + r.1, r.2)

/-- ovf of R83 for a finite y. -/
def ovfFin (f : FFmt) (neg : Bool) (rm : Nat) (narrowing e4nan : Bool) : Res :=
  let inx := if narrowing then 1 else 0
  if f.hasInf then
    (if rm = 0 ∨ rm = 4 ∨ (rm = 2 ∧ neg = false) ∨ (rm = 3 ∧ neg = true) then
      ⟨f.signed neg f.infBits, { ovf := 1, inx := inx }, false⟩
     else ⟨f.signed neg f.maxBits, { sat := 1, inx := inx }, false⟩)
  else if f = e4m3 ∧ e4nan then ⟨0x7F, { ovf := 1, inx := inx }, false⟩
  else ⟨f.signed neg f.maxBits, { sat := 1, inx := inx }, false⟩

/-- ovf of R83 for an infinite y. -/
def ovfInf (f : FFmt) (neg : Bool) (e4nan : Bool) : Res :=
  if f.hasInf then ⟨f.signed neg f.infBits, {}, false⟩
  else if f = e4m3 ∧ e4nan then ⟨0x7F, { inv := 1 }, false⟩
  else ⟨f.signed neg f.maxBits, { inv := 1, sat := 1 }, false⟩

/-- arith of R111 for a nonzero finite exact result. -/
def arithMag (x : Mag) (neg : Bool) (f : FFmt) (rm draw : Nat) : Res :=
  let z := roundF x neg f rm draw
  if f.maxBits < z.1 then ovfFin f neg rm false false
  else ⟨f.signed neg z.1, if z.1 = 0 then { unf := 1 } else {}, false⟩

/-- arith of R111 for an exact value; a NaN that came from operands that are not NaN counts invalid. -/
def arith (v : Val) (invalid : Bool) (f : FFmt) (rm draw : Nat) : Res :=
  match v with
  | .nan => ⟨f.nan.getD 0, if invalid then { inv := 1 } else {}, false⟩
  | .inf neg => ⟨f.signed neg f.infBits, {}, false⟩
  | .zero neg => ⟨f.signed neg 0, {}, false⟩
  | .fin neg n e => arithMag (.ratio n 1 e) neg f rm draw

/-- The value with its sign turned. -/
def Val.negate : Val → Val
  | .nan => .nan
  | .inf s => .inf (!s)
  | .zero s => .zero (!s)
  | .fin s n e => .fin (!s) n e

/-- A signed integer × 2^e as a value; an exact zero has the sign given. -/
def Val.ofInt (zneg : Bool) (i e : Int) : Val := if i = 0 then .zero zneg else .fin (decide (i < 0)) i.natAbs e

/-- A signed number n × 2^e. -/
def signedInt (neg : Bool) (n : Nat) : Int := if neg then -(n : Int) else n

/-- The exact sum (R111, R112): the value, and whether a NaN arose from operands that are not NaN. -/
def Val.add (rm : Nat) : Val → Val → Val × Bool
  | .nan, _ => (.nan, false)
  | _, .nan => (.nan, false)
  | .inf a, .inf b => if a = b then (.inf a, false) else (.nan, true)
  | .inf a, _ => (.inf a, false)
  | _, .inf b => (.inf b, false)
  | .zero a, .zero b => (.zero (if a = b then a else decide (rm = 3)), false)
  | .zero _, y => (y, false)
  | x, .zero _ => (x, false)
  | .fin a n e, .fin b m g =>
    let lo := min e g
    (Val.ofInt (decide (rm = 3)) (signedInt a (n * 2 ^ (e - lo).toNat) + signedInt b (m * 2 ^ (g - lo).toNat)) lo, false)

/-- The exact product. -/
def Val.mul : Val → Val → Val × Bool
  | .nan, _ => (.nan, false)
  | _, .nan => (.nan, false)
  | .inf a, .inf b => (.inf (a != b), false)
  | .inf _, .zero _ => (.nan, true)
  | .zero _, .inf _ => (.nan, true)
  | .inf a, .fin b _ _ => (.inf (a != b), false)
  | .fin a _ _, .inf b => (.inf (a != b), false)
  | .zero a, .zero b => (.zero (a != b), false)
  | .zero a, .fin b _ _ => (.zero (a != b), false)
  | .fin a _ _, .zero b => (.zero (a != b), false)
  | .fin a n e, .fin b m g => (.fin (a != b) (n * m) (e + g), false)

/-- d + a × b exactly, with the product's sign turned where `np`, and d's where `nd` (R112). -/
def Val.fma (rm : Nat) (np nd : Bool) (d a b : Val) : Val × Bool :=
  let p := a.mul b
  let pv := if np then p.1.negate else p.1
  let dv := if nd then d.negate else d
  if d = .nan then (.nan, false) else
  let r := dv.add rm pv
  (r.1, p.2 || r.2)

/-- An integer element format (Table 3.2). -/
structure IFmt where
  width : Nat
  signed : Bool
  deriving DecidableEq, Repr

/-- The least value of an integer format. -/
def IFmt.lo (f : IFmt) : Int := if f.signed then -(2 ^ (f.width - 1) : Nat) else 0

/-- The greatest value of an integer format. -/
def IFmt.hi (f : IFmt) : Int := if f.signed then ((2 ^ (f.width - 1) : Nat) : Int) - 1 else ((2 ^ f.width : Nat) : Int) - 1

/-- An element format: floating, integer, or MXINT8's (Table 3.3). -/
inductive EFmt where
  | flt (f : FFmt)
  | int (f : IFmt)
  /-- an INT8 integer of weight 2^-6 (R73); `EFmt.val` gives the integer, and the weight goes with the block's scale -/
  | mxint
  deriving DecidableEq, Repr

/-- The unscaled element format of a code (Tables 3.1 and 3.2). -/
def elemFmt : Nat → Option EFmt
  | 0x01 => some (.int ⟨8, false⟩)
  | 0x02 => some (.int ⟨8, true⟩)
  | 0x03 => some (.int ⟨16, false⟩)
  | 0x04 => some (.int ⟨16, true⟩)
  | 0x05 => some (.int ⟨32, false⟩)
  | 0x06 => some (.int ⟨32, true⟩)
  | 0x07 => some (.int ⟨64, true⟩)
  | 0x08 => some (.flt fp32)
  | 0x09 => some (.flt bf16)
  | 0x0A => some (.flt fp16)
  | 0x0B => some (.flt e4m3)
  | 0x0C => some (.flt e5m2)
  | 0x0D => some (.flt e2m3)
  | 0x0E => some (.flt e3m2)
  | 0x0F => some (.flt e2m1)
  | _ => none

/-- The element format of an MX code (Table 3.3). -/
def mxElem : Nat → EFmt
  | 0x10 => .flt e4m3
  | 0x11 => .flt e5m2
  | 0x12 => .flt e2m3
  | 0x13 => .flt e3m2
  | 0x14 => .flt e2m1
  | _ => .mxint

/-- emax of Table 3.3. -/
def mxEmax : Nat → Int
  | 0x10 => 8
  | 0x11 => 15
  | 0x12 => 2
  | 0x13 => 4
  | 0x14 => 2
  | _ => 0

def EFmt.width : EFmt → Nat
  | .flt f => f.width
  | .int f => f.width
  | .mxint => 8

/-- The integer of a pattern (Table 3.2). -/
def IFmt.val (f : IFmt) (b : Nat) : Val :=
  let u := b % 2 ^ f.width
  Val.ofInt false (if f.signed && u.testBit (f.width - 1) then (u : Int) - ((2 ^ f.width : Nat) : Int) else u) 0

/-- The value of an element's pattern. -/
def EFmt.val : EFmt → Nat → Val
  | .flt f, b => f.val b
  | .int f, b => f.val b
  | .mxint, b => IFmt.val ⟨8, true⟩ b

/-- The element is a source subnormal (R74). -/
def EFmt.isSub : EFmt → Nat → Bool
  | .flt f, b => f.isSub b
  | .int _, _ => false
  | .mxint, _ => false

/-- The exponent e of the largest finite value's leading bit. -/
def FFmt.emaxFin (f : FFmt) : Int := f.qmin + (f.maxBits / 2 ^ f.mant : Nat) - 1 + f.mant

/-- The target cannot represent every value of the source (R83). -/
def narrowing (src dst : EFmt) : Bool :=
  match src, dst with
  | .flt a, .flt b =>
    !(decide (a.mant ≤ b.mant) && decide (b.qmin ≤ a.qmin) &&
      (decide (a.emaxFin < b.emaxFin) || (decide (a.emaxFin = b.emaxFin) &&
        decide (a.maxBits % 2 ^ a.mant * 2 ^ (b.mant - a.mant) ≤ b.maxBits % 2 ^ b.mant))))
  | .flt _, .int _ => true
  | .int a, .flt b =>
    let w := if a.signed then a.width - 1 else a.width
    !(decide (w ≤ b.mant + 1) && decide ((w : Int) ≤ b.emaxFin))
  | .int a, .int b => !(decide (b.lo ≤ a.lo) && decide (a.hi ≤ b.hi))
  | .mxint, .flt b => !(decide (6 ≤ b.mant) && decide (b.qmin ≤ -6) && decide (1 ≤ b.emaxFin))
  -- its values have a fraction, and an integer of 2 or more exceeds them
  | .mxint, .int _ => true
  | .mxint, .mxint => false
  | _, .mxint => true

/-- A quantisation or conversion target's limits: MXINT8 elements are limited to -127 to 127 (R74). -/
structure ITarget where
  lo : Int
  hi : Int
  width : Nat
  deriving DecidableEq, Repr

def IFmt.target (f : IFmt) : ITarget := ⟨f.lo, f.hi, f.width⟩

/-- A signed integer's pattern of w bits. -/
def twos (w : Nat) (i : Int) : Nat := (i % ((2 ^ w : Nat) : Int)).toNat

/-- cvt_int of R83 for a finite nonzero y. -/
def cvtInt (y : Mag) (neg : Bool) (t : ITarget) (narrow : Bool) (rm draw : Nat) : Res :=
  let r := roundAt y neg 0 rm draw
  let z := signedInt neg r.1
  let c := if z < t.lo then t.lo else if t.hi < z then t.hi else z
  let sat := if c = z then 0 else 1
  let inx := if narrow && (!r.2 || decide (c ≠ z)) then 1 else 0
  ⟨twos t.width c, { sat := sat, inx := inx }, false⟩

/-- cvt of R83 into a floating format for a finite nonzero y. -/
def cvtFlt (y : Mag) (neg : Bool) (f : FFmt) (narrow e4nan : Bool) (rm draw : Nat) : Res :=
  let inx := if narrow then 1 else 0
  if (y.fl (-f.qmin)).1 = 0 then
    (if drawBelow draw 0 (y.fl (-f.qmin + 32)) then ⟨f.signed neg 1, { inx := inx }, true⟩
     else ⟨f.signed neg 0, { unf := 1, inx := inx }, true⟩)
  else
    let z := roundF y neg f rm draw
    if f.maxBits < z.1 then ovfFin f neg rm narrow e4nan
    else ⟨f.signed neg z.1, if narrow && !z.2 then { inx := 1 } else {}, false⟩

/-- cvt (x, F, rm, g, sc) of R83. `sub`: x is a source subnormal; `sc` is the divisor m × 2^s (m > 0). -/
def cvt (x : Val) (sub : Bool) (src dst : EFmt) (t : ITarget) (sc : Nat × Int) (e4nan : Bool) (rm draw : Nat) : Res :=
  let narrow := narrowing src dst
  match x with
  | .nan =>
    (match dst with
     | .flt f => (match f.nan with
        | some n => ⟨n, {}, false⟩
        | none => ⟨0, { inv := 1 }, false⟩)
     | _ => ⟨0, { inv := 1 }, false⟩)
  | .inf neg =>
    (match dst with
     | .flt f => ovfInf f neg e4nan
     | _ => ⟨twos t.width (if neg then t.lo else t.hi), { inv := 1, sat := 1 }, false⟩)
  | .zero neg => (match dst with | .flt f => ⟨f.signed neg 0, {}, false⟩ | _ => ⟨0, {}, false⟩)
  | .fin neg n e =>
    if narrow && sub then (match dst with | .flt f => ⟨f.signed neg 0, { unf := 1 }, false⟩ | _ => ⟨0, { unf := 1 }, false⟩)
    else
      let y : Mag := .ratio n sc.1 (e - sc.2)
      match dst with
      | .flt f => cvtFlt y neg f narrow e4nan rm draw
      | _ => cvtInt y neg t narrow rm draw

/-- The limits of an integer target; nothing for a floating one. -/
def EFmt.target : EFmt → ITarget
  | .int f => f.target
  | .mxint => ⟨-127, 127, 8⟩
  | .flt _ => ⟨0, 0, 0⟩

/-- A conversion of one element with no scale (R83). -/
def cvtElem (src dst : EFmt) (e4nan : Bool) (rm draw : Nat) (bits : Nat) : Res :=
  cvt (src.val bits) (src.isSub bits) src dst dst.target (1, 0) e4nan rm draw

/-- The magnitude of a value as n × 2^e; zero for the values that have none. -/
def Val.magnitude : Val → Nat × Int
  | .fin _ n e => (n, e)
  | _ => (0, 0)

/-- The greater of two magnitudes. -/
def magMax (a b : Nat × Int) : Nat × Int :=
  if a.1 = 0 then b else if b.1 = 0 then a else
  let lo := min a.2 b.2
  if a.1 * 2 ^ (a.2 - lo).toNat < b.1 * 2 ^ (b.2 - lo).toNat then b else a

def Val.special : Val → Bool
  | .nan => true
  | .inf _ => true
  | _ => false

/-- Step 1 of mx_quant and ts_quant: source subnormals become zeros of their sign and count. -/
def flushSub (x : Val × Bool) : Val × Evs :=
  match x with
  | (.fin neg _ _, true) => (.zero neg, { unf := 1 })
  | (v, _) => (v, {})

/-- The scale byte of mx_quant (R74) for the flushed values. -/
def mxScale (code : Nat) (vs : List Val) : Nat :=
  if vs.any Val.special then 0xFF else
  let a := (vs.map Val.magnitude).foldl magMax (0, 0)
  if a.1 = 0 then 0 else
  let e : Int := ((a.1.log2 : Nat) : Int) + a.2 - mxEmax code + 127
  (min (max e 0) 254).toNat

/-- A conversion's result as an MX element: MX element formats have no infinities, and a finite quotient that rounds beyond the format's largest
value saturates (the text of R74, which the model follows for the E5M2 elements of MXFP8 too, though Table 3.1 gives that format infinities:
log entry 110). -/
def mxSaturated (dst : EFmt) (r : Res) : Res :=
  match dst with
  | .flt f =>
    if f.hasInf ∧ r.bits % 2 ^ (f.width - 1) = f.infBits then ⟨r.bits - 1, { r.evs with ovf := 0, sat := 1 }, r.drew⟩ else r
  | _ => r

/-- The element of mx_quant (R74) for one flushed value, given the block's scale. -/
def mxElement (code scale : Nat) (src : EFmt) (e4nan : Bool) (rm draw : Nat) (v : Val) : Res :=
  let dst := mxElem code
  if scale = 0xFF then
    ⟨(match dst with | .flt f => f.nan.getD 0 | _ => 0), if v.special then { inv := 1 } else {}, false⟩
  else if dst = .mxint then cvt v false src dst dst.target (1, (scale : Int) - 133) e4nan rm draw
  else mxSaturated dst (cvt v false src dst dst.target (1, (scale : Int) - 127) e4nan rm draw)

/-- The FP32 scale pattern of ts_quant (R75) for the flushed values; an open pattern where a / 448 rounds to zero or beyond FP32,
for which the rule gives none (log entry 79). -/
def tsScale (vs : List Val) : Nat :=
  if vs.any Val.special then 0x7FC00000 else
  let a := (vs.map Val.magnitude).foldl magMax (0, 0)
  if a.1 = 0 then 0x3F800000 else
  let s := (roundF (.ratio a.1 448 a.2) false fp32 0 0).1
  if s = 0 ∨ fp32.maxBits < s then (Config.tsScale a.1 a.2).toNat else s

/-- The element of ts_quant (R75) for one flushed value, given the scale's pattern; under an open scale (log entry 79) that is
no divisor, an open byte. -/
def tsElement (scale : Nat) (src : EFmt) (e4nan : Bool) (rm draw : Nat) (v : Val) : Res :=
  match fp32.val scale with
  | .fin false n e => cvt v false src (.flt e4m3) ⟨0, 0, 0⟩ (n, e) e4nan rm draw
  | _ =>
    if scale = 0x7FC00000 then ⟨0x7F, if v.special then { inv := 1 } else {}, false⟩
    else ⟨(Config.tsElem scale v.magnitude.1 v.magnitude.2).toNat, {}, false⟩

/-- One xorshift32 step (R81). -/
def xorshift (x : Lane) : Lane :=
  let x := x ^^^ (x <<< 13)
  let x := x ^^^ (x >>> 17)
  x ^^^ (x <<< 5)

/-- The generator's state at the start of a task (R81). -/
def initGen (seed wid : Word) (g : Nat) : Lane :=
  let z : Word := seed ^^^ wid.rotateLeft 32 ^^^ (BitVec.ofNat 64 g * 0x9E3779B97F4A7C15#64)
  let z := (z ^^^ (z >>> 30)) * 0xBF58476D1CE4E5B9#64
  let z := (z ^^^ (z >>> 27)) * 0x94D049BB133111EB#64
  let z := z ^^^ (z >>> 31)
  let st := z.setWidth 32
  if st = 0 then 0x6D2B79F5#32 else st

/-- The generator after an element: it steps once under `rsr`, and where the element drew (R82). -/
def genAfter (rm : Nat) (r : Res) (g : Lane) : Lane := if rm = 4 ∨ r.drew = true then xorshift g else g

/-- The draw that an element would take next. -/
def drawOf (g : Lane) : Nat := (xorshift g).toNat

/-- fmin and fmax (R113): patterns of the format, -0 below +0. -/
def minMax (f : FFmt) (mx : Bool) (x y : Nat) : Nat :=
  let key (b : Nat) : Int := if f.neg b then -(f.magBits b : Int) - 1 else f.magBits b
  match f.val x, f.val y with
  | .nan, .nan => f.nan.getD 0
  | .nan, _ => y
  | _, .nan => x
  | _, _ => if mx then (if key x < key y then y else x) else (if key y < key x then y else x)

/-- a ± b and a × b of R112 on patterns. -/
def fAdd (f : FFmt) (rm draw x y : Nat) : Res := let r := (f.val x).add rm (f.val y); arith r.1 r.2 f rm draw
def fSub (f : FFmt) (rm draw x y : Nat) : Res := let r := (f.val x).add rm (f.val y).negate; arith r.1 r.2 f rm draw
def fMul (f : FFmt) (rm draw x y : Nat) : Res := let r := (f.val x).mul (f.val y); arith r.1 r.2 f rm draw

/-- The fused ops of R112: d + a × b, with the product or d turned. -/
def fFma (f : FFmt) (np nd : Bool) (rm draw d x y : Nat) : Res :=
  let r := (f.val d).fma rm np nd (f.val x) (f.val y); arith r.1 r.2 f rm draw

/-- `rcp` (R114, Table 5.2). -/
def fRcp (rm draw x : Nat) : Res :=
  match fp32.val x with
  | .nan => ⟨0x7FC00000, {}, false⟩
  | .zero s => ⟨fp32.signed s fp32.infBits, {}, false⟩
  | .inf s => ⟨fp32.signed s 0, {}, false⟩
  | .fin s n e => arithMag (.ratio 1 n (-e)) s fp32 rm draw

/-- `rsqrt` (R114, Table 5.2). -/
def fRsqrt (rm draw x : Nat) : Res :=
  match fp32.val x with
  | .nan => ⟨0x7FC00000, {}, false⟩
  | .zero s => ⟨fp32.signed s fp32.infBits, {}, false⟩
  | .inf false => ⟨0, {}, false⟩
  | .inf true => ⟨0x7FC00000, { inv := 1 }, false⟩
  | .fin true _ _ => ⟨0x7FC00000, { inv := 1 }, false⟩
  | .fin false n e => arithMag (.invSqrt n e) false fp32 rm draw

/-- `exp2` (R114, Table 5.2). -/
def fExp2 (rm draw x : Nat) : Res :=
  match fp32.val x with
  | .nan => ⟨0x7FC00000, {}, false⟩
  | .zero _ => ⟨0x3F800000, {}, false⟩
  | .inf false => ⟨fp32.infBits, {}, false⟩
  | .inf true => ⟨0, {}, false⟩
  | .fin s n e => arithMag (.pow2 s n e) false fp32 rm draw

/-- n × 2^e lies below 1. -/
def belowOne (n : Nat) (e : Int) : Bool := decide (((n.log2 : Nat) : Int) + e < 0)

/-- n × 2^e = 1. -/
def isOne (n : Nat) (e : Int) : Bool := decide (n = 2 ^ n.log2) && decide (((n.log2 : Nat) : Int) + e = 0)

/-- `log2` (R114, Table 5.2); log2 1 is an exact zero whose terms are not zeros: +0, or -0 under `rdn` (R111). -/
def fLog2 (rm draw x : Nat) : Res :=
  match fp32.val x with
  | .nan => ⟨0x7FC00000, {}, false⟩
  | .zero _ => ⟨fp32.signed true fp32.infBits, {}, false⟩
  | .inf false => ⟨fp32.infBits, {}, false⟩
  | .inf true => ⟨0x7FC00000, { inv := 1 }, false⟩
  | .fin true _ _ => ⟨0x7FC00000, { inv := 1 }, false⟩
  | .fin false n e =>
    if isOne n e then ⟨fp32.signed (decide (rm = 3)) 0, {}, false⟩
    else arithMag (.log2 n e) (belowOne n e) fp32 rm draw

/-- The exact pattern of a literal n in a format (Table 2.7): -32 to 31 is exact in FP32, BF16 and FP16. -/
def litBits (f : FFmt) (n : Nat) : Nat :=
  let i : Int := if 32 ≤ n then (n : Int) - 64 else n
  match Val.ofInt false i 0 with
  | .fin s m e => f.signed s (roundF (.ratio m 1 e) s f 0 0).1
  | _ => 0

end Sys2Proof.Machine
end

