-- ==== Sys2Proof/Machine/Flags.lean ====
section
/-! DEFINITION. What the device counts and reports: the rings of a function (R367), the arithmetic event counters with
their thresholds (R90, R91), the violation log (R366) and the uncorrectable-line log (R389). -/

namespace Sys2Proof.Machine

/-- The key of byte a of tier t in backed memory. -/
def physKey (t a : Nat) : Nat := t * 2 ^ 52 + a

/-- The lines that n bytes from key k touch. -/
def lineCount (k n : Nat) : Nat := if n = 0 then 0 else (k + n - 1) / 128 - k / 128 + 1

/-- The words of 16 bytes that n bytes from key k touch and that have an uncorrectable error are rewritten as zero with fresh
check bits (R389). -/
def State.scrubWords (s : State) (k n : Nat) : State :=
  let ws := (List.range (if n = 0 then 0 else (k + n - 1) / 16 + 1 - k / 16)).filter fun i => s.badWord.get false (k / 16 + i)
  { s with
    mem := ws.foldl (fun m i => m.splice 0 (16 * (k / 16 + i)) 16 fun _ => 0) s.mem
    badWord := ws.foldl (fun b i => b.set false (k / 16 + i) false) s.badWord }

/-- A write of the device in clear: rings, tables, and images that are not page contents. -/
def State.rawWrite (s : State) (k : Nat) (bs : List Byte) : State :=
  let s := s.scrubWords k bs.length
  { s with
    mem := s.mem.setBytes k bs
    lkey := s.lkey.splice 0 (k / 128) (lineCount k bs.length) fun _ => 1 }

/-- The interrupt of vector v of function f is raised (R367). -/
def State.raise (s : State) (f v : Nat) : State :=
  s.setFn f { s.fnAt f with irq := (s.fnAt f).irq.set 0 v ((s.fnAt f).irq.get 0 v + 1) }

/-- A register of a function (Table 14.3). -/
def State.fr (s : State) (f off : Nat) : Word := (s.fnAt f).reg.get 0 off

def State.setFr (s : State) (f off : Nat) (v : Word) : State :=
  s.setFn f { s.fnAt f with reg := (s.fnAt f).reg.set 0 off v }

/-- A value raised by n, saturating at 2^w - 1. -/
def satAdd (w x n : Nat) : Nat := min (x + n) (2 ^ w - 1)

/-- A 32-byte record goes to the ring whose registers start at offset b, and its vector is raised; a full or disabled
ring drops it and counts it in `lost` (R367). -/
def State.pushRing (s : State) (f b vec : Nat) (rec : List Byte) : State :=
  let n := (s.fr f (b + 8)).toNat % 16
  let head := (s.fr f (b + 16)).toNat
  let tail := (s.fr f (b + 24)).toNat
  if n < 4 ∨ (tail + 1) % 2 ^ n = head % 2 ^ n then
    s.setFr f 0x68 (BitVec.ofNat 64 (satAdd 32 (s.fr f 0x68).toNat 1))
  else
    let k := physKey 2 ((s.fr f b).toNat + 32 * (tail % 2 ^ n))
    ((s.rawWrite k rec).setFr f (b + 24) (BitVec.ofNat 64 ((tail + 1) % 65536))).raise f vec

/-- The 32-byte event record of R360. -/
def eventRec (time gnum kind code word : Nat) : List Byte :=
  leBytes 8 time ++ (leBytes 2 gnum ++ (leBytes 1 kind ++ (leBytes 1 code ++ (leBytes 4 word ++ leBytes 16 0))))

/-- An event record goes to the event ring of the function that acts for a context (R362; vector 1). -/
def State.sendEvent (s : State) (ctx gnum kind code word : Nat) : State :=
  s.pushRing (s.fnOf ctx) 0x20 1 (eventRec s.dtime gnum kind code word)

/-- `evcfg`c of a context: act, window in ns, thresh (Table 3.10). -/
def State.evCfg (s : State) (ctx c : Nat) : Nat × Nat × Nat :=
  let w := s.sr ctx (96 + c)
  (bf w 63 62, bf w 47 32 * 1000, bf w 31 0)

/-- The window of class c is started anew when its time has passed (R91). -/
def State.evRoll (s : State) (core ctx c : Nat) : State :=
  let win := (s.evCfg ctx c).2.1
  let x := s.coreAt core
  let st := x.evwin.get 0 c
  if win ≠ 0 ∧ st + win ≤ s.dtime then
    s.setCore core { x with
      evcnt := x.evcnt.set 0 c 0
      evwin := x.evwin.set 0 c (s.dtime - (s.dtime - st) % win) }
  else s

/-- n events of class c of the task on a core, made by the stream of code st (R91). -/
def State.countClass (s : State) (core ctx st : Nat) (hdl : Word) (c n : Nat) : State :=
  if n = 0 then s else
  let s := s.setSr ctx (104 + c) (BitVec.ofNat 64 (satAdd 64 (s.sr ctx (104 + c)).toNat n))
  let s := s.evRoll core ctx c
  let cfg := s.evCfg ctx c
  let x := s.coreAt core
  let v := satAdd 32 (x.evcnt.get 0 c) n
  if cfg.2.1 ≠ 0 ∧ cfg.2.2 < v then
    let x := { x with evcnt := x.evcnt.set 0 c 0, evwin := x.evwin.set 0 c s.dtime }
    let x := if cfg.1 % 2 = 1 then { x with due := x.due ++ [(st, c, hdl)] } else x
    let s := s.setCore core x
    if 2 ≤ cfg.1 then s.sendEvent ctx 0 16 0x17 c else s
  else s.setCore core { x with evcnt := x.evcnt.set 0 c v }

/-- The events of one instruction or command (R90, R91). -/
def State.countEvs (s : State) (core ctx st : Nat) (hdl : Word) (e : Evs) : State :=
  (List.range 6).foldl (fun s c => s.countClass core ctx st hdl c (e.of c)) s

/-- The context of a launch record (R24). -/
def Task.ctx (t : Task) : Nat := bf (t.lrec.get 0 4) 17 12

/-- The task runs with privileged instructions enabled (R34). -/
def Task.sup (t : Task) : Bool := bit (t.lrec.get 0 4) 20

/-- The task is idempotent (R24). -/
def Task.idem (t : Task) : Bool := bit (t.lrec.get 0 4) 18

/-- The context of the task on a core; 0 where there is none. -/
def State.coreCtx (s : State) (c : Nat) : Nat := match (s.coreAt c).task with | some t => t.ctx | none => 0

/-- The events of an instruction of the acting stream. -/
def countM (e : Evs) : M Unit := modify fun s =>
  if e = {} then s else
  match s.cur with
  | .strm c st => s.countEvs c (s.coreCtx c) st.code 0 e
  | _ => s

/-- A violation (R366): the log of the context whose request it was, and event kind 17 for the first. -/
def State.violate (s : State) (ctx kind agent ia : Nat) : State :=
  let w := s.sr ctx 390
  let cnt := satAdd 32 (bf w 31 0) 1
  if bit w 63 then s.setSr ctx 390 (setBf w 31 0 cnt)
  else
    let v := BitVec.ofNat 64 (2 ^ 63 + kind % 8 * 2 ^ 53 + agent % 512 * 2 ^ 44 + cnt)
    ((s.setSr ctx 390 v).setSr ctx 391 (BitVec.ofNat 64 (ia % 2 ^ 48))).sendEvent ctx 0 17 0x05 0

/-- The zero-substitution log of a context (R167, Table 6.6): the first is recorded, the others are counted. -/
def State.logZero (s : State) (ctx core src place : Nat) (clk : Word) : State :=
  let w := s.sr ctx 184
  let cnt := satAdd 31 (bf w 62 32) 1
  if bit w 63 then s.setSr ctx 184 (setBf w 62 32 cnt)
  else
    let v := BitVec.ofNat 64 (2 ^ 63 + cnt * 2 ^ 32 + src % 16 * 2 ^ 28 + core % 512 * 2 ^ 19)
    ((s.setSr ctx 184 v).setSr ctx 185 (BitVec.ofNat 64 (place % 2 ^ 32))).setSr ctx 186 clk

/-- `clkc` of a core moves on by an amount that the spec leaves open (R101). -/
def State.clkTick (s : State) (core : Nat) : State :=
  let c := s.coreAt core
  { s with fresh := s.fresh + 1 }.setCore core { c with clkc := c.clkc + 1 + BitVec.ofNat 64 (Config.freeNat s.fresh) }

/-- Elements replaced by zero, each with its source and place in Table 6.6: class 5 counts them, made by the stream of code
st, and the log records them (R166, R167). -/
def State.substitute (s : State) (core ctx st : Nat) (hdl : Word) (xs : List (Nat × Nat)) : State :=
  if xs = [] then s else
  let s := (s.countClass core ctx st hdl 5 xs.length).clkTick core
  xs.foldl (fun s x => s.logZero ctx core x.1 x.2 (s.coreAt core).clkc) s

/-- An uncorrectable line is read (R389, Table 15.4). -/
def State.logMc (s : State) (ctx ia : Nat) : State :=
  let w := s.sr ctx 136
  let cnt := satAdd 31 (bf w 62 32) 1
  let s' := s.setSr ctx 136 (BitVec.ofNat 64 (2 ^ 63 + cnt * 2 ^ 32))
  if bit w 63 then s' else s'.setSr ctx 137 (BitVec.ofNat 64 (ia % 2 ^ 48))

end Sys2Proof.Machine
end

