-- ==== Sys2Proof/Machine/Mem.lean ====
section
/-! DEFINITION. Memory below the windows: translation (R202), frame tables and walks (R206 to R209), polder pages
(R210 to R214), stored lines and keys (R365), stash coherence (R199), and the read and write of bytes at their home (R262). -/

namespace Sys2Proof.Machine

/-- Who makes an access: the kind of R366 (0 core, 1 engine, 2 sequencer, 3 host, 4 peer), its number, its context, and
the agent whose order it belongs to (R261: a core's number for its A-stream, 512 + q for sequencer q, 1024 + f for function f,
2048 + p for port p, 3072 + c for the spills of core c, 4096 for the device, 4097 for the device at a slot's own fields and 4098 at
a status word, 8192 + 64c + n for the command of engine slot n of core c), the special registers whose windows translate for it
(R203), and a command's place in the order of issue. -/
structure Req where
  kind : Nat
  agent : Nat
  ctx : Nat
  ag : Nat
  win : Sparse Word := []
  no : Nat := 0
  deriving DecidableEq, Repr

/-- The agent number of the command of an engine slot. -/
def engAgent (core slot : Nat) : Nat := 8192 + 64 * core + slot

/-- The core whose A-stream, spills or engine an agent is. -/
def agentCore? (ag : Nat) : Option Nat :=
  if ag < 512 then some ag
  else if 3072 ≤ ag ∧ ag < 4096 then some (ag - 3072)
  else if 8192 ≤ ag then some ((ag - 8192) / 64)
  else none

def Req.core? (q : Req) : Option Nat := agentCore? q.ag

/-- The events of an access of a request (R90, R389): they are the task's on the request's core, made by the stream that acts there,
or by the command of an engine slot. -/
def countReq (q : Req) (e : Evs) : M Unit := modify fun s =>
  if e = {} then s else
  match q.core? with
  | none => s
  | some c =>
    let st := match s.cur with | .strm d st => if c = d then st.code else 0 | _ => 0
    let h := if 8192 ≤ q.ag then (s.coreAt c).handle ((q.ag - 8192) % 64) else 0
    s.countEvs c (s.coreCtx c) st h e

/-- The request of a core's A-stream. -/
def State.coreReq (s : State) (c : Nat) : Req :=
  let x := s.coreCtx c
  { kind := 0, agent := c, ctx := x, ag := c, win := (s.ctxAt x).sr }

/-- The permissions an access needs (R202). -/
structure Perm where
  r : Bool := false
  w : Bool := false
  x : Bool := false
  deriving DecidableEq, Repr

/-- A window of a context (R201): base, limit, intermediate base, and its bits x w r v. -/
structure Window where
  base : Nat
  limit : Nat
  ibase : Nat
  x : Bool
  w : Bool
  r : Bool
  v : Bool
  deriving DecidableEq, Repr

/-- Window n, from its four registers (Table 8.2). -/
def windowOf (sr : Sparse Word) (n : Nat) : Window :=
  let p := sr.get 0 (256 + 4 * n + 3)
  { base := bf (sr.get 0 (256 + 4 * n)) 55 12 * 4096
    limit := bf (sr.get 0 (256 + 4 * n + 1)) 55 12 * 4096
    ibase := bf (sr.get 0 (256 + 4 * n + 2)) 47 12 * 4096
    x := bit p 3, w := bit p 2, r := bit p 1, v := bit p 0 }

/-- The first of the windows that matches an address (R202). -/
def findWindow (sr : Sparse Word) (va : Nat) : List Nat → Option Window
  | [] => none
  | n :: ns =>
    let w := windowOf sr n
    if w.v ∧ w.base ≤ va ∧ va < w.limit then some w else findWindow sr va ns

/-- The window allows what the access needs. -/
def Window.allows (w : Window) (p : Perm) : Bool := (!p.r || w.r) && (!p.w || w.w) && (!p.x || w.x)

/-- The n of an active peer window of the context that holds the address (R369). -/
def State.peerWin? (s : State) (ctx ia : Nat) : Option Nat :=
  (List.range 4).find? fun n =>
    bit (s.sr ctx (403 + 4 * n)) 63 && decide (bf (s.sr ctx (400 + 4 * n)) 47 12 * 4096 ≤ ia) &&
      decide (ia < bf (s.sr ctx (401 + 4 * n)) 47 12 * 4096)

/-- The peer window that holds an address lacks a permission that the access needs (R369). -/
def State.peerDenies1 (s : State) (ctx ia : Nat) (p : Perm) : Bool :=
  match s.peerWin? ctx ia with
  | none => false
  | some n =>
    let a := s.sr ctx (403 + 4 * n)
    ((p.r || p.x) && !bit a 62) || (p.w && !bit a 61)

/-- A peer window that a byte of an access of n bytes lies in lacks a permission that it needs (R369): windows change at 4 KiB
boundaries, so the windows of the first byte and of the last are those of all. -/
def State.peerDenies (s : State) (ctx ia n : Nat) (p : Perm) : Bool :=
  s.peerDenies1 ctx ia p || s.peerDenies1 ctx (ia + n - 1) p

/-- A request of an agent leaves through peer window n (R369): to the window's port and remote function, at the remote address. -/
def State.toPeer (s : State) (q : Req) (n ia : Nat) (r : PeerReq) : State :=
  let a := s.sr q.ctx (403 + 4 * n)
  let rva := bf (s.sr q.ctx (402 + 4 * n)) 55 0 + (ia - bf (s.sr q.ctx (400 + 4 * n)) 47 12 * 4096)
  { s with peerOut := s.peerOut ++ [⟨bf a 58 56, bf a 55 50, rva % 2 ^ 56, r⟩] }

/-- translate of R202: the intermediate address, or the fault's code. n bytes are translated as one unit by the window
of the first; a byte beyond the window, or past the last intermediate address, raises 0x04. -/
def State.translate? (s : State) (q : Req) (va n : Nat) (p : Perm) : Except Nat Nat :=
  match findWindow q.win va (List.range 16) with
  | none => .error 0x04
  | some w =>
    if !w.allows p then .error 0x04 else
    let ia := w.ibase + (va - w.base)
    if 2 ^ 48 ≤ ia then .error 0x04 else
    if 2 ^ 47 ≤ ia ∧ 12 ≤ ia / 2 ^ 43 % 16 then .error 0x05 else
    if w.limit < va + n ∨ 2 ^ 48 < ia + n ∨ s.peerDenies q.ctx ia n p then .error 0x04 else .ok ia

/-- A window register that the match of an address reads has an uncorrectable error (R389). -/
def State.winBad (s : State) (ctx va : Nat) : Bool :=
  let c := s.ctxAt ctx
  if c.bad = [] then false else
  let n := ((List.range 16).find? fun n => let w := windowOf c.sr n; w.v && decide (w.base ≤ va) && decide (va < w.limit)).getD 15
  c.bad.any fun e => e.2 && decide (256 ≤ e.1) && decide (e.1 < 256 + 4 * (n + 1))

/-- translate of R202; 0x10 where a window register it reads cannot be corrected (R389). -/
def translate (q : Req) (va n : Nat) (p : Perm) : M Nat := do
  match (← get).translate? q va n p with
  | .ok ia =>
    failIf ((← get).winBad q.ctx va) { code := 0x10, va := some va }
    pure ia
  | .error c => fail { code := c, va := some va }

/-- A management register of the physical function (Table 14.4). -/
def State.mgr (s : State) (off : Nat) : Word := s.mg.get 0 off

/-- The 64-bit word at byte k of backed memory, in clear. -/
def State.raw64 (s : State) (k : Nat) : Word := BitVec.ofNat 64 (leNat (s.mem.bytes k 8))

/-- A frame-table entry: where it stands in HBM, and its two words (R206, Table 8.3). -/
structure Entry where
  addr : Nat
  e0 : Word
  e1 : Word
  deriving DecidableEq, Repr

/-- The entry that governs an intermediate address (R206); none where the level-1 entry is not valid. -/
def State.entry? (s : State) (ia : Nat) : Option Entry :=
  let ft := bf (s.mgr 0x1080) 47 12 * 4096
  let l1 := s.raw64 (physKey 0 (ft + 8 * (ia / 2 ^ 29 % 2 ^ 19)))
  if !bit l1 63 then none else
  let l2 := bf l1 47 12 * 4096
  let a0 := l2 + 16 * (ia / 2 ^ 21 % 256 * 32)
  let e0 := s.raw64 (physKey 0 a0)
  if bit e0 62 then some ⟨a0, e0, s.raw64 (physKey 0 (a0 + 8))⟩ else
  let a := l2 + 16 * (ia / 2 ^ 16 % 8192)
  some ⟨a, s.raw64 (physKey 0 a), s.raw64 (physKey 0 (a + 8))⟩

def Entry.v (e : Entry) : Bool := bit e.e0 63
def Entry.big (e : Entry) : Bool := bit e.e0 62
def Entry.tier (e : Entry) : Nat := bf e.e0 61 60
def Entry.ord (e : Entry) : Nat := bf e.e0 59 58
def Entry.pol (e : Entry) : Bool := bit e.e0 57
def Entry.plc (e : Entry) : Bool := bit e.e0 56
def Entry.cc (e : Entry) : Bool := bit e.e0 55
def Entry.pin (e : Entry) : Bool := bit e.e0 54
def Entry.key (e : Entry) : Nat := bf e.e0 52 47
def Entry.ctx (e : Entry) : Nat := bf e.e0 42 37
def Entry.ov (e : Entry) : Bool := bit e.e0 36
def Entry.ovr (e : Entry) : Nat := bf e.e0 35 32
/-- The frame's byte address in its tier. -/
def Entry.frame (e : Entry) : Nat := bf e.e1 63 28 * 65536
/-- Bytes of the page. -/
def Entry.size (e : Entry) : Nat := if e.big then 2 ^ 21 else 2 ^ 16
/-- The page of an address. -/
def Entry.page (e : Entry) (ia : Nat) : Nat := ia / e.size * e.size
/-- The entry describes a polder page (R210). -/
def Entry.isPolder (e : Entry) : Bool := decide (e.tier = 3) && e.pol
/-- A page fault's condition (Table 8.4). -/
def Entry.absent (e : Entry) : Bool := !e.v || (decide (e.tier = 3) && !e.pol)

/-- Stage 2 of R204. -/
def homeHash (ia : Nat) : Nat :=
  if 2 ^ 47 ≤ ia then ia / 2 ^ 43 % 16 else (ia / 65536 * 0x9E3779B1 % 2 ^ 32) / 65536 % 12

/-- The device offers reduced service (R4, R391): `fwst.st` is not 0. -/
def State.reduced (s : State) : Bool := decide (bf (s.mgr 0x3018) 1 0 ≠ 0)

/-- The device is halted or reloading (R393). -/
def State.halted (s : State) : Bool := decide (2 ≤ bf (s.mgr 0x3018) 1 0)

/-- The home die of an address of a page (R204); cache die 0 in reduced service (R391). -/
def State.homeOf (s : State) (e : Entry) (ia : Nat) : Nat :=
  if s.reduced then 0 else if e.ov then e.ovr else homeHash (if e.isPolder then e.page ia else ia)

/-- The fault record of R209. -/
def Episode.record (p : Episode) : List Byte :=
  leBytes 8 p.page ++ (leBytes 1 p.ctx ++ (leBytes 1 p.mask ++ (leBytes 2 p.count ++ (leBytes 8 p.time ++ leBytes 12 0))))

/-- The records of the open episodes that have not been sent go to the fault rings of their contexts' functions (R209). -/
def State.sendEpisodes (s : State) : State :=
  (s.episodes.filter fun p => !p.sent).foldl (fun s p => s.pushRing (s.fnOf p.ctx) 0x40 2 p.record)
    { s with episodes := s.episodes.map fun p => { p with sent := true } }

/-- The stored entry is changed, and the page's fault episode closes (R207, R209). -/
def State.putEntry (s : State) (ia : Nat) (e : Entry) (e0 e1 : Word) : State :=
  let s := if s.episodes = [] then s else s.sendEpisodes
  let s := s.rawWrite (physKey 0 e.addr) (leBytes 8 e0.toNat ++ leBytes 8 e1.toNat)
  { s with episodes := s.episodes.filter fun p => !(decide (e.page ia ≤ p.page) && decide (p.page < e.page ia + e.size)) }

/-- How a request shows in the mask of a fault record (R209). -/
inductive AKind where
  | read
  | write
  | fetch
  deriving DecidableEq, Repr

/-- The requester mask of R209. -/
def reqMask (q : Req) (k : AKind) : Nat :=
  (match k with | .read => 1 | .write => 2 | .fetch => 4) + (if q.kind = 1 then 8 else 0)

/-- A requester joins an episode whose record has not been sent. -/
def Episode.join (p : Episode) (mask : Nat) : Episode :=
  if p.sent then p else { p with mask := p.mask ||| mask, count := min 65535 (p.count + 1) }

/-- A walk meets a page fault: a new episode opens, or the requester joins the open one (R209). The requesters of the same device
time are merged: the record is sent before device time moves on. -/
def State.openEpisode (s : State) (q : Req) (k : AKind) (page : Nat) : State :=
  if s.episodes.any fun p => decide (p.page = page) then
    { s with episodes := s.episodes.map fun p => if p.page = page then p.join (reqMask q k) else p }
  else { s with episodes := s.episodes ++ [⟨page, q.ctx, reqMask q k, 1, s.dtime, false⟩] }

/-- Where an access goes. -/
inductive Loc where
  /-- the frame behind a page: its entry, and the byte's key in backed memory -/
  | frame (e : Entry) (k : Nat)
  /-- a polder page -/
  | polder (e : Entry)
  /-- a peer, through window n -/
  | peer (n : Nat)
  deriving DecidableEq, Repr

/-- A 16-byte word of the range has an uncorrectable error (R389). -/
def State.badIn (s : State) (k n : Nat) : Bool :=
  (List.range ((k + n - 1) / 16 + 1 - k / 16)).any fun i => s.badWord.get false (k / 16 + i)

/-- Bytes of a tier (R1, R197); host memory is the host's. -/
def tierSize (t : Nat) : Nat := if t = 0 then 768 * 2 ^ 30 else if t = 1 then 2 ^ 41 else 2 ^ 52

/-- The address of the first word that a walk for an address reads and that has an uncorrectable error: the level-1 entry, the entry
that heads the group of 2 MiB, the entry that governs (R206, R389). -/
def State.walkBad? (s : State) (ia : Nat) : Option Nat :=
  if s.badWord = [] then none else
  let a1 := bf (s.mgr 0x1080) 47 12 * 4096 + 8 * (ia / 2 ^ 29 % 2 ^ 19)
  if s.badIn (physKey 0 a1) 8 then some a1 else
  match s.entry? ia with
  | none => none
  | some e =>
    let a0 := bf (s.raw64 (physKey 0 a1)) 47 12 * 4096 + 16 * (ia / 2 ^ 21 % 256 * 32)
    if s.badIn (physKey 0 a0) 8 then some a0
    else if s.badIn (physKey 0 e.addr) 16 then some e.addr else none

/-- A piece of 64 KiB of a frame lies on a stack other than 0, which is not served in reduced service (R391). -/
def State.offFrame (s : State) (tier frame size : Nat) : Bool :=
  s.reduced && decide (tier = 0) && (List.range (size / 65536)).any fun i => decide ((Config.hbmStack (frame + 65536 * i)).val ≠ 0)

/-- A frame on a stack other than 0 is not served in reduced service (R391). -/
def State.offService (s : State) (e : Entry) (ia : Nat) : Bool :=
  s.reduced && decide (e.tier = 0) && decide ((Config.hbmStack (e.frame + ia % e.size)).val ≠ 0)

/-- The walk of R208 for a request (Table 8.4), with the peer windows of R369 before it. -/
def walk (q : Req) (ia : Nat) (k : AKind) : M Loc := do
  let s ← get
  match s.peerWin? q.ctx ia with
  | some n => pure (.peer n)
  | none =>
    match s.walkBad? ia with
    | some a =>
      set (s.logMc q.ctx a)
      fail { code := 0x10, ia := some ia }
    | none => pure ()
    match s.entry? ia with
    | none =>
      set (s.openEpisode q k (ia / 65536 * 65536))
      fail { code := 0x06, ia := some ia }
    | some e =>
      if e.absent then
        set (s.openEpisode q k (e.page ia))
        fail { code := 0x06, ia := some ia }
      if e.ctx ≠ q.ctx then
        set (s.violate q.ctx q.kind q.agent ia)
        fail { code := 0x05, ia := some ia }
      if e.pol then pure (.polder e)
      else
        let a := e.frame + ia % e.size
        if tierSize e.tier ≤ a then throw (.out (.noSuchFrame e.tier a))
        -- in reduced service a frame on another stack waits (R391)
        if s.offService e ia then stall (.flight 0)
        pure (.frame e (physKey e.tier a))

/-- The ordering kind of a location (R217, R369). -/
def State.ordOf (s : State) (ctx : Nat) : Loc → Nat
  | .frame e _ => e.ord
  | .polder e => e.ord
  | .peer n => bf (s.sr ctx (403 + 4 * n)) 60 59

/-- What a line of a page is stored under (R365): the slot's key pair and the tweak. -/
def State.lineTag (s : State) (e : Entry) (ia : Nat) : Nat :=
  2 + ((s.kslots.get {} e.key).key.toNat * 2 ^ 41 + ia / 128)

/-- Line l of backed memory as a page shows it whose key pair and tweak it was not stored under (R365): what was stored, under its
own key or in clear, decrypted. Host memory holds lines uncompressed (R77). -/
def State.foreignLine (s : State) (e : Entry) (l ia f : Nat) : List Byte :=
  let t := s.lkey.get 0 l
  let line := s.mem.bytes (128 * l) 128
  let key := (s.kslots.get {} e.key).key.toNat
  let tweak := ia / 128 % 2 ^ 41
  if t = 1 then xts false key tweak line
  else rekeyed (decide (128 * l < physKey 2 0)) ((t - 2) / 2 ^ 41) ((t - 2) % 2 ^ 41) key tweak (Config.freeByte f) line

/-- Byte i of a run that starts at key k and address ia, as its home installs it: the stored byte, or where the line was stored
under another key what its ciphertext gives under the page's (R365). -/
def State.installed (s : State) (e : Entry) (k ia f i : Nat) : Byte :=
  let t := s.lkey.get 0 ((k + i) / 128)
  if t = 0 ∨ t = s.lineTag e (ia + i) then s.mem.get 0 (k + i)
  else byteAt (s.foreignLine e ((k + i) / 128) (ia + i) f) ((k + i) % 128)

/-- n bytes at key k of a page's frame, read at their home. -/
def readFrame (q : Req) (e : Entry) (k ia n : Nat) : M (List Byte) := do
  let s ← get
  let ok := (List.range n).all fun i =>
    let t := s.lkey.get 0 ((k + i) / 128)
    decide (t = 0) || decide (t = s.lineTag e (ia + i))
  let f ← if ok then pure 0 else takeFresh
  let bs := (List.range n).map fun i =>
    if s.badWord.get false ((k + i) / 16) then 0 else s.installed e k ia f i
  if s.badIn k n then
    -- each failing word reads zero and is rewritten as zero; one class 5 event; the log (R389)
    modify fun s => (s.scrubWords k n).logMc q.ctx ia
    countReq q { zsub := 1 }
  pure bs

/-- Line i of a run at key k and address ia comes under its page's key: a line stored under another key is installed whole (R365). -/
def State.claimLine (s : State) (e : Entry) (k ia f i : Nat) : State :=
  let l := k / 128 + i
  let la := ia / 128 + i
  let t := s.lineTag e (128 * la)
  let cur := s.lkey.get 0 l
  if cur = t then s
  else if cur = 0 then { s with lkey := s.lkey.set 0 l t }
  else { s with
    lkey := s.lkey.set 0 l t
    mem := s.mem.setBytes (128 * l) (s.foreignLine e l (128 * la) f) }

/-- The values of a byte since its line was last written back, with one more, each once. -/
def olderValues (bs : List Byte) (b : Byte) : List Byte := if bs.contains b then bs else bs ++ [b]

/-- Bytes written at key k of a page's frame: a line stored under another key is installed and stored whole under the
page's (R365). Each line may or may not have been written back just before, and then nothing older can come back (R215, R280). -/
def writeFrame (e : Entry) (k ia : Nat) (bs : List Byte) : M Unit := do
  let f ← takeFresh
  modify fun s =>
    let s := s.scrubWords k bs.length
    let s := (List.range (lineCount k bs.length)).foldl (fun s i => s.claimLine e k ia f i) s
    { s with
      back := s.back.splice [] k bs.length fun j =>
        olderValues (if (Config.freeByte f (j / 128 - k / 128)).getLsbD 0 then [] else s.back.get [] j) (s.mem.get 0 j)
      mem := s.mem.setBytes k bs }

/-- How many blocks a die holds (R210). -/
def State.dieBlocks (s : State) (d : Nat) : Nat := (s.blocks.filter fun b => decide (b.2 = d + 1)).length

/-- The pieces of 64 KiB of a page. -/
def Entry.pieces (e : Entry) (ia : Nat) : List Nat := (List.range (e.size / 65536)).map (e.page ia / 65536 + ·)

/-- The blocks that a page holds. -/
def State.pageBlocks (s : State) (e : Entry) (ia : Nat) : Nat :=
  ((e.pieces ia).filter fun b => decide (s.blocks.get 0 b ≠ 0)).length

/-- The lowest-numbered die with the most free blocks (R212). -/
def State.freestDie (s : State) : Nat :=
  (List.range 12).foldl (fun b d => if s.dieBlocks d < s.dieBlocks b then d else b) 0

/-- The page's home becomes die d, and its blocks move there (R216); in reduced service cache die 0 keeps them (R391). -/
def State.migratePage (s : State) (e : Entry) (ia d : Nat) : State :=
  let s := s.putEntry ia e (setBf (setBf e.e0 36 36 1) 35 32 d) e.e1
  { s with blocks := (e.pieces ia).foldl (fun m b => if m.get 0 b = 0 then m else m.set 0 b (if s.reduced then 1 else d + 1)) s.blocks }

/-- A page's polder lines and blocks are dropped (R207, R214). -/
def State.dropPolder (s : State) (e : Entry) (ia : Nat) : State :=
  let n := s.pageBlocks e ia
  let c := s.ctxAt e.ctx
  ({ s with
    pol := s.pol.below (e.page ia) ++ s.pol.above (e.page ia + e.size)
    badPol := s.badPol.below (e.page ia / 16) ++ s.badPol.above ((e.page ia + e.size) / 16)
    polDisc := s.polDisc.below (e.page ia / 128) ++ s.polDisc.above ((e.page ia + e.size) / 128)
    blocks := (e.pieces ia).foldl (fun m b => m.set 0 b 0) s.blocks }).setCtx e.ctx { c with blocks := c.blocks - n }

/-- late_frame of R214, with a frame from pool kind p: the polder lines go to the frame, all its other lines to zero. -/
def State.lateFrameFrom (s : State) (e : Entry) (ia p : Nat) : State :=
  let c := s.ctxAt e.ctx
  match c.lf.get [] p with
  | [] => s
  | f :: fs =>
    let s := s.setCtx e.ctx { c with lf := c.lf.set [] p fs }
    let tier := if p < 2 then 0 else 1
    let k := physKey tier f
    let pg := e.page ia
    let moved : Sparse Byte := ((s.pol.above pg).below (pg + e.size)).map fun b => (k + (b.1 - pg), b.2)
    let marks : Sparse Bool := ((s.badPol.above (pg / 16)).below ((pg + e.size) / 16)).map fun b => (k / 16 + (b.1 - pg / 16), b.2)
    let s := { s with
      mem := s.mem.below k ++ (moved ++ s.mem.above (k + e.size))
      back := s.back.below k ++ s.back.above (k + e.size)
      badWord := s.badWord.below (k / 16) ++ (marks ++ s.badWord.above ((k + e.size) / 16))
      lkey := s.lkey.splice 0 (k / 128) (e.size / 128) fun l => s.lineTag e (pg + (l - k / 128) * 128) }
    let s := s.dropPolder e ia
    s.putEntry ia e (setBf (setBf e.e0 61 60 tier) 57 57 0) (setBf e.e1 63 28 (f / 65536))

/-- The pools that may give a late frame of a page's size, HBM first (R214). -/
def Entry.pools (e : Entry) (second : Bool) : List Nat :=
  let z := if e.big then 1 else 0
  if second then [2 + z] else [z, 2 + z]

/-- late_frame of R214, with a frame from pool kind p, for which it waits in reduced service while the frame is not served (R391). -/
def lateFrame (e : Entry) (ia p : Nat) : M Unit := do
  let s ← get
  match (s.ctxAt e.ctx).lf.get [] p with
  | [] => pure ()
  | f :: _ => if s.offFrame (if p < 2 then 0 else 1) f e.size then stall (.flight 0)
  set (s.lateFrameFrom e ia p)

/-- The pool that gives the page its late frame, if any does. -/
def State.poolFor (s : State) (e : Entry) (second : Bool) : Option Nat :=
  (e.pools second).find? fun p => decide ((s.ctxAt e.ctx).lf.get [] p ≠ [])

/-- new_block of R212: on a full home the page moves to the freest die, with its blocks and the new one. -/
def newBlock (e : Entry) (ia : Nat) : M Unit := do
  let s ← get
  let c := s.ctxAt e.ctx
  if c.blocks < 32 * bf (s.sr e.ctx 192) 11 0 then
    let full := decide (6144 ≤ s.dieBlocks (s.homeOf e ia))
    let d := if full then s.freestDie else s.homeOf e ia
    let s := if full then s.migratePage e ia d else s
    set (({ s with blocks := s.blocks.set 0 (ia / 65536) (if s.reduced then 1 else d + 1) }).setCtx e.ctx { c with blocks := c.blocks + 1 })
  else
    match (if e.plc then s.poolFor e false else none) with
    | some p => lateFrame e ia p
    | none => fail { code := 0x07, ia := some ia }

/-- grant of R225 for an access that lies in one 4 KiB piece: the walk, and the block a polder write needs (R212). -/
def grant (q : Req) (ia : Nat) (k : AKind) : M Loc := do
  let l ← walk q ia k
  match l, k with
  | .polder e, .write =>
    if (← get).blocks.get 0 (ia / 65536) = 0 then
      newBlock e ia
      walk q ia k
    else pure l
  | _, _ => pure l

/-- A word of 16 bytes of a polder range has an uncorrectable error (R389). -/
def State.badPolder (s : State) (ia n : Nat) : Bool :=
  (List.range (if n = 0 then 0 else (ia + n - 1) / 16 + 1 - ia / 16)).any fun i => s.badPol.get false (ia / 16 + i)

/-- Such words are rewritten as zero with fresh check bits. -/
def State.scrubPolder (s : State) (ia n : Nat) : State :=
  let ws := (List.range (if n = 0 then 0 else (ia + n - 1) / 16 + 1 - ia / 16)).filter fun i => s.badPol.get false (ia / 16 + i)
  { s with
    pol := ws.foldl (fun m i => m.splice 0 (16 * (ia / 16 + i)) 16 fun _ => 0) s.pol
    badPol := ws.foldl (fun b i => b.set false (ia / 16 + i) false) s.badPol }

/-- n bytes of a polder page, read at their home (R212, R389). -/
def readPolder (q : Req) (ia n : Nat) : M (List Byte) := do
  if (← get).badPolder ia n then
    modify fun s => (s.scrubPolder ia n).logMc q.ctx ia
    countReq q { zsub := 1 }
  pure ((← get).pol.bytes ia n)

/-- Bytes written to lines of a polder page (R212): they are no longer discarded (R215). -/
def State.polderWrite (s : State) (ia : Nat) (bs : List Byte) : State :=
  let s := s.scrubPolder ia bs.length
  { s with
    pol := s.pol.setBytes ia bs
    polDisc := s.polDisc.splice false (ia / 128) (lineCount ia bs.length) fun _ => false }

/-- The n bytes that the home of an address would answer, without performing an access. -/
def State.peek (s : State) (ia n : Nat) : List Byte :=
  match s.entry? ia with
  | none => List.replicate n 0
  | some e =>
    if e.absent then List.replicate n 0
    else if e.pol then s.pol.bytes ia n
    else s.mem.bytes (physKey e.tier (e.frame + ia % e.size)) n

/-- A 64-bit word as its home would answer it. -/
def State.peek64 (s : State) (ia : Nat) : Nat := leNat (s.peek ia 8)

/-- The bytes of two ranges meet. -/
def meets (a n b m : Nat) : Bool := decide (a < b + m) && decide (b < a + n)

/-- The page of an address is the context's, and there (R361). -/
def State.ownsPage (s : State) (ctx ia : Nat) : Bool :=
  match s.entry? ia with
  | some e => !e.absent && decide (e.ctx = ctx)
  | none => false

/-- A write of n bytes at ia is one to a watched word of a launch that still waits for its words, on a page of its own context. -/
def State.watches (s : State) (ia n : Nat) (l : Launch) (d : Dep) : Bool :=
  !l.sat && meets d.ia 8 ia n && s.ownsPage (bf (l.lrec.get 0 4) 17 12) d.ia

/-- A launch's dependence words after a write: the monitors of those that were written have read them again, and of no others (R319). -/
def State.reread (s : State) (ia n : Nat) (l : Launch) : List Dep :=
  l.deps.map fun d => if s.watches ia n l d then { d with met := decide (d.target ≤ s.peek64 d.ia) } else d

/-- The monitors of R319: a write to a watched word re-evaluates its launch's condition (R26), and wakes the device (R371). -/
def State.monitor (s : State) (ia n : Nat) : State :=
  let hit (l : Launch) : Bool := l.deps.any (s.watches ia n l)
  { s with
    tier := if s.launches.any hit then 0 else s.tier
    ltr := if s.launches.any hit && decide (s.tier ≠ 0) then some 0 else s.ltr
    launches := s.launches.map fun l =>
      if hit l then { l with deps := s.reread ia n l, sat := (s.reread ia n l).all Dep.met } else l }

/-- The bits of slot word w that only the device changes (Table 13.2). -/
def slotDBits (w : Nat) : Nat :=
  match w with
  | 0 => 2 ^ 64 - 1
  | 1 => 2 ^ 64 - 2 ^ 32
  | 8 => 2 ^ 64 - 2 ^ 32
  | 10 => 2 ^ 64 - 1
  | 11 => 2 ^ 64 - 1
  | 12 => 2 ^ 64 - 1 - 2 ^ 60
  | 13 => 2 ^ 64 - 1
  | 15 => 2 ^ 64 - 1
  | _ => 0

/-- The slots in use whose bytes a store of n bytes at ia covers, by gnum (R343). -/
def State.slotsHit (s : State) (ia n : Nat) : List (Nat × SlotDev) :=
  s.slots.filter fun d => d.2.used && decide (d.2.ia < ia + n) && decide (ia < d.2.ia + 128)

/-- The stash lines of the cores that hold the line of an address: core, line index, line. -/
def State.stashed (s : State) (ia : Nat) : List (Nat × Nat × StLine) :=
  s.cores.flatMap fun c => c.2.stLine.filterMap fun e =>
    match e.2 with
    | some l => if l.ia / 128 = ia / 128 then some (c.1, e.1, l) else none
    | none => none

/-- Byte i of the mask of a slot's device-only bits for a request: a status word may land in `lstat` (R25, R343). -/
def Req.slotDByte (q : Req) (i : Nat) : Byte :=
  if q.ag = 4098 ∧ 120 ≤ i then 0 else BitVec.ofNat 8 (slotDBits (i / 8) / 256 ^ (i % 8))

/-- The 128 bytes of the line at an address as they now are: in a stash that holds the line, else at its home (R199). -/
def State.lineNow (s : State) (ia : Nat) : List Byte :=
  match s.stashed ia with
  | h :: _ => (s.coreAt h.1).spad.bytes (128 * h.2.1) 128
  | [] => s.peek (ia / 128 * 128) 128

/-- A store to a slot in use (R343, R350): device-only bits keep their values, a change of one is a violation, and an invalid `fin`
is discarded with event 3. The bytes that the store leaves, and whether it met a device-only bit. -/
def slotStore (q : Req) (gnum : Nat) (d : SlotDev) (ia : Nat) (bs : List Byte) : M (List Byte × Bool) := do
  let s ← get
  let old := s.lineNow d.ia
  let covers (i : Nat) : Bool := decide (ia ≤ d.ia + i) && decide (d.ia + i < ia + bs.length)
  let new (i : Nat) : Byte := byteAt bs (d.ia + i - ia)
  let kept (i : Nat) : Byte := (new i &&& ~~~ q.slotDByte i) ||| (byteAt old i &&& q.slotDByte i)
  let merged (i : Nat) : Byte := if covers i then kept i else byteAt old i
  let hit := (List.range 128).any fun i => covers i && decide ((new i ^^^ byteAt old i) &&& q.slotDByte i ≠ 0)
  if hit then set (s.violate q.ctx 5 q.agent ia)
  let fin := leNat ((List.range 4).map fun i => merged (64 + i))
  let fdone := leNat ((List.range 4).map fun i => byteAt old (68 + i))
  let lnf := (byteAt old 63).toNat / 16
  let bad := (List.range 4).any (fun i => covers (64 + i)) && decide (2 ^ lnf < (fin + 2 ^ 32 - fdone) % 2 ^ 32)
  if bad then modify fun s => s.sendEvent d.ctx gnum 3 0 fin
  pure ((List.range bs.length).map fun j =>
    let a := ia + j
    if a < d.ia ∨ d.ia + 128 ≤ a then byteAt bs j
    else
      let i := a - d.ia
      if bad ∧ 64 ≤ i ∧ i < 68 then byteAt old i else kept i, hit)

/-- The slot table of a context, which lies in one window (R342): its intermediate address and its slots. -/
def State.slotTable? (s : State) (ctx : Nat) : Option (Nat × Nat) :=
  let n := bf (s.sr ctx 321) 15 0
  if n = 0 then none else
  match s.translate? { kind := 0, agent := 0, ctx := ctx, ag := 4096, win := (s.ctxAt ctx).sr } (bf (s.sr ctx 320) 55 7 * 128) 1 {} with
  | .ok ia => some (ia, n)
  | .error _ => none

/-- The address lies in `fin` of a free slot of a context's table (R350). -/
def State.freeFin (s : State) (ctx a : Nat) : Bool :=
  match s.slotTable? ctx with
  | none => false
  | some (lo, n) =>
    decide (lo ≤ a) && decide (a < lo + 128 * n) && decide (64 ≤ (a - lo) % 128) && decide ((a - lo) % 128 < 68) &&
      decide (s.slotsHit a 1 = [])

/-- A store to `fin` of a free slot is discarded (R350): the bytes that perform. -/
def State.keepFreeFin (s : State) (ctx ia : Nat) (bs : List Byte) : List Byte :=
  (List.range bs.length).map fun j =>
    if s.freeFin ctx (ia + j) then byteAt (s.lineNow (ia + j)) ((ia + j) % 128) else byteAt bs j

/-- A store of n bytes meets a slot in use or `fin` of a free one: the guard decides what of it performs. -/
def State.guarded (s : State) (ctx ia n : Nat) : Bool :=
  decide (s.slotsHit ia n ≠ []) || (List.range n).any fun j => s.freeFin ctx (ia + j)

/-- The bytes of a store that perform, whoever makes it, but for the device's own updates of slots (R343, R350), and whether it met
a device-only bit. -/
def slotGuard (q : Req) (ia : Nat) (bs : List Byte) : M (List Byte × Bool) := do
  if q.ag = 4097 then return (bs, false)
  let s ← get
  (s.slotsHit ia bs.length).foldlM (fun r d => do
    let t ← slotStore q d.1 d.2 ia r.1
    pure (t.1, r.2 || t.2)) (if s.guarded q.ctx ia bs.length then s.keepFreeFin q.ctx ia bs else bs, false)

/-- The error response to a store that met a device-only bit of a slot (R366): a stream, an engine command and a peer receive one. -/
def slotResponse (q : Req) (ia : Nat) (hit : Bool) : M Unit :=
  failIf (hit && decide (q.kind ≠ 3) && !(decide (4096 ≤ q.ag) && decide (q.ag < 4099))) { code := 0x05, ia := some ia }

/-- Bytes reach a location: backed memory, with what the host link owes (R275), a polder page, or a peer (R369). -/
def putAt (q : Req) (l : Loc) (ia : Nat) (bs : List Byte) : M Unit := do
  match l with
  | .frame e k =>
    writeFrame e k ia bs
    modify fun s => ({ s with remote := s.remote ++ (if e.tier = 2 then [⟨q.ag, false⟩] else []) } : State).monitor ia bs.length
  | .polder _ => modify fun s => (s.polderWrite ia bs).monitor ia bs.length
  | .peer n => modify fun s => { s.toPeer q n ia (.wr bs) with remote := s.remote ++ [⟨q.ag, true⟩] }

/-- The 128 bytes of a stash line from scratchpad address a: each word of 16 bytes with an uncorrectable error reads as zero
(R389). -/
def Core.lineBytes (c : Core) (a : Nat) : List Byte :=
  (List.range 128).map fun i =>
    if (List.range 16).any fun j => c.ecc.spad.get false (a + i / 16 * 16 + j) then 0 else c.spad.get 0 (a + i)

/-- A stash line has an uncorrectable error. -/
def Core.lineBad (c : Core) (i : Nat) : Bool := (List.range 128).any fun j => c.ecc.spad.get false (128 * i + j)

/-- Stash line i of a core, which is dirty, is read: failing words read as zero and are rewritten, class 5 counts once, and `mclog`
logs it (R389). -/
def scrubStash (core i ia : Nat) : M Unit := do
  let x := (← get).coreAt core
  if x.lineBad i then
    modify fun s => (s.setCore core (x.putSpad (128 * i) (x.lineBytes (128 * i)))).logMc (s.coreCtx core) ia
    countReq ((← get).coreReq core) { zsub := 1 }

/-- A dirty line of a stash is written back to its home, as a write of its core's task: it becomes clean (R199). -/
def stashClean (core i : Nat) (ln : StLine) : M Unit := do
  let q := (← get).coreReq core
  let l ← grant q ln.ia .write
  scrubStash core i ln.ia
  let x := (← get).coreAt core
  modify fun s => s.setCore core { x with stLine := x.stLine.set none i (some { ln with dirty := false }) }
  putAt q l ln.ia (x.spad.bytes (128 * i) 128)

/-- An intermediate address lies in a reuse range of a launch record, as a context's windows show it (R219). -/
def rangeHolds (sr r : Sparse Word) (i ia : Nat) : Bool :=
  let base := bf (r.get 0 (25 + 2 * i)) 55 16 * 65536
  let len := bf (r.get 0 (26 + 2 * i)) 31 0 * 65536
  decide (len ≠ 0) && (List.range 16).any fun n =>
    let w := windowOf sr n
    w.v && decide (w.ibase ≤ ia) && decide (ia < w.ibase + (w.limit - w.base)) &&
      decide (base ≤ w.base + (ia - w.ibase)) && decide (w.base + (ia - w.ibase) < base + len)

/-- The reuse ranges of running launches of a context that hold an address (R219), as 3 × launch + index. -/
def State.rangesAt (s : State) (ctx ia : Nat) : List Nat :=
  (s.cores.flatMap fun c =>
    match c.2.task with
    | none => []
    | some t => if t.ctx ≠ ctx then [] else
        ((List.range 3).filter fun i => rangeHolds (s.ctxAt ctx).sr t.lrec i ia).map (3 * t.launch + ·)).eraseDups

/-- A die counts an access for reuse range k (R220); whether it misses, and whether its line was accessed before, is open. -/
def State.countRange (s : State) (die k : Nat) : State :=
  let i := 16 * k + die
  let x := s.ranges.get (0, 0, 0, 0) i
  let miss := (Config.freeByte s.fresh 0).getLsbD 0
  let again := (Config.freeByte s.fresh 0).getLsbD 1
  let n (b : Bool) : Nat := if b then 1 else 0
  { s with
    fresh := s.fresh + 1
    ranges := s.ranges.set (0, 0, 0, 0) i (x.1 + 1, x.2.1 + n miss, x.2.2.1 + n again, x.2.2.2 + n (again && !miss)) }

/-- An access reaches its home die, which counts it for the reuse ranges that hold its address (R220). -/
def State.touch (s : State) (q : Req) (l : Loc) (ia : Nat) : State :=
  match l with
  | .peer _ => { s with lastMem := s.dtime }
  | .frame e _ | .polder e =>
    (s.rangesAt q.ctx ia).foldl (fun t k => t.countRange (s.homeOf e ia) k) { s with lastMem := s.dtime }

/-- Other stashes before a read of n bytes at their home: dirty lines are served and become clean (R199). -/
def stashRead (ia n : Nat) : M Unit := do
  let s ← get
  (List.range (lineCount ia n)).forM fun i =>
    (s.stashed (128 * (ia / 128 + i))).forM fun h =>
      if h.2.2.dirty then quietly (stashClean h.1 h.2.1 h.2.2) else pure ()

/-- Other stashes before a write of n bytes at their home: the lines leave them (R199). -/
def stashWrite (ia n : Nat) : M Unit := do
  stashRead ia n
  let s ← get
  (List.range (lineCount ia n)).forM fun i =>
    (s.stashed (128 * (ia / 128 + i))).forM fun h =>
      modify fun s => s.setCore h.1 { s.coreAt h.1 with stLine := (s.coreAt h.1).stLine.set none h.2.1 none }

/-- A copy of the bytes in a core's scalar cache follows a write (R200, R274). -/
def State.scUpdate (s : State) (c ia : Nat) (bs : List Byte) : State :=
  s.setCore c ((List.range bs.length).foldl (fun x i =>
    if x.scLine.get false ((ia + i) / 128) then { x with scByte := x.scByte.set 0 (ia + i) (byteAt bs i) } else x) (s.coreAt c))

/-- The scalar cache of a request's core follows what the request wrote or read. -/
def State.scFollow (s : State) (q : Req) (ia : Nat) (bs : List Byte) : State :=
  match q.core? with
  | some c => s.scUpdate c ia bs
  | none => s

/-- Bytes that the guard of the slots has passed perform at their home (R262). -/
def homePut (q : Req) (l : Loc) (ia : Nat) (bs : List Byte) : M Unit := do
  stashWrite ia bs.length
  putAt q l ia bs
  modify fun s => (s.scFollow q ia bs).touch q l ia

/-- A granted write performs (R262): its bytes reach their home, and its maker receives its response. -/
def homeWrite (q : Req) (l : Loc) (ia : Nat) (bs : List Byte) : M Unit := do
  let g ← slotGuard q ia bs
  homePut q l ia g.1
  slotResponse q ia g.2

/-- Where an access that has been granted goes now. -/
def State.locNow? (s : State) (ctx ia : Nat) : Option Loc :=
  match s.peerWin? ctx ia with
  | some n => some (.peer n)
  | none =>
    match s.entry? ia with
    | none => none
    | some e =>
      if e.absent ∨ e.ctx ≠ ctx then none
      else if e.pol then some (.polder e)
      else some (.frame e (physKey e.tier (e.frame + ia % e.size)))

/-- A waiting store performs (R262). Its stream has gone on: nothing answers for it. -/
def performPend (p : Pend) : M Unit := do
  match (← get).locNow? p.ctx p.ia with
  | none => pure ()
  | some l => quietly (homeWrite { kind := p.kind, agent := p.num, ctx := p.ctx, ag := p.agent } l p.ia p.data)

/-- What stands before the entries `later` of its agent in program order must perform before them: a store to bytes that one of
them meets (R264), a strong store before a strong one (R265), a store to a strong or release page before a release mark, and a
mark before such a store (R266). -/
def Pend.before (p : Pend) (later : List Pend) : Bool :=
  if p.ord = 3 then later.any fun o => decide (o.ord ≤ 1)
  else later.any fun o =>
    if o.ord = 3 then decide (p.ord ≤ 1)
    else meets p.ia p.data.length o.ia o.data.length || (decide (p.ord = 0) && decide (o.ord = 0))

/-- The waiting stores of an agent that the test names perform in order, each after the earlier ones that must stand before it. -/
def settleIf (ag : Nat) (f : Pend → Bool) : M Unit := do
  let all := (← get).pend
  let mine := all.filter fun p => decide (p.agent = ag)
  -- from the youngest back: an entry goes if it is named, or if a younger one that goes stands after it
  let go := mine.foldr (fun p acc => if (decide (p.ord ≠ 3) && f p) || p.before acc then p :: acc else acc) []
  modify fun s => { s with pend := s.pend.filter fun p => !(decide (p.agent = ag) && go.contains p) }
  (go.filter fun p => decide (p.ord ≠ 3)).forM performPend

/-- Every waiting store of the agent performs, and its release marks are spent. -/
def settleAll (ag : Nat) : M Unit := do
  settleIf ag fun _ => true
  modify fun s => { s with pend := s.pend.filter fun p => !decide (p.agent = ag) }

/-- Every waiting store of the agent to strong and release pages performs (a release of Table 10.2). -/
def settleSR (ag : Nat) : M Unit := do
  settleIf ag fun p => decide (p.ord ≤ 1)
  modify fun s => { s with pend := s.pend.filter fun p => !(decide (p.agent = ag) && decide (p.ord = 3)) }

/-- The waiting stores that stand before an access to n bytes perform first: its agent's to the same bytes (R264) and, before an
access to a strong page, its strong ones (R265); before an access of a command, those that its stream issued earlier (R269). -/
def settleBefore (q : Req) (strong : Bool) (ia n : Nat) : M Unit := do
  settleIf q.ag fun p => meets p.ia p.data.length ia n || (strong && decide (p.ord = 0))
  if 8192 ≤ q.ag then
    settleIf ((q.ag - 8192) / 64) fun p => decide (p.no < q.no) && (meets p.ia p.data.length ia n || decide (p.ord = 0))

/-- The agent's waiting stores to these bytes perform first (R264, R269). -/
def settleBytes (q : Req) (ia n : Nat) : M Unit := settleBefore q false ia n

/-- A release mark of the agent waits (`fence.rel`). -/
def State.marked (s : State) (ag : Nat) : Bool := s.pend.any fun p => decide (p.agent = ag) && decide (p.ord = 3)

/-- A waiting store may perform now: no earlier store of its agent meets its bytes (R264), no strong store stands before a strong
one (R265), and no release mark before a store to a strong or release page (R266). A mark goes once no store to such a page stands before it. -/
def mayPerform (earlier : List Pend) (p : Pend) : Bool :=
  let mine := earlier.filter fun o => decide (o.agent = p.agent)
  if p.ord = 3 then mine.all fun o => decide (o.ord = 2) || decide (o.ord = 3)
  else mine.all fun o =>
    if o.ord = 3 then decide (p.ord = 2)
    else !meets p.ia p.data.length o.ia o.data.length && !(decide (p.ord = 0) && decide (o.ord = 0))

/-- The k-th waiting store performs, if it may. -/
def performNth (k : Nat) : M Unit := do
  let s ← get
  match s.pend[k]? with
  | some p =>
    if mayPerform (s.pend.take k) p then
      set { s with pend := s.pend.eraseIdx k }
      if p.ord ≠ 3 then performPend p
  | none => pure ()

/-- Between two accesses of one instruction or command, waiting stores may perform: which ones is open (R263, R269, R281). -/
def letPerform : M Unit := do
  (List.range (← get).pend.length).forM fun _ => do
    let f ← takeFresh
    performNth (Config.freeNat f % ((← get).pend.length + 1))

/-- n bytes read at their home, at a granted location: the access performs (R262), after the waiting stores that stand before it. -/
def homeRead (q : Req) (l : Loc) (ia n : Nat) : M (List Byte) := do
  let strong := decide ((← get).ordOf q.ctx l = 0)
  settleBefore q strong ia n
  stashRead ia n
  modify fun s => s.touch q l ia
  match l with
  | .frame e k => readFrame q e k ia n
  | .polder _ => readPolder q ia n
  | .peer m => do
    modify fun s => s.toPeer q m ia (.rd n)
    let f ← takeFresh
    pure ((List.range n).map fun i => Config.freeByte f i)

/-- The location d bytes on, on the same page. -/
def Loc.plus (d : Nat) : Loc → Loc
  | .frame e k => .frame e (k + d)
  | l => l

/-- The parts of n bytes at ia that lie in one 4 KiB piece each: (address, offset, length). -/
def pieces (ia n : Nat) : List (Nat × Nat × Nat) :=
  let a := min n (4096 - ia % 4096)
  if a = n then [(ia, 0, n)] else [(ia, 0, a), (ia + a, a, n - a)]

/-- A fault of a home, reported with the virtual address too. -/
def withVa {α : Type} (va ia : Nat) (m : M α) : M α :=
  tryCatch m fun e =>
    match e with
    | .fault f => throw (.fault { f with va := f.ia.map fun a => va + a - ia })
    | e => throw e

/-- A meaning that leaves no effect where it faults: what a precise fault asks of grants that take several blocks (R213, R227). -/
def whole {α : Type} (m : M α) : M α := fun s =>
  match m s with
  | .error (.fault f) _ => .error (.fault f) s
  | r => r

/-- The walks of the parts of n bytes: every fault of Table 8.4 but the overflow's comes here, before any block is taken. -/
def walkAll (q : Req) (ia n : Nat) (k : AKind) : M Unit := (pieces ia n).forM fun p => do let _ ← walk q p.1 k

/-- grant of R225 for n bytes: every part is granted before any is accessed (R227). An overflow of a later part leaves the
earlier ones without a new block (R213); a late frame that a later part brings moves the earlier ones with their page (R214). -/
def grantAll (q : Req) (va ia n : Nat) (k : AKind) : M (List (Loc × Nat × Nat × Nat)) :=
  withVa va ia do
    if (pieces ia n).length = 1 then
      (pieces ia n).mapM fun p => do pure (← grant q p.1 k, p)
    else
      walkAll q ia n k
      whole ((pieces ia n).forM fun p => do let _ ← grant q p.1 k)
      (pieces ia n).mapM fun p => do pure (← walk q p.1 k, p)

/-- A granted read. -/
def readAll (q : Req) (ps : List (Loc × Nat × Nat × Nat)) : M (List Byte) := do
  let bs ← ps.mapM fun p => homeRead q p.1 p.2.1 p.2.2.2
  pure bs.flatten

/-- One access of several bytes as its bytes perform (R227, R263): at once, or each on its own with stores of other agents between. -/
def readBytes (once : Bool) (f : Loc → Nat → Nat → M (List Byte)) (l : Loc) (ia n : Nat) : M (List Byte) :=
  if once then f l ia n else do
    let bs ← (List.range n).mapM fun i => do
      letPerform
      f (l.plus i) (ia + i) 1
    pure bs.flatten

/-- Bytes of one access perform one after the other, stores of other agents between (R263). The guard of the slots has looked at the
access as a whole. -/
def writeBytes (q : Req) (l : Loc) (ia : Nat) (bs : List Byte) : M Unit := do
  let g ← slotGuard q ia bs
  (List.range bs.length).forM fun i => do
    letPerform
    settleBytes q (ia + i) 1
    homePut q (l.plus i) (ia + i) [byteAt g.1 i]
  slotResponse q ia g.2

/-- A granted write that performs now, as one access or byte by byte, after the agent's waiting stores to the same bytes (R264). -/
def writeEach (q : Req) (once : Bool) (ps : List (Loc × Nat × Nat × Nat)) (bs : List Byte) : M Unit :=
  ps.forM fun p => do
    settleBytes q p.2.1 p.2.2.2
    let part := (bs.drop p.2.2.1).take p.2.2.2
    if once then homeWrite q p.1 p.2.1 part else writeBytes q p.1 p.2.1 part

/-- A granted write that performs as one access. -/
def writeAll (q : Req) (ps : List (Loc × Nat × Nat × Nat)) (bs : List Byte) : M Unit := writeEach q true ps bs

/-- A granted read, as one access or byte by byte. -/
def readEach (q : Req) (once : Bool) (ps : List (Loc × Nat × Nat × Nat)) : M (List Byte) := do
  let bs ← ps.mapM fun p => readBytes once (homeRead q) p.1 p.2.1 p.2.2.2
  pure bs.flatten

/-- An access of n bytes of an engine, the host or a peer is single-copy atomic: at most 8 bytes, aligned to its size (R263). -/
def oneAccess (va n : Nat) : Bool := (decide (n = 1) || decide (n = 2) || decide (n = 4) || decide (n = 8)) && decide (va % n = 0)

/-- n bytes at a virtual address, translated, granted and read at their home (R225). -/
def readVa (q : Req) (va n : Nat) (p : Perm) (k : AKind) : M (List Byte) := do
  let ia ← translate q va n p
  readAll q (← grantAll q va ia n k)

/-- Bytes written at a virtual address, at their home (R225). -/
def writeVa (q : Req) (va : Nat) (bs : List Byte) : M Unit := do
  let ia ← translate q va bs.length { w := true }
  writeAll q (← grantAll q va ia bs.length .write) bs

end Sys2Proof.Machine
end

