-- ==== Sys2Proof/Machine/Access.lean ====
section
/-! DEFINITION. The A-stream's reach of memory as shared operations: held stores and their flush (R36, R38, R251, R270),
stash windows (R199), the scalar cache (R200, R274), loads and stores (R225 to R229), releases and acquires (R266,
R271, R275), atomics (R253) and discards (R215, R258, R280). -/

namespace Sys2Proof.Machine

/-- The request of a sequencer's stream (R331). -/
def State.seqReq (s : State) (q : Nat) : Req :=
  { kind := 2, agent := q, ctx := (s.seqrAt q).ctx, ag := 512 + q, win := (s.seqrAt q).win }

/-- The request of the agent that acts. -/
def State.req (s : State) : Req :=
  match s.cur with
  | .seqr q => s.seqReq q
  | _ => s.coreReq s.coreNo

/-- The core whose A-stream acts; none for a sequencer. -/
def State.aCore? (s : State) : Option Nat :=
  match s.cur with
  | .strm c _ => some c
  | _ => none

/-- The request is that of a core's A-stream. -/
def Req.isCore (q : Req) : Bool := decide (q.ag < 512)

/-- The declared stash bytes (R28). -/
def Task.stashDecl (t : Task) : Nat := bf (t.lrec.get 0 12) 63 32

/-- The declared stash in bytes, rounded up to whole banks (R28). -/
def Task.stashBytes (t : Task) : Nat := (t.stashDecl + 131071) / 131072 * 131072

/-- The declared scratchpad bytes (R28). -/
def Task.spadBytes (t : Task) : Nat := bf (t.lrec.get 0 12) 31 0

/-- Bytes that a held entry occupies. -/
def Held.size : Held → Nat
  | .store _ _ d => d.length
  | .cmd _ _ ws _ => ((ws.getD []).map fun w => w.2.length).sum
  | .disc .. => 0

def Core.heldBytes (c : Core) : Nat := (c.held.map Held.size).sum

/-- Room for n more held bytes beside the mapped windows (R38, R257), in the whole banks that the declared stash is rounded up to
(log entry 106). -/
def Core.heldRoom (c : Core) (n : Nat) : Bool :=
  match c.task with
  | some t => decide (c.heldBytes + n + 131072 * c.stash.length ≤ t.stashBytes)
  | none => false

/-- The task of a core is inside its replayable region (R36). -/
def Core.inRegion (c : Core) : Bool := match c.task with | some t => t.inRegion | none => false

def State.updCore (s : State) (c : Nat) (f : Core → Core) : State := s.setCore c (f (s.coreAt c))

/-- S[d] := v on a core's A-stream. -/
def State.setS (s : State) (c d : Nat) (v : Word) : State :=
  if d = 0 then s else s.updCore c fun x => { x with s := x.s.set 0 d v }.fresh [d]

/-- The bytes of a write laid over n bytes read at ia. -/
def overlay (ia : Nat) (bs : List Byte) (wa : Nat) (w : List Byte) : List Byte :=
  (List.range bs.length).map fun i =>
    if wa ≤ ia + i ∧ ia + i < wa + w.length then byteAt w (ia + i - wa) else byteAt bs i

/-- The task's own held entries laid over the bytes that the machine holds (R36, R225); a held discard of polder lines reads zero. -/
def State.overlayHeld (s : State) (c ia : Nat) (bs : List Byte) : List Byte :=
  (s.coreAt c).held.foldl (fun bs h =>
    match h with
    | .store _ a d => overlay ia bs a d
    | .cmd _ _ ws _ => (ws.getD []).foldl (fun bs w => overlay ia bs w.1 w.2) bs
    | .disc _ ls => ls.foldl (fun bs l =>
        match s.entry? l with
        | some e => if e.pol then overlay ia bs l (List.replicate 128 0) else bs
        | none => bs) bs) bs

/-- The scalar cache holds nothing (R200). -/
def State.scClear (s : State) (c : Nat) : State := s.updCore c fun x => { x with scLine := [], scByte := [] }

/-- Lines leave the scalar cache. -/
def State.scDrop (s : State) (c line : Nat) : State :=
  s.updCore c fun x => { x with
    scLine := x.scLine.set false line false
    scByte := x.scByte.splice 0 (128 * line) 128 fun _ => 0 }

/-- The location d bytes before, on the same page. -/
def Loc.back (d : Nat) : Loc → Loc
  | .frame e k => .frame e (k - d)
  | l => l

/-- A read of a core's A-stream at its home: its scalar cache never shows it an older value afterwards (R274). -/
def seenRead (q : Req) (l : Loc) (ia n : Nat) : M (List Byte) := do
  let bs ← homeRead q l ia n
  modify fun s => s.scFollow q ia bs
  pure bs

/-- The reads of granted parts by an A-stream, in order. -/
def seenAll (q : Req) (ps : List (Loc × Nat × Nat × Nat)) : M (List Byte) := do
  let bs ← ps.mapM fun p => seenRead q p.1 p.2.1 p.2.2.2
  pure bs.flatten

/-- The kind of the page at an address, as its home tells it; strong where there is none. -/
def State.ordAt (s : State) (ctx ia : Nat) : Nat :=
  match s.locNow? ctx ia with
  | some l => s.ordOf ctx l
  | none => 0

/-- The scalar cache's 64 KiB (Table 0.1) hold 512 lines: a line beyond them takes the place of another, which one is open. -/
def scBound (c : Nat) : M Unit := do
  let x := (← get).coreAt c
  if 512 < x.scLine.length then
    let f ← takeFresh
    match x.scLine[Config.freeNat f % x.scLine.length]? with
    | some e => modify fun s => s.scDrop c e.1
    | none => pure ()

/-- A scalar load's part at its location: through the scalar cache on a release or unordered page (R200, R274), at its
home otherwise. A line that is present may serve the load or may have been dropped. -/
def scalarRead (q : Req) (l : Loc) (ia n : Nat) : M (List Byte) := do
  let s ← get
  let cached := match l with | .peer _ => false | _ => q.isCore && decide (s.ordOf q.ctx l ≠ 0)
  if !cached then homeRead q l ia n else
  settleBytes q ia n
  let f ← takeFresh
  let s ← get
  let x := s.coreAt q.ag
  let present := (List.range (lineCount ia n)).all fun i => x.scLine.get false (ia / 128 + i)
  if present && Config.freeBool f then pure (x.scByte.bytes ia n) else
  let la := ia / 128 * 128
  let bs ← homeRead q (l.back (ia - la)) la (128 * lineCount ia n)
  modify fun s => s.updCore q.ag fun x => { x with
    scLine := x.scLine.splice false (ia / 128) (lineCount ia n) fun _ => true
    scByte := x.scByte.splice 0 la bs.length fun k => byteAt bs (k - la) }
  scBound q.ag
  pure ((bs.drop (ia - la)).take n)

/-- The stash window of a core that maps a virtual address (R199). -/
def Core.stashWin? (c : Core) (va : Nat) : Option StashWin :=
  c.stash.find? fun w => decide (va / 131072 = w.va / 131072)

/-- The stash line of a window that holds a virtual address. -/
def StashWin.line (w : StashWin) (va : Nat) : Nat := 1024 * w.bank + va % 131072 / 128

/-- The waiting stores of an agent that must perform before its own access to the page at an address do so: on a strong page
its strong ones (R265), before a write to a strong or release page what a release mark has ordered (R266). -/
def settleFor (q : Req) (ia : Nat) (write : Bool) : M Unit := do
  let o := (← get).ordAt q.ctx ia
  if write ∧ o ≤ 1 ∧ (← get).marked q.ag then settleSR q.ag
  if o = 0 then settleIf q.ag fun p => decide (p.ord = 0)

/-- Stash line i ends beyond the declared stash bytes, counted from bank 23 downward (R28, R29; log entry 106). -/
def Core.stashBeyond (c : Core) (i : Nat) : Bool :=
  match c.task with
  | some t => decide (t.stashDecl < (23 - i / 1024) * 131072 + 128 * (i % 1024) + 128)
  | none => false

/-- The line of a virtual address is in the stash; the first touch fetches it from its home (R199), or raises 0x03 where the line lies
beyond the declared stash (R29). Its intermediate address. -/
def stashFetch (q : Req) (w : StashWin) (va : Nat) : M Nat := do
  let lv := va / 128 * 128
  let i := w.line va
  match ((← get).coreAt q.ag).stLine.get none i with
  | some l => pure l.ia
  | none =>
    failIf (((← get).coreAt q.ag).stashBeyond i) { code := 0x03, det := 6 }
    let ia ← translate q lv 128 { r := true }
    let ps ← grantAll q lv ia 128 .read
    let bs ← seenAll q ps
    modify fun s => s.updCore q.ag fun x => { x.putSpad (128 * i) bs with
      stLine := x.stLine.set none i (some ⟨ia, false⟩) }
    pure ia

/-- The parts of n bytes from a that lie in one 128-byte line each. -/
def lineParts (a n : Nat) : List (Nat × Nat) :=
  let m := min n (128 - a % 128)
  if m = n then [(a, n)] else [(a, m), (a + m, n - m)]

/-- A stash line with an uncorrectable error, before its core reads it: a dirty line's words read as zero, a clean line is fetched
again (R389). -/
def stashCheck (q : Req) (w : StashWin) (va : Nat) : M Unit := do
  let i := w.line va
  let x := (← get).coreAt q.ag
  if x.lineBad i then
    match x.stLine.get none i with
    | some l =>
      if l.dirty then scrubStash q.ag i l.ia
      else
        modify fun s => s.updCore q.ag fun x => { x with stLine := x.stLine.set none i none }
        let _ ← stashFetch q w va
    | none => pure ()

/-- A stash line is ready for its core's own access: it is present, the stream's waiting stores to the line and those that must stand
before the access have performed (R264, R265), by which it may have left the stash and come again, and its errors are dealt with. -/
def stashOpen (q : Req) (w : StashWin) (va : Nat) (write : Bool) : M Nat := do
  let ia ← stashFetch q w va
  settleFor q ia write
  settleBytes q ia 128
  let ia ← stashFetch q w va
  stashCheck q w va
  pure ia

/-- n bytes of a stash line as their core reads them. -/
def stashBytes (q : Req) (w : StashWin) (va n : Nat) : M (List Byte) := do
  let _ ← stashOpen q w va false
  pure (((← get).coreAt q.ag).sbytes (128 * w.line va + va % 128) n)

/-- A part of a load in a stash window, as one access or byte by byte (R227, R263). -/
def stashLoad (q : Req) (once : Bool) (w : StashWin) (va n : Nat) : M (List Byte) :=
  if once then stashBytes q w va n else do
    let bs ← (List.range n).mapM fun i => do
      letPerform
      stashBytes q w (va + i) 1
    pure bs.flatten

/-- mread of Table 9.1 for up to 128 bytes of the acting A-stream or sequencer, translated with `r` and granted first: a scalar load,
which is one access only where it is aligned to its size, or a vector load's lane (R227, R231, R263). -/
def loadVa (q : Req) (va n : Nat) (scalar : Bool) : M (List Byte) := do
  let ia ← translate q va n { r := true }
  let x := (← get).coreAt q.ag
  let once := !scalar || decide (va % n = 0)
  if !q.isCore then
    readEach q once (← grantAll q va ia n .read)
  else if (x.stashWin? va).isNone && (x.stashWin? (va + n - 1)).isNone then
    let ps ← grantAll q va ia n .read
    let bs ← ps.mapM fun p => readBytes once (if scalar then scalarRead q else seenRead q) p.1 p.2.1 p.2.2.2
    pure ((← get).overlayHeld q.ag ia bs.flatten)
  else
    let bs ← (lineParts va n).mapM fun p => do
      match ((← get).coreAt q.ag).stashWin? p.1 with
      | some w => stashLoad q once w p.1 p.2
      | none =>
        let ia ← translate q p.1 p.2 { r := true }
        let bs ← (← grantAll q p.1 ia p.2 .read).mapM fun p => readBytes once (seenRead q) p.1 p.2.1 p.2.2.2
        pure bs.flatten
    pure ((← get).overlayHeld q.ag ia bs.flatten)

/-- The store of a request at an address, of serial number `no`, as it waits. -/
def State.storePend (s : State) (q : Req) (no : Nat) (l : Loc) (ia : Nat) (bs : List Byte) : Pend :=
  { agent := q.ag, kind := q.kind, num := q.agent, ctx := q.ctx, ia := ia, data := bs, ord := s.ordOf q.ctx l, no := no,
    epoch := s.qepoch }

/-- A part of a granted store at its location (R229, R262): it waits, as one access or byte by byte (R263), and performs under R264
to R266; the core's scalar cache follows at once. -/
def storeWaits (q : Req) (no : Nat) (once : Bool) (l : Loc) (ia : Nat) (bs : List Byte) : M Unit :=
  modify fun s => { s.scFollow q ia bs with
    pend := s.pend ++ (if once then [s.storePend q no l ia bs]
      else (List.range bs.length).map fun i => s.storePend q no (l.plus i) (ia + i) [byteAt bs i])
    issued := s.issued + 1 }

/-- A granted store of serial number `no` (R229, R262): it waits. A store that meets a slot in use or `fin` performs at once, so that its
stream receives the response to it precisely (R343, R350, R366). -/
def storeGranted (q : Req) (no : Nat) (once : Bool) (ps : List (Loc × Nat × Nat × Nat)) (bs : List Byte) : M Unit :=
  ps.forM fun p => do
    let part := (bs.drop p.2.2.1).take p.2.2.2
    if (← get).guarded q.ctx p.2.1 part.length then
      settleFor q p.2.1 true
      settleBytes q p.2.1 part.length
      if once then homeWrite q p.1 p.2.1 part else writeBytes q p.1 p.2.1 part
    else storeWaits q no once p.1 p.2.1 part

/-- A block all of whose lines are discarded is freed once no store to it waits (R215). Freed blocks. -/
def freeBlock (e : Entry) (b : Nat) : M Nat := do
  let gone (s : State) : Bool := decide (s.blocks.get 0 b ≠ 0) && (List.range 512).all fun i => s.polDisc.get false (512 * b + i)
  if !gone (← get) then return 0
  (((← get).pend.map fun p => p.agent).eraseDups).forM fun a => settleIf a fun p => meets p.ia p.data.length (65536 * b) 65536
  if !gone (← get) then return 0
  modify fun s =>
    let c := s.ctxAt e.ctx
    ({ s with
      blocks := s.blocks.set 0 b 0
      polDisc := s.polDisc.splice false (512 * b) 512 fun _ => false }).setCtx e.ctx { c with blocks := c.blocks - 1 }
  pure 1

/-- One line of a discard by a context (R215, R280): a polder line reads zero, and a block whose lines are all discarded is freed;
each byte of a backed line becomes one of the values since its line was last written back, the newest among them. Freed blocks. -/
def discardLine (ctx ia : Nat) : M Nat := do
  stashWrite ia 128
  let s ← get
  match s.entry? ia with
  | none => pure 0
  | some e =>
    if e.absent ∨ e.ctx ≠ ctx then pure 0
    else if e.pol then
      let s := s.scrubPolder ia 128
      set ({ s with
        pol := s.pol.splice 0 ia 128 fun _ => 0
        polDisc := if s.blocks.get 0 (ia / 65536) = 0 then s.polDisc else s.polDisc.set false (ia / 128) true }.monitor ia 128)
      freeBlock e (ia / 65536)
    else
      let f ← takeFresh
      modify fun s =>
        let k := physKey e.tier (e.frame + ia % e.size)
        ({ s with
          mem := s.mem.splice 0 k 128 fun j =>
            let old := s.back.get [] j
            (s.mem.get 0 j :: old).getD ((Config.freeByte f j).toNat % (old.length + 1)) 0
          back := s.back.splice [] k 128 fun _ => [] }).monitor ia 128
      pure 0

/-- The lines of a discard act in order (R258). Freed blocks. -/
def discardLines (q : Req) (ls : List Nat) : M Nat :=
  ls.foldlM (fun n ia => do
    settleBytes q ia 128
    settleFor q ia true
    if q.isCore then modify fun s => s.scDrop q.ag (ia / 128)
    pure (n + (← discardLine q.ctx ia))) 0

/-- One dirty line after another of a core's stash goes back to its home (R199). -/
def stashFlush (c : Nat) : M Unit := do
  ((← get).coreAt c).stLine.forM fun e =>
    match e.2 with
    | some l => if l.dirty then stashClean c e.1 l else pure ()
    | none => pure ()

/-- At a scope with the host or peers, an operation waits for the writes there of the agents that the test names (R275). -/
def awaitRemote (sc : Nat) (mine : Nat → Bool) : M Unit := do
  let rem := (← get).remote.filter fun r => mine r.agent
  if (sc = 5 ∨ sc = 7) ∧ rem.any (fun r => !r.peer) then throw (.pause (.flight 0))
  if (sc = 6 ∨ sc = 7) ∧ rem.any (fun r => r.peer) then throw (.pause (.flight 0))

/-- The release of a command of a core (R244 step 6, R271, R275): its own writes have performed. -/
def releaseAt (core ag sc : Nat) : M Unit := do
  if 2 ≤ sc then stashFlush core
  awaitRemote sc fun a => decide (a = ag)

/-- A release at a scope by the agent of a request (R266, R271, R275): its earlier stores to strong and release pages
perform; from `seg` outward its dirty stash lines go back; at a scope with the host or peers it waits for its writes there. -/
def release (q : Req) (sc : Nat) : M Unit := do
  settleSR q.ag
  if 2 ≤ sc ∧ q.isCore then stashFlush q.ag
  awaitRemote sc fun a => decide (a = q.ag)

/-- An acquire at a scope by the agent of a request (R271). -/
def acquire (q : Req) (sc : Nat) : M Unit := do
  if 2 ≤ sc ∧ q.isCore then modify fun s => s.scClear q.ag

/-- A command's writes to intermediate addresses perform, and the core's scalar cache follows (R251, R274). -/
def cmdWrites (q : Req) (ws : List (Nat × List Byte)) : M Unit := ws.forM fun w => do
  writeAll q (← grantAll q w.1 w.1 w.2.length .write) w.2

/-- A core's held entries become these. -/
def State.setHeld (s : State) (c : Nat) (hs : List Held) : State := s.updCore c fun x => { x with held := hs }

/-- The request of a command of a core's engine slot, issued at place `no`. -/
def State.slotReq (s : State) (core slot no : Nat) : Req :=
  { s.coreReq core with kind := 1, ag := engAgent core slot, no := no }

/-- The oldest held entry of a core performs (R251, R258, R270), and leaves: a store once it is granted, a command's writes before
its release, which may wait. A queued command whose data has not moved yet is waited for. -/
def flushOne (c : Nat) (h : Held) : M Unit := do
  let s ← get
  let q := s.coreReq c
  let rest := (s.coreAt c).held.tail
  match h with
  | .store no ia d => do
    let ps ← grantAll q ia ia d.length .write
    modify fun s => s.setHeld c rest
    storeGranted q no (decide (ia % d.length = 0)) ps d
  | .cmd slot _ none _ => throw (.pause (.flight slot))
  | .cmd slot no (some ws) rel => do
    cmdWrites (s.slotReq c slot no) ws
    modify fun s => s.setHeld c (.cmd slot no (some []) rel :: rest)
    match rel with
    | some sc => releaseAt c (engAgent c slot) sc
    | none => pure ()
    modify fun s => s.setHeld c rest
  | .disc d ls => do
    let n ← discardLines q ls
    modify fun s => (s.setHeld c rest).setS c d (BitVec.ofNat 64 n)

/-- The replayable region of a core's task ends: its held stores and queued copies perform in program order (R36, R38, R266). -/
def flushRegion (c : Nat) : M Unit := do
  modify fun s => s.updCore c fun x => { x with task := x.task.map fun t => { t with inRegion := false } }
  ((← get).coreAt c).held.forM (flushOne c)
  settleAll c

/-- An irrevocable instruction of a core (R36). -/
def irrevocable (c : Nat) : M Unit := do
  let x := (← get).coreAt c
  if x.inRegion ∨ x.held ≠ [] then flushRegion c

/-- A flush that had to wait goes on before any later work of its stream (R270). -/
def resumeFlush (c : Nat) : M Unit := do
  let x := (← get).coreAt c
  if !x.inRegion ∧ x.held ≠ [] then flushRegion c

/-- The stash lines that hold a line of memory, but for line i of a core, leave their stashes (R199). -/
def State.leaveStashes (s : State) (core i ia : Nat) : State :=
  (s.stashed ia).foldl (fun s h =>
    if h.1 = core ∧ h.2.1 = i then s else s.updCore h.1 fun x => { x with stLine := x.stLine.set none h.2.1 none }) s

/-- Bytes that the guard of the slots has passed are written in a stash bank (R199): every other stash copy of the line goes; a dirty
one was served by the fetch. -/
def stashPut (q : Req) (w : StashWin) (va : Nat) (bs : List Byte) : M Unit := do
  let ia ← stashOpen q w va true
  let i := w.line va
  modify fun s => s.leaveStashes q.ag i ia
  modify fun s => s.updCore q.ag fun x => { x.putSpad (128 * i + va % 128) bs with
    stLine := x.stLine.set none i (some ⟨ia, true⟩) }
  modify fun s => { s.scUpdate q.ag (ia + va % 128) bs with polDisc := s.polDisc.set false (ia / 128) false }

/-- A store's part into a stash window (R199), granted before (R226): it performs when the bank is written, as one access or byte by
byte (R227, R263). -/
def stashStore (q : Req) (once : Bool) (w : StashWin) (va : Nat) (bs : List Byte) : M Unit := do
  let a := (← stashOpen q w va true) + va % 128
  let g ← slotGuard q a bs
  if once then stashPut q w va g.1
  else (List.range bs.length).forM fun i => do
    letPerform
    stashPut q w (va + i) [byteAt g.1 i]
  slotResponse q a g.2

/-- The intermediate address of a part of a store, in the stash, where the line comes to it, or outside (R199, R202). -/
def storePart (q : Req) (va n : Nat) : M Nat := do
  match ((← get).coreAt q.ag).stashWin? va with
  | some w => pure ((← stashFetch q w va) + va % 128)
  | none => translate q va n { w := true }

/-- mwrite of Table 9.1 for up to 128 bytes of the acting A-stream or sequencer, translated with `w` and granted first:
held inside a replayable region (R36), unless no room is left (R38). -/
def storeVa (q : Req) (va : Nat) (bs : List Byte) : M Unit := do
  let n := bs.length
  let ia ← translate q va n { w := true }
  if q.isCore ∧ ((← get).coreAt q.ag).inRegion then
    withVa va ia (walkAll q ia n .write)
    if ((← get).coreAt q.ag).heldRoom n then
      modify fun s => { s.updCore q.ag fun x => { x with held := x.held ++ [.store s.issued ia bs] } with issued := s.issued + 1 }
      return
    flushRegion q.ag
  else if q.isCore then resumeFlush q.ag
  let x := (← get).coreAt q.ag
  let once := decide (va % n = 0)
  let no := (← get).issued
  if !q.isCore || ((x.stashWin? va).isNone && (x.stashWin? (va + n - 1)).isNone) then
    storeGranted q no once (← grantAll q va ia n .write) bs
  else
    -- every part is translated and granted before any is written (R213, R227)
    (lineParts va n).forM fun p => do
      let ia ← storePart q p.1 p.2
      withVa p.1 ia (walkAll q ia p.2 .write)
    whole ((lineParts va n).forM fun p => do
      let ia ← storePart q p.1 p.2
      let _ ← grantAll q p.1 ia p.2 .write)
    (lineParts va n).forM fun p => do
      let part := (bs.drop (p.1 - va)).take p.2
      match ((← get).coreAt q.ag).stashWin? p.1 with
      | some w => stashStore q once w p.1 part
      | none =>
        let ia ← translate q p.1 p.2 { w := true }
        storeGranted q no once (← grantAll q p.1 ia p.2 .write) part

/-- new of R253 for op code o (Table 2.4) on w-bit values, with the expected value e of `cas`, and its events. -/
def amoNew (o w old x e : Nat) : Nat × Evs :=
  match o with
  | 0 => ((old + x) % 2 ^ w, {})
  | 1 => (old &&& x, {})
  | 2 => (old ||| x, {})
  | 3 => (old ^^^ x, {})
  | 4 => (if (BitVec.ofNat w x).toInt < (BitVec.ofNat w old).toInt then x else old, {})
  | 5 => (if (BitVec.ofNat w old).toInt < (BitVec.ofNat w x).toInt then x else old, {})
  | 6 => (min old x, {})
  | 7 => (max old x, {})
  | 8 => (x, {})
  | 9 => (if old = e then x else old, {})
  | 10 => let r := fAdd fp32 0 0 old x; (r.bits, r.evs)
  | 11 => (minMax fp32 true old x, {})
  | _ => (minMax fp32 false old x, {})

/-- The atomic crosses the limit of the peer window that holds it (R369). -/
def State.peerCrosses (s : State) (ctx ia n : Nat) : Bool :=
  match s.peerWin? ctx ia with
  | none => false
  | some m => decide (bf (s.sr ctx (401 + 4 * m)) 47 12 * 4096 < ia + n)

/-- An atomic at an intermediate address that has been translated (R253, R263, R279): the old value. -/
def atomicAt (q : Req) (va ia o w : Nat) (x e : Nat) : M (Nat × Evs) := do
  let n := w / 8
  if ia / 65536 ≠ (ia + n - 1) / 65536 ∨ (← get).peerCrosses q.ctx ia n then
    fail { code := 0x08, va := some va, ia := some ia }
  let ps ← grantAll q va ia n .write
  match ps with
  | (.peer m, _) :: _ =>
    -- carried whole, across 4 KiB too: the peer makes the new value, and answers the old one (R369)
    settleBefore q (decide ((← get).ordOf q.ctx (.peer m) = 0)) ia n
    modify fun s => { s.toPeer q m ia (.amo o w (BitVec.ofNat 64 x) (BitVec.ofNat 64 e)) with
      remote := s.remote ++ [⟨q.ag, true⟩], lastMem := s.dtime }
    let f ← takeFresh
    let old := (Config.freeWord f).toNat % 2 ^ w
    pure (old, (amoNew o w old x e).2)
  | _ =>
    let old := leNat (← readAll q ps)
    let r := amoNew o w old x e
    writeAll q ps (leBytes n r.1)
    pure (old, r.2)

/-- An atomic of the acting stream (R252, R253, R266): op code o, width w, order bits, scope. -/
def amoM (o w : Nat) (acq rel : Bool) (sc d a b : Nat) : M Unit := do
  let s ← get
  let q := s.req
  let va := (s.rdS a).toNat
  if va % 4 ≠ 0 then fail { code := 0x05, va := some (va % 2 ^ 56) }
  let ia ← translate q va (w / 8) { r := true, w := true }
  if ia / 65536 ≠ (ia + w / 8 - 1) / 65536 then fail { code := 0x08, va := some va, ia := some ia }
  match s.aCore? with
  | some c => irrevocable c
  | none => pure ()
  let o' := (← get).ordAt q.ctx ia
  if rel ∧ o' ≤ 1 then release q sc
  else if o' ≤ 1 ∧ (← get).marked q.ag then settleSR q.ag
  let s ← get
  let r ← atomicAt q va ia o w ((s.rdS b).toNat % 2 ^ w) ((s.rdS d).toNat % 2 ^ w)
  countM r.2
  modify fun s => s.wrS d (BitVec.ofNat 64 r.1)
  if acq ∧ o' ≤ 1 then acquire q sc

end Sys2Proof.Machine
end

