-- ==== Sys2Proof/Machine/Lanes.lean ====
section
/-! DEFINITION. What the vector-slot operations compute: element and lane functions, packed forms, compares,
conversions, reductions, cross-lane moves and bit fields (R111 to R130). -/

namespace Sys2Proof.Machine

/-- A lane's result: its value, the generator after it, and its events. -/
structure LaneRes where
  val : Nat
  gen : Lane
  evs : Evs := {}
  deriving DecidableEq, Repr

/-- An FP32 lane through one element function that takes a draw value (R82, R111). -/
def laneOf (rm : Nat) (g : Lane) (f : Nat → Res) : LaneRes :=
  let r := f (drawOf g)
  ⟨r.bits, genAfter rm r g, r.evs⟩

/-- The sum of the events of a list. -/
def sumEvs (l : List Evs) : Evs := l.foldl Evs.add {}

/-- Two packed 16-bit elements (R115): element 0 draws first. -/
def lane2 (rm : Nat) (g : Lane) (f : Nat → Nat → Nat → Nat → Res) (d a b : Nat) : LaneRes :=
  let r0 := f (drawOf g) (d % 65536) (a % 65536) (b % 65536)
  let g1 := genAfter rm r0 g
  let r1 := f (drawOf g1) (d / 65536 % 65536) (a / 65536 % 65536) (b / 65536 % 65536)
  ⟨r0.bits + 65536 * r1.bits, genAfter rm r1 g1, r0.evs.add r1.evs⟩

/-- The element width of a width code (R53). -/
def iwBits (iw : Nat) : Nat := if iw = 0 then 32 else if iw = 1 then 16 else 8

/-- A w-bit element read as signed. -/
def toS (w x : Nat) : Int := if x.testBit (w - 1) then (x : Int) - ((2 ^ w : Nat) : Int) else x

/-- An integer op on the packed elements of a lane (R116): the function answers an element and its saturation count. -/
def packed (w n : Nat) (f : Nat → Nat → Nat × Nat) (a b : Nat) : Nat → Nat × Nat
  | 0 => (0, 0)
  | k + 1 =>
    let j := n - (k + 1)
    let r := f (a / 2 ^ (w * j) % 2 ^ w) (b / 2 ^ (w * j) % 2 ^ w)
    let t := packed w n f a b k
    (r.1 * 2 ^ (w * j) + t.1, r.2 + t.2)

/-- The literal n in every element of width w (R116). -/
def litPacked (w n : Nat) : Nat :=
  let e := twos w (if 32 ≤ n then (n : Int) - 64 else n)
  if w = 32 then e else if w = 16 then e * 0x10001 else e * 0x1010101

/-- A result without saturation. -/
def plain (x : Nat) : Nat × Nat := (x, 0)

/-- A signed result clamped to w bits (Table 5.3). -/
def clampS (w : Nat) (i : Int) : Nat × Nat :=
  let hi : Int := (2 ^ (w - 1) : Nat) - 1
  let lo : Int := -(2 ^ (w - 1) : Nat)
  if hi < i then (twos w hi, 1) else if i < lo then (twos w lo, 1) else (twos w i, 0)

/-- An unsigned result clamped to w bits (Table 5.3). -/
def clampU (w : Nat) (i : Int) : Nat × Nat :=
  if i < 0 then (0, 1) else if ((2 ^ w : Nat) : Int) ≤ i then (2 ^ w - 1, 1) else (i.toNat, 0)

def elAdd (w x y : Nat) : Nat × Nat := plain ((x + y) % 2 ^ w)
def elSub (w x y : Nat) : Nat × Nat := plain ((x + 2 ^ w - y) % 2 ^ w)
def elMul (w x y : Nat) : Nat × Nat := plain (x * y % 2 ^ w)
def elMulh (w x y : Nat) : Nat × Nat := plain (twos w (toS w x * toS w y / ((2 ^ w : Nat) : Int)))
def elMulhu (w x y : Nat) : Nat × Nat := plain (x * y / 2 ^ w)
def elAnd (_ x y : Nat) : Nat × Nat := plain (x &&& y)
def elOr (_ x y : Nat) : Nat × Nat := plain (x ||| y)
def elXor (_ x y : Nat) : Nat × Nat := plain (x ^^^ y)
def elAndn (w x y : Nat) : Nat × Nat := plain (x &&& (2 ^ w - 1 - y))
def elSll (w x y : Nat) : Nat × Nat := plain (x * 2 ^ (y % w) % 2 ^ w)
def elSrl (w x y : Nat) : Nat × Nat := plain (x / 2 ^ (y % w))
def elSra (w x y : Nat) : Nat × Nat := plain (twos w (toS w x / ((2 ^ (y % w) : Nat) : Int)))
def elMin (w x y : Nat) : Nat × Nat := plain (if toS w x < toS w y then x else y)
def elMax (w x y : Nat) : Nat × Nat := plain (if toS w x < toS w y then y else x)
def elMinu (_ x y : Nat) : Nat × Nat := plain (min x y)
def elMaxu (_ x y : Nat) : Nat × Nat := plain (max x y)
def elAdds (w x y : Nat) : Nat × Nat := clampS w (toS w x + toS w y)
def elAddus (w x y : Nat) : Nat × Nat := clampU w ((x : Int) + y)
def elSubs (w x y : Nat) : Nat × Nat := clampS w (toS w x - toS w y)
def elSubus (w x y : Nat) : Nat × Nat := clampU w ((x : Int) - y)
/-- `iabs`: |sx| clamped to 2^(w-1) - 1. -/
def elAbs (w x _y : Nat) : Nat × Nat := clampS w ((toS w x).natAbs : Int)

/-- An integer op on a lane. -/
def intLane (iw : Nat) (f : Nat → Nat → Nat → Nat × Nat) (g : Lane) (a b : Nat) : LaneRes :=
  let w := iwBits iw
  let r := packed w (32 / w) (f w) a b (32 / w)
  ⟨r.1, g, { sat := r.2 }⟩

/-- FP32 a below b, for operands that are not NaN; -0 equals +0 (R117). -/
def fLess (x y : Nat) : Bool :=
  let key (b : Nat) : Int := signedInt (fp32.neg b) (fp32.magBits b)
  decide (key x < key y)

/-- FP32 a = b for operands that are not NaN (R117). -/
def fEqual (x y : Nat) : Bool := decide (x = y) || (decide (fp32.magBits x = 0) && decide (fp32.magBits y = 0))

/-- The compare of R117. -/
def fCompare (cc x y : Nat) : Bool :=
  let nan := decide (fp32.val x = .nan) || decide (fp32.val y = .nan)
  match cc with
  | 0 => !nan && fEqual x y
  | 1 => nan || !fEqual x y
  | 2 => !nan && fLess x y
  | 3 => !nan && (fLess x y || fEqual x y)
  | 4 => !nan && fLess y x
  | 5 => !nan && (fLess y x || fEqual x y)
  | 6 => nan
  | _ => !nan

/-- The compare of R118. -/
def iCompare (cc x y : Nat) : Bool :=
  let sx := toS 32 x
  let sy := toS 32 y
  match cc with
  | 0 => decide (x = y)
  | 1 => decide (x ≠ y)
  | 2 => decide (sx < sy)
  | 3 => decide (sx ≤ sy)
  | 4 => decide (sy < sx)
  | 5 => decide (sy ≤ sx)
  | 6 => decide (x < y)
  | 7 => decide (x ≤ y)
  | 8 => decide (y < x)
  | _ => decide (y ≤ x)

/-- How a conversion result fills a lane (R122): floats and unsigned integers zero-extended, signed ones sign-extended. -/
def placeElem (dst : EFmt) (bits : Nat) : Nat :=
  match dst with
  | .flt _ => bits
  | .int f => if f.signed then twos 32 (toS f.width bits) else bits
  | .mxint => twos 32 (toS 8 bits)

/-- `cvt` between formats src and dst (R121, R122). -/
def cvtLane (src dst : EFmt) (e4nan : Bool) (rm : Nat) (g : Lane) (a : Nat) : LaneRes :=
  let x := a % 2 ^ src.width
  let r : Res := if src = .flt fp32 ∧ dst = .flt fp32 then ⟨if fp32.val x = .nan then 0x7FC00000 else x, {}, false⟩
    else cvtElem src dst e4nan rm (drawOf g) x
  ⟨placeElem dst r.bits, genAfter rm r g, r.evs⟩

/-- The lane values that a quantisation group sees: guard-false lanes enter as +0 (R123), subnormals flushed (R74). -/
def quantIn (x : Nat) (guard : Bool) : Val × Evs :=
  if guard then flushSub (fp32.val x, fp32.isSub x) else (.zero false, {})

/-- `mxdq` (R124): the FP32 value of an MX element under scale byte e. -/
def mxdqLane (code : Nat) (g : Lane) (a b : Nat) : LaneRes :=
  let el := mxElem code
  let e := b % 256
  let sh : Int := if code = 0x15 then (e : Int) - 133 else (e : Int) - 127
  if e = 255 then ⟨0x7FC00000, g, {}⟩ else
  match el.val (a % 2 ^ el.width) with
  | .nan => ⟨0x7FC00000, g, {}⟩
  | .inf s => ⟨fp32.signed s fp32.infBits, g, {}⟩
  | .zero s => ⟨fp32.signed s 0, g, {}⟩
  | .fin s n x =>
    let r := roundF (.ratio n 1 (x + sh)) s fp32 0 0
    if fp32.maxBits < r.1 then ⟨fp32.signed s fp32.infBits, g, { ovf := 1 }⟩ else ⟨fp32.signed s r.1, g, {}⟩

/-- `tsdq` (R126): one rounding of the product of an E4M3 element and an FP32 scale. -/
def tsdqLane (g : Lane) (a b : Nat) : LaneRes :=
  let p := (e4m3.val (a % 256)).mul (fp32.val b)
  let r := arith p.1 p.2 fp32 0 0
  ⟨r.bits, g, r.evs⟩

/-- `tsq.tsf8w` (R125): an unusable scale gives NaN and counts invalid. -/
def tsqwLane (e4nan : Bool) (rm : Nat) (g : Lane) (a b : Nat) : LaneRes :=
  match fp32.val b, fp32.isSub b with
  | .fin false n e, false =>
    let r := cvt (fp32.val a) (fp32.isSub a) (.flt fp32) (.flt e4m3) ⟨0, 0, 0⟩ (n, e) e4nan rm (drawOf g)
    ⟨r.bits, genAfter rm r g, r.evs⟩
  | _, _ => ⟨0x7F, if rm = 4 then xorshift g else g, { inv := 1 }⟩

/-- tree of R85: pairs of neighbours, level by level; k levels. -/
def treeRed (op : Nat → Nat → Nat × Evs) : Nat → List Nat → Evs → Nat × Evs
  | 0, l, ev => (l.headD 0, ev)
  | k + 1, l, ev =>
    let rec pairs : List Nat → List Nat × Evs
      | x :: y :: t => let r := op x y; let q := pairs t; (r.1 :: q.1, r.2.add q.2)
      | [x] => ([x], {})
      | [] => ([], {})
    let p := pairs l
    treeRed op k p.1 (ev.add p.2)

/-- The node of a reduction (R127, R128): 0 `fredsum` under rm, 1 and 2 the FP extremes, 3 the wrapped sum, then the integer extremes. -/
def redNode (kind rm : Nat) (x y : Nat) : Nat × Evs :=
  match kind with
  | 0 => let r := fAdd fp32 rm 0 x y; (r.bits, r.evs)
  | 1 => (minMax fp32 true x y, {})
  | 2 => (minMax fp32 false x y, {})
  | 3 => ((x + y) % 2 ^ 32, {})
  | 4 => ((elMax 32 x y).1, {})
  | 5 => ((elMin 32 x y).1, {})
  | 6 => (max x y, {})
  | _ => (min x y, {})

/-- The identity that a guard-false lane enters (R85). -/
def redIdentity (kind : Nat) : Nat :=
  match kind with
  | 0 => 0x80000000
  | 1 => 0xFF800000
  | 2 => 0x7F800000
  | 3 => 0
  | 4 => 0x80000000
  | 5 => 0x7FFFFFFF
  | 6 => 0
  | _ => 0xFFFFFFFF

/-- A cross-lane move (Table 5.4): the value of lane offset i of a span of n, from the source lanes A and B (by
offset) and r, the lane's b value. -/
def crossLane (op n i r : Nat) (A B : Nat → Nat) : Nat :=
  match op with
  | 0 => A (r % n)                              -- vperm
  | 1 => A (r % n)                              -- vbcast
  | 2 => A (((i : Int) - r) % (n : Int)).toNat  -- vrot
  | 3 => if r ≤ i then A (i - r) else 0         -- vshl
  | 4 => if i + r < n then A (i + r) else 0     -- vshr
  | 5 => if i % 2 = 0 then A (i / 2) else B ((i - 1) / 2)   -- vzip
  | _ => if 2 * i < n then A (2 * i) else B (2 * i - n)     -- vunzip

/-- The positions among 0 … n - 1 where p holds, in rising order. -/
def setPositions (n : Nat) (p : Nat → Bool) : List Nat := (List.range n).filter p

/-- `vbfx` (R130). -/
def vbfxVal (st a b : Nat) : Nat := a / 2 ^ st % 2 ^ (min (b % 64) 32)

/-- `vbfx.s` (R130). -/
def vbfxsVal (st a b : Nat) : Nat :=
  let w := min (b % 64) 32
  if w = 0 then 0 else twos 32 (toS w (a / 2 ^ st % 2 ^ w))

/-- `vfsh` (R130). -/
def vfshVal (st a b : Nat) : Nat := (a * 2 ^ 32 + b) / 2 ^ st % 2 ^ 32

end Sys2Proof.Machine
end

