-- ==== Sys2Proof/Machine/Matrix.lean ====
section
/-! DEFINITION. The matrix engine: elements packed in bytes (R71), panels (R149), the group
accumulation of an MMA (R86, R154, R156), and what each command of the queue does when it reaches the head
(R156 to R162). -/

namespace Sys2Proof.Machine

/-- Element i of width w packed from the byte function's first byte (R71). -/
def packedElem (w : Nat) (by_ : Nat → Byte) (i : Nat) : Nat :=
  if w = 4 then (by_ (i / 2)).toNat / 16 ^ (i % 2) % 16
  else if w = 6 then
    let g := 3 * (i / 4)
    leNat [by_ g, by_ (g + 1), by_ (g + 2)] / 64 ^ (i % 4) % 64
  else leNat ((List.range (w / 8)).map fun j => by_ (w / 8 * i + j))

/-- The bytes of packed elements of width w (R71): byte j, from the element function. -/
def packByte (w : Nat) (el : Nat → Nat) (j : Nat) : Byte :=
  if w = 4 then BitVec.ofNat 8 (el (2 * j) % 16 + 16 * (el (2 * j + 1) % 16))
  else if w = 6 then
    let g := 4 * (j / 3)
    let x := el g % 64 + 64 * (el (g + 1) % 64) + 4096 * (el (g + 2) % 64) + 262144 * (el (g + 3) % 64)
    BitVec.ofNat 8 (x / 256 ^ (j % 3))
  else BitVec.ofNat 8 (el (j / (w / 8)) / 256 ^ (j % (w / 8)))

/-- Bytes of n packed elements. -/
def packLen (w n : Nat) : Nat := (w * n + 7) / 8

/-- The shape of an MMA (R154): operation 0 `mma`, 1 `mma.ts`, 2 `mma.mx`. -/
structure MShape where
  elem : EFmt
  k : Nat
  g : Nat
  deriving DecidableEq, Repr

def mShape (op fmt : Nat) : MShape :=
  let el := if op = 1 then .flt e4m3 else if op = 2 then mxElem fmt else (elemFmt fmt).getD (.flt e4m3)
  let k := if op = 1 then 128 else
    if el.width = 16 then 32 else if el.width = 8 then 64 else if el.width = 6 then 128 else 256
  ⟨el, k, if op = 1 then 128 else 32⟩

/-- Bytes of a B column, which are also the panel's line count (R154). -/
def MShape.colBytes (m : MShape) : Nat := m.k * m.elem.width / 8

/-- A byte of the weight buffer; panel addresses wrap (R149). -/
def Matrix.wb (m : Matrix) (a : Nat) : Byte := m.wbuf.get 0 (a % 1048576)

/-- Size code of line j of the panel at granule w. -/
def Matrix.panelCode (m : Matrix) (w j : Nat) : Nat := (m.wb (32 * w + j / 4)).toNat / 4 ^ (j % 4) % 4

/-- Where line j of the panel at granule w starts. -/
def Matrix.panelStart (m : Matrix) (w j : Nat) : Nat := zelStart (m.panelCode w) (32 * (w + 1)) j

/-- Byte i of the expanded image of the panel at granule w. -/
def Matrix.panelByte (m : Matrix) (w i : Nat) : Byte :=
  zelByte m.wb (m.panelStart w (i / 128)) (m.panelCode w (i / 128)) (i % 128)

/-- The address of the failing byte for which byte i of the expanded image of the panel at granule w is replaced: in its line's
bitmap, or its own payload byte, where its line carries one (R166). An error of the directory granule has no such
effect: the model's choice, for R166 does not name that granule (log entry 102). -/
def Matrix.panelBad? (m : Matrix) (w i : Nat) : Option Nat :=
  if m.wbBad = [] then none else
  let bad (a : Nat) : Option Nat := if m.wbBad.get false (a % 1048576) then some (a % 1048576) else none
  let c := m.panelCode w (i / 128)
  let st := m.panelStart w (i / 128)
  let j := i % 128
  if c = 0 then bad (st + j)
  else match (List.range 16).findSome? fun b => bad (st + b) with
    | some a => some a
    | none =>
      let on (j : Nat) : Bool := (m.wb (st + j / 8)).toNat.testBit (j % 8)
      let rank := ((List.range j).filter on).length
      if on j ∧ 16 + rank < 32 * c then bad (st + 16 + rank) else none

/-- A byte that element k of width wd has a bit in fails the test. -/
def elemBad (wd k : Nat) (bad : Nat → Bool) : Bool :=
  (List.range ((wd * k + wd - 1) / 8 + 1 - wd * k / 8)).any fun j => bad (wd * k / 8 + j)

/-- What the test finds first among the bytes that element k of width wd has a bit in. -/
def elemBad? {α : Type} (wd k : Nat) (bad : Nat → Option α) : Option α :=
  (List.range ((wd * k + wd - 1) / 8 + 1 - wd * k / 8)).findSome? fun j => bad (wd * k / 8 + j)

/-- A value scaled by 2^x. -/
def Val.scale (x : Int) : Val → Val
  | .fin s n e => .fin s n (e + x)
  | v => v

/-- A sum of products with its invalid mark (R86). -/
def sumProducts : List (Val × Bool) → Val × Bool
  | [] => (.zero true, false)
  | p :: ps =>
    let r := sumProducts ps
    let s := p.1.add 0 r.1
    (s.1, p.2 || r.2 || s.2)

/-- At most one of each event (R156). -/
def Evs.cap (e : Evs) : Evs :=
  { inv := min e.inv 1, ovf := min e.ovf 1, sat := min e.sat 1, unf := min e.unf 1, inx := min e.inx 1, zsub := e.zsub }

/-- The scale factor of a group: a power of two (MX), an FP32 pattern for each operand (TSF8), or none. -/
inductive GScale where
  | one
  | pow (x : Int)
  | nan
  | ts (sa sb : Nat)
  deriving DecidableEq, Repr

/-- The update of an accumulator word by one group (R86). -/
def accUpdate (acc : Nat) (ps : List (Val × Bool)) (sc : GScale) : Nat × Evs :=
  let s := match sc with
    | .nan => (Val.nan, false)
    | _ => sumProducts ps
  let r := arith s.1 s.2 fp32 0 0
  let t : Nat × Evs := match sc with
    | .one => (r.bits, r.evs)
    | .nan => (r.bits, r.evs)
    | .pow x => let q := arith ((fp32.val r.bits).scale x) false fp32 0 0; (q.bits, r.evs.add q.evs)
    | .ts a b =>
      let m := fMul fp32 0 0 a b
      let q := fMul fp32 0 0 r.bits m.bits
      (q.bits, (r.evs.add m.evs).add q.evs)
  let f := fAdd fp32 0 0 acc t.1
  let ev := (t.2.add f.evs).cap
  -- a NaN among the operands: no invalid counts (R90)
  let nan := ps.any (fun p => decide (p.1 = .nan) && !p.2) || decide (fp32.val acc = .nan) ||
    (match sc with
     | .nan => true
     | .ts a b => decide (fp32.val a = .nan) || decide (fp32.val b = .nan)
     | _ => false)
  (f.bits, if nan then { ev with inv := 0 } else ev)

/-- The source and place in Table 6.6 of a mark of a tile or its scale area: byte j of row i of tile t, or where the `tld` that
wrote it met the error in the scratchpad. -/
def markPlace (t i j x : Nat) : Option (Nat × Nat) :=
  if x = 0 then none else if x = 1 then some (0, t + 16 * i + 1024 * j) else some (4, x - 2)

/-- A mark among the scale bytes of group g of row i of tile t (R166): its place in Table 6.6. -/
def Matrix.scaleBadA? (m : Matrix) (op h k t i g : Nat) : Option (Nat × Nat) :=
  let at_ (j : Nat) : Option (Nat × Nat) := markPlace t i j (m.tscBad.get 0 (1024 * t + 16 * i + j))
  if op = 0 then none
  else if op = 1 then (List.range 4).findSome? at_
  else at_ (h * k / 32 + g)

/-- The place in Table 6.6 of a byte of the weight buffer. -/
def wbPlace (a : Nat) : Nat × Nat := (1, a / 32 + 32768 * (a % 32))

/-- A mark among the scale bytes of group g of column n, of the scales that start at `base` in the weight buffer (R166). -/
def Matrix.scaleBadB? (m : Matrix) (op base n g : Nat) : Option (Nat × Nat) :=
  if op = 0 ∨ m.wbBad = [] then none else
  let at_ (a : Nat) : Option (Nat × Nat) := if m.wbBad.get false (a % 1048576) then some (wbPlace (a % 1048576)) else none
  if op = 1 then (List.range 4).findSome? fun j => at_ (base + j) else at_ (base + 128 * g + n)

/-- Where an error stands for which element k of row i of half h of tile t is replaced by +0 (R166). -/
def Matrix.zeroA? (m : Matrix) (op fmt h t i k : Nat) : Option (Nat × Nat) :=
  if m.tileBad = [] ∧ m.tscBad = [] then none else
  let sh := mShape op fmt
  match elemBad? sh.elem.width (h * sh.k + k) fun j => markPlace t i j (m.tileBad.get 0 (8192 * t + 128 * i + j)) with
  | some p => some p
  | none => m.scaleBadA? op h sh.k t i (k / sh.g)

/-- Where an error stands for which element k of column n of the panel at granule w is replaced by +0 (R166). -/
def Matrix.zeroB? (m : Matrix) (op fmt w n k : Nat) : Option (Nat × Nat) :=
  if m.wbBad = [] then none else
  let sh := mShape op fmt
  match elemBad? sh.elem.width k fun j => (m.panelBad? w (n * sh.colBytes + j)).map wbPlace with
  | some p => some p
  | none => m.scaleBadB? op (m.panelStart w sh.colBytes) n (k / sh.g)

def Matrix.zeroA (m : Matrix) (op fmt h t i k : Nat) : Bool := (m.zeroA? op fmt h t i k).isSome
def Matrix.zeroB (m : Matrix) (op fmt w n k : Nat) : Bool := (m.zeroB? op fmt w n k).isSome

/-- The accumulator word at place e as a reader sees it (R166). -/
def Matrix.accWord (m : Matrix) (e : Nat) : Nat := if m.accBad.get false e then 0 else (m.acc.get 0 e).toNat

/-- The accumulator words among n from place lo that are replaced by +0, as Table 6.6 names them (R166, R167). -/
def Matrix.accZeros (m : Matrix) (lo n : Nat) : List (Nat × Nat) :=
  ((List.range n).filter fun i => m.accBad.get false (lo + i)).map fun i => (2, (lo + i) / 512 + 128 * ((lo + i) % 512))

/-- What an MMA replaces by +0 (R166, R167), each with the place of its error: elements of the tile, of the panel, and
accumulator words. -/
def Matrix.zeros (m : Matrix) (op fmt h t bank w : Nat) : List (Nat × Nat) :=
  let sh := mShape op fmt
  ((List.range 64).flatMap fun i => (List.range sh.k).filterMap fun k => m.zeroA? op fmt h t i k) ++
  ((List.range 128).flatMap fun n => (List.range sh.k).filterMap fun k => m.zeroB? op fmt w n k) ++
  m.accZeros (512 * bank) 8192

/-- The scale of group g of element (i, n) (R156). A scale with an uncorrectable error, whose elements are +0, stands for 1 (R166). -/
def Matrix.groupScale (m : Matrix) (op fmt h t w i n g : Nat) : GScale :=
  let sh := mShape op fmt
  if op = 0 then .one
  else
    let base := m.panelStart w sh.colBytes
    let badA := (m.scaleBadA? op h sh.k t i g).isSome
    let badB := (m.scaleBadB? op base n g).isSome
    if op = 1 then
      .ts (if badA then 0x3F800000 else leNat (m.tsc.bytes (1024 * t + 16 * i) 4))
        (if badB then 0x3F800000 else leNat ((List.range 4).map fun j => m.wb (base + j)))
    else
      let a := if badA then 127 else (m.tsc.get 0 (1024 * t + 16 * i + h * sh.k / 32 + g)).toNat
      let b := if badB then 127 else (m.wb (base + 128 * g + n)).toNat
      if a = 255 ∨ b = 255 then .nan
      else
        let u : Int := if fmt = 0x15 then 12 else 0
        .pow ((a : Int) - 127 + ((b : Int) - 127) - u)

/-- One accumulator word after an MMA (R156): element e = 128i + n. -/
def Matrix.mmaElem (m : Matrix) (op fmt h t bank w e : Nat) : Nat × Evs :=
  let sh := mShape op fmt
  let i := e / 128
  let n := e % 128
  let wd := sh.elem.width
  let a (k : Nat) : Val := if m.zeroA op fmt h t i k then .zero false
    else sh.elem.val (packedElem wd (fun j => m.tile.get 0 (8192 * t + 128 * i + j)) (h * sh.k + k))
  let b (k : Nat) : Val := if m.zeroB op fmt w n k then .zero false
    else sh.elem.val (packedElem wd (fun j => m.panelByte w (n * sh.colBytes + j)) k)
  (List.range (sh.k / sh.g)).foldl (fun (acc : Nat × Evs) g =>
    let r := accUpdate acc.1 ((List.range sh.g).map fun j => (a (g * sh.g + j)).mul (b (g * sh.g + j)))
      (m.groupScale op fmt h t w i n g)
    (r.1, acc.2.add r.2)) (m.accWord (512 * bank + e), {})

/-- The state of tile t. -/
def Matrix.tileSt (m : Matrix) (t : Nat) : TileSt := m.tst.get .empty t

def Matrix.setTile (m : Matrix) (t : Nat) (x : TileSt) : Matrix := { m with tst := m.tst.set .empty t x }

/-- The mark of a byte that a `tld` reads from scratchpad address a (R166). -/
def Core.tldMark (c : Core) (a : Nat) : Nat := if c.ecc.spad.get false a then a + 2 else 0

/-- The core after the last byte of a `tld` has landed (R148, R157). A byte that a store wrote after the `tld` issued may
have been read before or after it: the free bytes of the n-th use choose. -/
def Core.landTile (c : Core) (n t : Nat) : Core :=
  match c.mx.tileSt t with
  | .loading img sc =>
    let m := c.mx
    let again (i : Nat) : Bool := (Config.freeByte n i).getLsbD 0
    let f (k : Nat) : Byte := if again (k - 8192 * t) then c.spadByte (img + (k - 8192 * t)) else m.tile.get 0 k
    let g (k : Nat) : Nat := if again (k - 8192 * t) then c.tldMark (img + (k - 8192 * t)) else m.tileBad.get 0 k
    let m := { m with tile := m.tile.splice 0 (8192 * t) 8192 f, tileBad := m.tileBad.splice 0 (8192 * t) 8192 g }
    let m := match sc with
      | some a =>
        let f (k : Nat) : Byte := if again (8192 + (k - 1024 * t)) then c.spadByte (a + (k - 1024 * t)) else m.tsc.get 0 k
        let g (k : Nat) : Nat := if again (8192 + (k - 1024 * t)) then c.tldMark (a + (k - 1024 * t)) else m.tscBad.get 0 k
        { m with tsc := m.tsc.splice 0 (1024 * t) 1024 f, tscBad := m.tscBad.splice 0 (1024 * t) 1024 g }
      | none => m
    { c with mx := m.setTile t .full }
  | _ => c

/-- Tile t of a core becomes full, where a `tld` is loading it. -/
def landTile (core t : Nat) : M Unit := do
  match ((← get).coreAt core).mx.tileSt t with
  | .loading .. =>
    let n ← takeFresh
    modify fun s => s.setCore core ((s.coreAt core).landTile n t)
  | _ => pure ()

/-- The engine after an MMA, and the events it counts. -/
def Matrix.mma (m : Matrix) (op fmt h t bank w : Nat) (fr : Bool) : Matrix × Evs :=
  let word (k : Nat) : Lane := BitVec.ofNat 32 (m.mmaElem op fmt h t bank w (k - 512 * bank)).1
  let m' := { m with
    acc := m.acc.splice 0 (512 * bank) 8192 word
    accBad := m.accBad.splice false (512 * bank) 8192 fun _ => false }
  let ev := (List.range 8192).foldl (fun a e => a.add (m.mmaElem op fmt h t bank w e).2) {}
  (if fr then m'.setTile t .empty else m', ev)

/-- The launch seed of a core's task. -/
def Core.seed (c : Core) : Word := match c.task with | some t => t.lrec.get 0 24 | none => 0

/-- The work identifier of a core's task. -/
def Core.wid (c : Core) : Word := match c.task with | some t => t.wid | none => 0

/-- Generator g of a core's task (R81). -/
def Core.gen (c : Core) (g : Nat) : Lane :=
  let x := c.gens.get 0 g
  if x = 0 then initGen c.seed c.wid g else x

/-- A vector register. -/
def Core.vreg (c : Core) (n : Nat) : Sparse Lane := c.v.get [] n

/-- The lanes that a stream acts on (R109): base and length. -/
def spanOf (st : Strm) : Nat × Nat :=
  match st with
  | .xc c => (256 * c, 256)
  | _ => (0, 1024)

/-- `nmode.e4nan` (Table 3.8). -/
def Core.e4nan (c : Core) : Bool := bit c.nmode 0

/-- `accrd` at the head of the queue (R159): lanes lo to lo + n - 1 receive the converted words of the run at bank b. -/
def Core.accrd (c : Core) (rm fmt d b lo n : Nat) : Core × Evs :=
  let el := (elemFmt fmt).getD (.flt fp32)
  let res (l : Nat) : LaneRes := cvtLane (.flt fp32) el c.e4nan rm (c.gen l) (c.mx.accWord (512 * b + l))
  let ls := (List.range n).map fun i => (lo + i, res (lo + i))
  ({ c with
      v := c.v.set [] d ((c.vreg d).splice 0 lo n fun l => BitVec.ofNat 32 (res l).val)
      ecc := { c.ecc with lane := c.ecc.lane.splice false (1024 * d + lo) n fun _ => false }
      gens := ls.foldl (fun g x => if x.2.gen = c.gen x.1 then g else g.set 0 x.1 x.2.gen) c.gens },
   sumEvs (ls.map fun x => x.2.evs))

/-- The command at the head of a core's matrix queue takes effect, if it can (R156 to R162). `want`: 0 an MMA, 1 a
`tfree`, 2 an `accrd`, 3 an `acczero`. -/
def State.mqHead (s : State) (core want : Nat) : State :=
  let c := s.coreAt core
  let m := c.mx
  match m.mq, want with
  | .mma op fmt h t bank w fr hdl :: rest, 0 =>
    if m.tileSt t ≠ .full then s else
    let r := m.mma op fmt h t bank w fr
    let s := s.setCore core { c with mx := { r.1 with mq := rest } }
    let st := if hdl = 0 then 1 else 0
    (s.countEvs core (s.coreCtx core) st hdl r.2).substitute core (s.coreCtx core) st hdl (m.zeros op fmt h t bank w)
  | .tfree t :: rest, 1 =>
    if m.tileSt t ≠ .full then s else s.setCore core { c with mx := { m.setTile t .empty with mq := rest } }
  | .accrd rm fmt d bank cl :: rest, 2 =>
    let sp := if cl = 0 then (0, 1024) else (256 * (cl - 1), 256)
    let c := { c with mx := { m with mq := rest } }
    let r := c.accrd rm fmt d bank sp.1 sp.2
    let st := if cl = 0 then 1 else 1 + cl
    ((s.setCore core r.1).countEvs core (s.coreCtx core) st 0 r.2).substitute core (s.coreCtx core) st 0
      (m.accZeros (512 * bank + sp.1) sp.2)
  | .acczero bank n :: rest, 3 =>
    s.setCore core { c with mx := { m with
      acc := m.acc.splice 0 (512 * bank) (512 * n) (fun _ => 0)
      accBad := m.accBad.splice false (512 * bank) (512 * n) (fun _ => false)
      mq := rest } }
  | _, _ => s

end Sys2Proof.Machine
end

