-- ==== Sys2Proof/Machine/Copy.lean ====
section
/-! DEFINITION. The copy engine: layout records and their checks (R233 to R243, R246, R247), the elements of a window
(R235 to R241), conversion (R88), and what a command does when it runs (R244 to R251). -/

namespace Sys2Proof.Machine

/-- A layout record: its twelve words (R233, Table 9.2). -/
abbrev Layout := List Word

def rw (r : Layout) (i : Nat) : Word := r.getD i 0
def rSpace (r : Layout) : Nat := bf (rw r 0) 63 56
def rBase (r : Layout) : Nat := bf (rw r 0) 55 0
def rFval (r : Layout) : Nat := bf (rw r 1) 63 32
def rAtag (r : Layout) : Nat := bf (rw r 1) 31 28
def rChk (r : Layout) : Bool := bit (rw r 1) 26
def rRel (r : Layout) : Bool := bit (rw r 1) 25
def rAcq (r : Layout) : Bool := bit (rw r 1) 24
def rFill (r : Layout) : Nat := bf (rw r 1) 23 22
def rIlv (r : Layout) : Nat := bf (rw r 1) 17 15
def rBank (r : Layout) : Nat := bf (rw r 1) 14 10
/-- The number of dimensions. -/
def rRank (r : Layout) : Nat := bf (rw r 1) 9 7 + 1
def rFmt (r : Layout) : Nat := bf (rw r 1) 5 0
def rExt (r : Layout) (d : Nat) : Nat :=
  if d = 4 then bf (rw r 4) 31 0
  else if d % 2 = 0 then bf (rw r (2 + d / 2)) 31 0 else bf (rw r (2 + d / 2)) 63 32
def rWin (r : Layout) (d : Nat) : Nat :=
  if d = 0 then bf (rw r 4) 47 32 else if d = 1 then bf (rw r 4) 63 48
  else if d = 2 then bf (rw r 5) 15 0 else if d = 3 then bf (rw r 5) 31 16 else bf (rw r 5) 47 32
def rOrg (r : Layout) (d : Nat) : Int :=
  if d = 4 then toS 16 (bf (rw r 5) 63 48)
  else if d % 2 = 0 then toS 32 (bf (rw r (10 + d / 2)) 31 0) else toS 32 (bf (rw r (10 + d / 2)) 63 32)
/-- Byte stride of dimension d, 1 to 4. -/
def rStr (r : Layout) (d : Nat) : Int := toS 48 (bf (rw r (5 + d)) 47 0)
/-- The scratchpad address of an index list (R246). -/
def rList (r : Layout) : Nat := bf (rw r 10) 63 32

/-- The window in dimension d; 1 beyond the rank. -/
def rSize (r : Layout) (d : Nat) : Nat := if d < rRank r then rWin r d else 1

/-- Elements and rows of a window (R235). -/
def rCount (r : Layout) : Nat := rSize r 0 * rSize r 1 * rSize r 2 * rSize r 3 * rSize r 4
def rRows (r : Layout) : Nat := rSize r 1 * rSize r 2 * rSize r 3 * rSize r 4

/-- i_d of element e of a window (R235). -/
def rIdx (r : Layout) (e d : Nat) : Nat :=
  match d with
  | 0 => e % rSize r 0
  | 1 => e / rSize r 0 % rSize r 1
  | 2 => e / (rSize r 0 * rSize r 1) % rSize r 2
  | 3 => e / (rSize r 0 * rSize r 1 * rSize r 2) % rSize r 3
  | _ => e / (rSize r 0 * rSize r 1 * rSize r 2 * rSize r 3)

/-- What a format code stands for in a record (R69 to R75, R79): a plain element, an MX code, a tile-scaled code, or SIG320. -/
inductive CFmt where
  | plain (e : EFmt)
  | mx (code : Nat)
  | ts (w : Bool)
  | sig
  deriving DecidableEq, Repr

/-- The format of a code of five bits; none where it is reserved (R72). -/
def cFmt (c : Nat) : Option CFmt :=
  match elemFmt c with
  | some e => some (.plain e)
  | none =>
    if isMxFmt c then some (.mx c) else if c = 0x18 then some (.ts false) else if c = 0x19 then some (.ts true)
    else if c = 0x1C then some .sig else none

/-- The code of a record names a zero-elided container (R79). -/
def isCont (c : Nat) : Bool := decide (32 ≤ c)

def cFmtOf (c : Nat) : CFmt := (cFmt (c % 32)).getD (.plain (.flt fp32))

/-- The code is not reserved (R72). -/
def fmtOk (c : Nat) : Bool := (cFmt (c % 32)).isSome

/-- Bits of an element. -/
def CFmt.width : CFmt → Nat
  | .plain e => e.width
  | .mx c => (mxElem c).width
  | .ts _ => 8
  | .sig => 320

/-- The element format behind the code, for conversions. -/
def CFmt.elem : CFmt → EFmt
  | .plain e => e
  | .mx c => mxElem c
  | _ => .flt e4m3

/-- Elements that share a scale (Table 9.3); 0 for none. -/
def CFmt.block : CFmt → Nat
  | .mx _ => 32
  | .ts false => 128
  | .ts true => 16384
  | _ => 0

def CFmt.scaled (f : CFmt) : Bool := decide (f.block ≠ 0)

/-- Bytes of a scale. -/
def CFmt.scaleBytes : CFmt → Nat
  | .mx _ => 1
  | .ts _ => 4
  | _ => 0

/-- Element bytes of a block. -/
def CFmt.blockElemBytes (f : CFmt) : Nat := f.block * f.width / 8

/-- Bytes of a block in global memory (Table 9.3). -/
def CFmt.blockBytes (f : CFmt) : Nat := f.blockElemBytes + f.scaleBytes

/-- Bytes of an element where it fills whole bytes; 1 otherwise. -/
def CFmt.alignBytes (f : CFmt) : Nat := if f.scaled then 1 else if f.width < 8 then 1 else f.width / 8

/-- Where element i of a packed run lies: byte, bytes, and the place within them (R71). -/
def CFmt.unit (f : CFmt) (i : Nat) : Nat × Nat × Nat :=
  if f.width = 4 then (i / 2, 1, i % 2)
  else if f.width = 6 then (3 * (i / 4), 3, i % 4)
  else (f.width / 8 * i, f.width / 8, 0)

/-- Where element x0 of dimension 0 lies in global memory, blocks included (R235, R237). -/
def CFmt.off0 (f : CFmt) (x0 : Nat) : Nat × Nat × Nat :=
  if f.scaled then
    let u := f.unit (x0 % f.block)
    (x0 / f.block * f.blockBytes + u.1, u.2)
  else f.unit x0

/-- Where the scale of element x0 lies. -/
def CFmt.scaleOff (f : CFmt) (x0 : Nat) : Nat := x0 / f.block * f.blockBytes + f.blockElemBytes

/-- Bytes of a row of n elements. -/
def CFmt.rowBytes (f : CFmt) (n : Nat) : Nat := packLen f.width n

/-- Coordinate d of element e; the index list gives dimension 1 in index mode (R235, R246). -/
def rCoord (r : Layout) (list : Option (List Int)) (e d : Nat) : Int :=
  match list, d with
  | some l, 1 => l.getD (rIdx r e 1) 0
  | _, _ => if d < rRank r then rOrg r d + rIdx r e d else 0

/-- Element e leaves the extents in dimension d (R235). -/
def rOut (r : Layout) (list : Option (List Int)) (e d : Nat) : Bool :=
  decide (d < rRank r) && (decide (rCoord r list e d < 0) || decide ((rExt r d : Int) ≤ rCoord r list e d))

def rOutAny (r : Layout) (list : Option (List Int)) (e : Nat) : Bool := (List.range 5).any (rOut r list e)

/-- The coordinate clamped into the extents (R236). -/
def rClamp (r : Layout) (list : Option (List Int)) (e d : Nat) : Int :=
  if d < rRank r then max 0 (min (rCoord r list e d) ((rExt r d : Int) - 1)) else 0

/-- The virtual address with offset o in dimension 0 and coordinates x in the others (R235). -/
def rAddr (r : Layout) (o : Nat) (x : Nat → Int) : Nat :=
  (((rBase r : Int) + o + (List.range 4).foldl (fun a d => a + x (d + 1) * rStr r (d + 1)) 0) % (2 ^ 56 : Int)).toNat

/-- Pitch of a scratchpad end (R238). -/
def rPitch (r : Layout) (f : CFmt) : Int :=
  if rStr r 1 ≠ 0 ∧ 1 < rRank r then rStr r 1 else (((f.rowBytes (rSize r 0) + 3) / 4 * 4 : Nat) : Int)

/-- The bank and byte offset in it of row ρ of a scratchpad end; the offset may be negative before the checks (R238). -/
def rRowAt (base bank ilv : Nat) (pitch : Int) (row : Nat) : Nat × Int :=
  (bank + row % 2 ^ ilv, (base : Int) + (row / 2 ^ ilv : Nat) * pitch)

/-- An end of a command in the scratchpad: its base offset, bank, interleave, pitch, rows, row length in elements. -/
structure SEnd where
  base : Nat
  bank : Nat
  ilv : Nat
  pitch : Int
  rows : Nat
  len : Nat
  deriving DecidableEq, Repr

def SEnd.at (e : SEnd) (row : Nat) : Nat × Int := rRowAt e.base e.bank e.ilv e.pitch row

/-- The scratchpad byte address of a row. -/
def SEnd.addr (e : SEnd) (row : Nat) : Nat := let p := e.at row; 131072 * p.1 + p.2.toNat

/-- Banks that the end touches. -/
def SEnd.banks (e : SEnd) : List Nat := (List.range (min e.rows (2 ^ e.ilv))).map (e.bank + ·)

/-- A scratchpad end of a record, for the bank format f. -/
def rEnd (r : Layout) (f : CFmt) : SEnd := ⟨bf (rw r 0) 16 0, rBank r, rIlv r, rPitch r f, rRows r, rSize r 0⟩

/-- `bfmt`n (R87). -/
def Core.bank (c : Core) (n : Nat) : Word := c.bfmt.get 8 n

/-- The scratchpad limits of a core's task (R28): declared bytes, and the first stash byte. -/
def Core.spadLim (c : Core) : Nat × Nat :=
  match c.task with
  | some t => (t.spadBytes, 3145728 - t.stashBytes)
  | none => (0, 3145728)

/-- R131's checks of n bytes at a scratchpad address: beyond `spad` outside the stash, then in the stash. -/
def Core.spadFault (c : Core) (a n : Nat) : Option FaultInfo :=
  let lim := c.spadLim
  let bad (i : Nat) : Bool := decide (lim.1 ≤ a + i) && (decide (a + i < lim.2) || decide (3145728 ≤ a + i))
  let stash (i : Nat) : Bool := decide (lim.2 ≤ a + i) && decide (a + i < 3145728)
  if n = 0 then none
  else if (List.range n).any bad then some { code := 0x03, det := 5 }
  else if (List.range n).any stash then some { code := 0x05 }
  else none

/-- R131's checks with an alignment: 0x05, 0x03, 0x05. -/
def Core.spadCheck (c : Core) (a n al : Nat) : Option FaultInfo :=
  if a % al ≠ 0 then some { code := 0x05 } else c.spadFault a n

/-- Stops with the fault where there is one. -/
def failWith : Option FaultInfo → M Unit
  | some f => fail f
  | none => pure ()

/-- Raises the layout-record fault where the condition holds (R234). -/
def lay (b : Bool) : M Unit := failIf b { code := 0x09 }

/-- Reserved bits and values of a record (R234). -/
def rReserved (r : Layout) : Bool :=
  decide (4 < rSpace r) || decide (5 < rRank r) || !fmtOk (rFmt r) || bit (rw r 1) 27 || decide (bf (rw r 1) 21 18 ≠ 0) ||
  bit (rw r 1) 6 || (List.range 4).any (fun i => decide (bf (rw r (6 + i)) 63 48 ≠ 0)) ||
  (decide (rSpace r = 1) && decide (bf (rw r 0) 55 17 ≠ 0)) || (decide (rSpace r = 2) && decide (bf (rw r 0) 55 4 ≠ 0)) ||
  (decide (rSpace r = 3) && decide (bf (rw r 0) 55 15 ≠ 0)) || (decide (rSpace r = 4) && decide (bf (rw r 0) 55 8 ≠ 0))

/-- The dimensions of a record (R234): windows and extents within the rank, nothing beyond it. -/
def rDims (r : Layout) (index : Bool) : Bool :=
  (List.range 5).any fun d =>
    if d < rRank r then decide (rWin r d = 0) || (decide (rSpace r = 0) && decide (rExt r d = 0))
    else decide (rExt r d ≠ 0) || decide (rWin r d ≠ 0) || (decide (rOrg r d ≠ 0) && !(index && decide (d = 1))) ||
      (decide (1 ≤ d) && decide (rStr r d ≠ 0))

/-- The window leaves the extents in some dimension; dimension 1 does not count in index mode (R234, R236, R246). -/
def rLeaves (r : Layout) (index : Bool) : Bool :=
  (List.range 5).any fun d => decide (d < rRank r) && !(index && decide (d = 1)) &&
    (decide (rOrg r d < 0) || decide ((rExt r d : Int) < rOrg r d + rWin r d))

/-- Checks of a record in space 0 (R234, R236, R237, R79). DESIGN CHOICE (log entry 114): a SIG320 source with `fill` = 01 is
rejected whether or not its window leaves the extents. -/
def rGlobal (r : Layout) (isDst index : Bool) : Bool :=
  let f := cFmtOf (rFmt r)
  let m : Nat := if f.scaled then f.block else if f.width = 6 then 4 else if f.width = 4 then 2 else 1
  decide (rBase r % f.alignBytes ≠ 0) ||
  (List.range 4).any (fun i => decide (rStr r (i + 1) % f.alignBytes ≠ 0)) ||
  decide (rOrg r 0 % m ≠ 0) || decide (rWin r 0 % m ≠ 0) || (f.scaled && decide (rExt r 0 % m ≠ 0)) ||
  (decide (rFill r = 3) && rLeaves r index) ||
  (isDst && (decide (rFill r = 1) || decide (rFill r = 2))) ||
  (!isDst && f.scaled && rLeaves r index) ||
  (!isDst && decide (f = .sig) && decide (rFill r = 1)) ||
  (isCont (rFmt r) && (decide (rRank r ≠ 1) || (List.range 5).any (fun d => decide (rOrg r d ≠ 0)) ||
    decide (rWin r 0 ≠ rExt r 0)))

/-- Checks of a record in spaces 1 to 4 (R234, R239 to R241, R88). DESIGN CHOICE (log entry 113): TSF8-A and SIG320 are no formats of
a weight-buffer panel. -/
def rLocal (r : Layout) : Bool :=
  let f := cFmtOf (rFmt r)
  (List.range 5).any (fun d => decide (rExt r d ≠ 0) || decide (rOrg r d ≠ 0)) ||
  (List.range 3).any (fun i => decide (rStr r (i + 2) ≠ 0)) || decide (rFill r ≠ 0) || isCont (rFmt r) ||
  (f.scaled && decide (rSpace r ≠ 3) && decide (rWin r 0 % f.block ≠ 0)) ||
  (decide (rSpace r = 2) && (decide (64 < rRows r) || decide (128 < f.rowBytes (rWin r 0)))) ||
  (decide (rSpace r = 3) && (decide (rRank r ≠ 2) || decide (rWin r 1 ≠ 128) || decide (f = .ts false) || decide (f = .sig) ||
    (decide (f = .ts true) && decide (rWin r 0 ≠ 128)) ||
    (f.scaled && decide (f ≠ .ts true) && decide (rWin r 0 % f.block ≠ 0)) ||
    !(decide (rWin r 0 * f.width = 512) || decide (rWin r 0 * f.width = 768) || decide (rWin r 0 * f.width = 1024)))) ||
  (decide (rSpace r = 4) && (decide (rRank r ≠ 1) || decide (rFmt r ≠ 7) || decide (256 < rBase r + rWin r 0)))

/-- The checks of one record for its role (R234, R237, R239 to R242). -/
def rBad (r : Layout) (isDst index single : Bool) (sc : Nat) : Bool :=
  rReserved r || rDims r index || (if rSpace r = 0 then rGlobal r isDst index else rLocal r) ||
  (decide (rSpace r ≠ 1) && !(single && decide (rSpace r = 0)) && (decide (rBank r ≠ 0) || decide (rIlv r ≠ 0))) ||
  (!single && isDst && rAcq r) || (!single && !isDst && (rRel r || rChk r || decide (rAtag r ≠ 0))) ||
  ((single || isDst) && rChk r && !single && !(decide (rSpace r = 1) || decide (rSpace r = 2))) ||
  (index && decide (rRank r < 2)) || (decide (sc ≠ 0) && decide (sc > 7))

/-- Checks of a scratchpad end (R238, R88): one bank format, rows inside their banks, whole units of a scaled format. -/
def sBad (c : Core) (e : SEnd) (code : Nat) : Bool :=
  let f := cFmtOf code
  let lim := if f.width = 6 ∧ f.scaled then 131064 else 131072
  e.banks.any (fun b => decide (23 < b) || decide (bf (c.bank b) 5 0 ≠ code)) ||
  (List.range e.rows).any fun row =>
    let p := e.at row
    decide (p.2 < 0) || decide (lim < p.2 + f.rowBytes e.len) ||
      (f.scaled && (decide (p.2 % (f.blockElemBytes : Int) ≠ 0) || decide (f.rowBytes e.len % f.blockElemBytes ≠ 0)))

/-- The scratchpad address of the scale of block j of a row of a scaled end, under the bank's format word (R87). -/
def SEnd.scaleAddr (e : SEnd) (f : CFmt) (bw : Word) (row j : Nat) : Nat :=
  131072 * bf bw 12 8 + bf bw 30 14 + f.scaleBytes * ((e.at row).2.toNat / f.blockElemBytes + j)

/-- The format word of the bank that holds a row, from the words of the end's banks. -/
def SEnd.word (e : SEnd) (bws : List Word) (row : Nat) : Word := bws.getD (row % 2 ^ e.ilv) 0

/-- The scratchpad faults of an end's rows and of its scale bytes (R238). -/
def sFault (c : Core) (e : SEnd) (code : Nat) : Option FaultInfo :=
  let f := cFmtOf code
  let one (row : Nat) : Option FaultInfo :=
    match c.spadFault (e.addr row) (f.rowBytes e.len) with
    | some x => some x
    | none =>
      if f.scaled then
        (List.range (e.len / f.block)).findSome? fun j => c.spadFault (e.scaleAddr f (c.bank (e.at row).1) row j) f.scaleBytes
      else none
  (List.range e.rows).findSome? one

/-- Reads a record operand (R242, R243): twelve registers, or a scratchpad address in a register. -/
def readRecord (mem : Nat) (a : Nat) : M Layout := do
  let s ← get
  if mem = 0 then pure ((List.range 12).map fun i => s.rdS (a + i))
  else
    let ad := (s.rdS a).toNat
    failWith (s.core.spadCheck ad 96 8)
    pure ((List.range 12).map fun i => BitVec.ofNat 64 (leNat (s.core.sbytes (ad + 8 * i) 8)))

/-- The 128-byte-aligned pieces of a run of n bytes, each an address and a length: they are translated independently (R202). -/
def runPieces (va n : Nat) : List (Nat × Nat) :=
  if n = 0 then [] else
  (List.range ((va + n - 1) / 128 + 1 - va / 128)).map fun i =>
    let lo := max va (128 * (va / 128 + i))
    (lo % 2 ^ 56, min (va + n) (128 * (va / 128 + i + 1)) - lo)

/-- Bytes of the image that a container in space 0 holds, and its logical lines (R79). -/
def contBytes (r : Layout) (f : CFmt) : Nat := if f.scaled then rWin r 0 / f.block * f.blockBytes else f.rowBytes (rWin r 0)
def contLines (r : Layout) (f : CFmt) : Nat := (contBytes r f + 127) / 128

/-- Bytes of a container's directory (R79). -/
def dirLen (n : Nat) : Nat := (n + 511) / 512 * 128

/-- Where the elements of a space-0 record are touched at issue, for translation (R243 step 4): address and length. -/
def rTouch (r : Layout) (isDst : Bool) : List (Nat × Nat) :=
  let f := cFmtOf (rFmt r)
  if isCont (rFmt r) then
    runPieces (rBase r) (dirLen (contLines r f))
  else
    (List.range (rCount r)).flatMap fun e =>
      let out := rOutAny r none e
      if out ∧ (isDst ∨ rFill r ≠ 2) then [] else
      let x (d : Nat) : Int := if out then rClamp r none e d else rCoord r none e d
      let o := f.off0 (x 0).toNat
      let base := (rAddr r o.1 x, o.2.1)
      if f.scaled ∧ (x 0).toNat % f.block = 0 then [base, (rAddr r (f.scaleOff (x 0).toNat) x, f.scaleBytes)] else [base]

/-- The two scratchpad ends of a copy within the scratchpad overlap (R243). -/
def sOverlap (a b : SEnd) (fa fb : CFmt) : Bool :=
  (List.range a.rows).any fun i => (List.range b.rows).any fun j =>
    meets (a.addr i) (fa.rowBytes a.len) (b.addr j) (fb.rowBytes b.len)

/-- The first engine slot that may be given to a new command; none while 64 are in flight (R243, R249). A slot whose
fault has not been delivered is not given. -/
def Core.freeSlot? (c : Core) : Option Nat :=
  (List.range 64).find? fun i => let e := c.eng.get {} i; decide (e.st ≠ .flight) && e.flt.isNone

/-- A new command takes a slot; its handle (R249). -/
def takeSlot (core slot : Nat) (cmd : Cmd) : M Word := do
  let c := (← get).coreAt core
  let g := (c.eng.get {} slot).gen
  let g := if g = 2 ^ 26 - 1 then 1 else g + 1
  modify fun s => { s.updCore core fun c =>
    { c with eng := c.eng.set {} slot { gen := g, st := .flight, cmd := some { cmd with no := s.issued } } } with issued := s.issued + 1 }
  pure (BitVec.ofNat 64 (g * 64 + slot))

/-- The format words of the banks of a scratchpad end, in order (R87, R238). -/
def Core.bankWords (c : Core) (bank ilv : Nat) : List Word := (List.range (2 ^ ilv)).map fun i => c.bank (bank + i)

/-- The pairs of spaces of Table 9.4; 5 stands for no destination record. -/
def pairOk (kind ss ds : Nat) : Bool :=
  match kind with
  | 0 => decide (ss ≤ 1) && decide (ds ≤ 5)
  | 1 => decide (ss = 0) && (decide (ds ≤ 2) || decide (ds = 5))
  | 2 => decide (ss ≤ 1) && decide (ds = 0)
  | 3 => decide (ss = 0) && decide (ds = 0)
  | _ => decide (ss ≤ 1) && decide (ds = 2)

/-- The follow-on descriptor of `copy.mma` is legal (R163, Table 6.4). -/
def descOk (w : Word) : Bool :=
  let k := bf w 63 62
  let f := bf w 61 56
  let h := bit w 48
  decide (bf w 55 50 = 0) && decide (bf w 47 39 = 0) && decide (bf w 31 15 = 0) && decide (bf w 38 32 ≤ 112) &&
  (match k with
   | 0 => isMmaFmt f
   | 1 => decide (f = 0x18) && !h
   | 2 => isMxFmt f && (!h || decide (f = 0x10) || decide (f = 0x11) || decide (f = 0x15))
   | _ => false)

/-- Reduced service has no FP4 or FP6 matrix rates: `mma.mx` in `mxe2m3`, `mxe3m2` or `mxfp4` (R4, R391). DEDUCED (log entry 80): a
`copy.mma` whose follow-on would be such an `mma.mx` is refused at its issue, as the instruction itself is. -/
def State.noNarrow (s : State) (kind fmt : Nat) : Bool :=
  s.reduced && decide (kind = 2) && (decide (fmt = 0x12) || decide (fmt = 0x13) || decide (fmt = 0x14))

/-- The issue of a copy command (R242, R243): kind, record operands and where they are held, scope. DESIGN CHOICE (log entry 81):
the command keeps the format words of its banks as they stand at its issue, so that a later write of `bfmt` (R87) governs only the
commands issued after it. -/
def issueCopy (kind x y sc d a b : Nat) : M Unit := do
  let s ← get
  let core := s.coreNo
  let c := s.core
  let q := s.req
  let src ← readRecord x a
  let single := decide (y = 0) && decide (b = 0)
  let dst ← if single then pure [] else readRecord y b
  let ss := rSpace src
  let ds := if single then 5 else rSpace dst
  -- the records (R234 to R241)
  lay (rBad src false (decide (kind = 1)) single sc)
  let fs := if ss = 1 then bf (c.bank (rBank src)) 5 0 else rFmt src
  if ss = 1 then lay (decide (rFmt src ≠ fs) || sBad c (rEnd src (cFmtOf fs)) fs)
  if ss = 1 then failWith (sFault c (rEnd src (cFmtOf fs)) fs)
  if !single then lay (rBad dst true (decide (kind = 2)) false sc)
  lay (!pairOk kind ss ds)
  let fd := if single then bf (c.bank (rBank src)) 5 0 else if ds = 1 then bf (c.bank (rBank dst)) 5 0 else rFmt dst
  let de : SEnd := if single then ⟨0, rBank src, rIlv src, (((cFmtOf fd).rowBytes (rSize src 0) + 3) / 4 * 4 : Nat), rRows src, rSize src 0⟩
    else rEnd dst (cFmtOf fd)
  if ds = 1 then lay (decide (rFmt dst ≠ fd))
  if ds = 1 ∨ ds = 5 then
    lay (sBad c de fd)
    failWith (sFault c de fd)
  -- flags and scope
  let flags := if single then src else dst
  lay (!(rAcq src || rRel flags) && decide (sc ≠ 0))
  -- formats
  let cs := cFmtOf fs
  let cd := cFmtOf fd
  lay ((decide (cs = .sig) || decide (cd = .sig)) && decide (cs ≠ cd))
  lay (decide (ds = 4) && decide (fs ≠ 7))
  lay (decide (kind = 3) && (isCont fs || isCont fd || cs.scaled || cd.scaled || decide (rFill src ≠ 0) || decide (rSize src 0 % 2 ≠ 0) ||
    !(decide (8 ≤ fs) && decide (fs ≤ 15)) || !(decide (8 ≤ fd) && decide (fd ≤ 15))))
  if kind = 1 then failWith (c.spadCheck (rList src) (4 * rSize src 1) 4)
  if kind = 2 then failWith (c.spadCheck (rList dst) (4 * rSize dst 1) 4)
  if kind = 3 then failWith (c.spadCheck (rFval src) (8 * (rSize src 0 / 2)) 8)
  -- step 3
  if !single then lay (decide (rCount src ≠ rCount dst) || decide (rSize src 0 ≠ rSize dst 0))
  if ss = 1 ∧ (ds = 1 ∨ ds = 5) then lay (sOverlap (rEnd src cs) de cs cd)
  -- step 4
  if ss = 0 ∧ kind ≠ 1 then (rTouch src false).forM fun t => do let _ ← translate q t.1 t.2 { r := true }
  if ds = 0 ∧ kind ≠ 2 then (rTouch dst true).forM fun t => do let _ ← translate q t.1 t.2 { w := true }
  -- step 5
  failIf (decide (kind = 4) && s.noNarrow (bf (s.rdS d) 63 62) (bf (s.rdS d) 61 56)) { code := 0x01 }
  failIf (decide (kind = 4) && !descOk (s.rdS d)) { code := 0x05 }
  -- step 6
  match c.freeSlot? with
  | none => stall (.flight 0)
  | some slot =>
    resumeFlush core
    if s.marked core then settleSR core
    settleIf core fun p => decide (p.ord = 0)
    let h ← takeSlot core slot
      { kind := kind, scope := sc, src := src, dst := dst, win := q.win, nmode := c.nmode, fs := fs, fd := fd,
        bs := c.bankWords (rBank src) (rIlv src), bd := c.bankWords de.bank de.ilv, desc := s.rdS d }
    -- inside a replayable region a command into global memory is queued where it stands (R251)
    modify fun s => s.updCore core fun c =>
      if c.inRegion ∧ ds = 0 then
        { c with held := c.held ++ [.cmd slot s.issued.pred none (if rRel flags then some sc else none)] }
      else c
    modify fun s => s.wrS d h

/-- One element on its way: its pattern, the pattern of its scale, and its exact value with the source subnormal mark. -/
structure El where
  bits : Nat
  scale : Nat
  val : Val
  sub : Bool
  /-- the element format it comes from -/
  src : EFmt
  /-- a filled element (R236) -/
  filled : Bool
  deriving DecidableEq, Repr

/-- The value of an element with its scale applied exactly (R73, R75, R83). -/
def CFmt.value (f : CFmt) (bits scale : Nat) : Val × Bool :=
  match f with
  | .plain e => (e.val bits, e.isSub bits)
  | .mx c =>
    if scale % 256 = 255 then (.nan, false)
    else ((((mxElem c).val bits).scale ((scale % 256 : Nat) - (if c = 0x15 then 133 else 127) : Int)), (mxElem c).isSub bits)
  | .ts _ => (((e4m3.val (bits % 256)).mul (fp32.val scale)).1, e4m3.isSub bits)
  | .sig => (.zero false, false)

/-- The request of a command: an agent of its own, with the windows of its issue (R203, R261, R366). -/
def State.engReq (s : State) (core slot : Nat) (cmd : Cmd) : Req :=
  { kind := 1, agent := core, ctx := s.coreCtx core, ag := engAgent core slot, win := cmd.win, no := cmd.no }

/-- A command's read of n bytes at a virtual address, as one access or byte by byte (R263): held stores and stash first (R225, R269). -/
def engRead (q : Req) (va n : Nat) : M (List Byte) := do
  letPerform
  let ia ← translate q va n { r := true }
  let bs ← readEach q (oneAccess va n) (← grantAll q va ia n .read)
  pure ((← get).overlayHeld q.agent ia bs)

/-- A command's read of a run (R202). -/
def engReadRun (q : Req) (va n : Nat) : M (List Byte) := do
  let bs ← (runPieces va n).mapM fun p => engRead q p.1 p.2
  pure bs.flatten

/-- Byte reader of a container's image (R79) read whole. -/
def contImage (by_ : List Byte) (dirBytes n : Nat) : List Byte :=
  let b (i : Nat) : Byte := byteAt by_ i
  let code (j : Nat) : Nat := (b (j / 4)).toNat / 4 ^ (j % 4) % 4
  (List.range n).flatMap fun j => let st := zelStart code dirBytes j; (List.range 128).map fun i => zelByte b st (code j) i

/-- A container's bytes in memory, line after line (R79). -/
def contRead (q : Req) (base n : Nat) : M (List Byte) := do
  let dirBytes := dirLen n
  let dir ← engReadRun q base dirBytes
  let code (j : Nat) : Nat := (byteAt dir (j / 4)).toNat / 4 ^ (j % 4) % 4
  let lines ← (List.range n).mapM fun j =>
    engReadRun q ((base + zelStart code dirBytes j) % 2 ^ 56) (zelSize (code j))
  pure (contImage (dir ++ lines.flatten) dirBytes n)

/-- An element read from a byte image of a space-0 tensor of one dimension. -/
def imageElem (f : CFmt) (img : List Byte) (x0 : Nat) : Nat × Nat :=
  let o := f.off0 x0
  let bits := if f.width < 8 then packedElem f.width (fun j => byteAt img (o.1 + j)) o.2.2
    else leNat ((List.range o.2.1).map fun j => byteAt img (o.1 + j))
  (bits, if f.scaled then leNat ((List.range f.scaleBytes).map fun j => byteAt img (f.scaleOff x0 + j)) else 0)

/-- The index list of a command in index mode (R246). -/
def idxList (c : Core) (r : Layout) : List Int :=
  (List.range (rSize r 1)).map fun i => toS 32 (leNat (c.sbytes (rList r + 4 * i) 4))

/-- Source element e in space 0 (R235, R236, R246). -/
def srcGlobal (q : Req) (r : Layout) (f : CFmt) (list : Option (List Int)) (img : Option (List Byte)) (e : Nat) : M El := do
  let out := rOutAny r list e
  if out ∧ rFill r ≠ 2 then
    if rFill r = 3 then fail { code := 0x09 }
    let int := match f with | .plain (.int _) => true | _ => false
    let k := if rFill r = 1 then rFval r else 0
    let ef : EFmt := if int then .int ⟨32, true⟩ else .flt fp32
    pure ⟨0, 0, if rFill r = 0 then .zero false else ef.val k, rFill r = 1 && ef.isSub k, ef, true⟩
  else
    let x (d : Nat) : Int := if out then rClamp r list e d else rCoord r list e d
    let x0 := (x 0).toNat
    let p ← match img with
      | some i => pure (imageElem f i x0)
      | none => do
        let o := f.off0 x0
        let bs ← engRead q (rAddr r o.1 x) o.2.1
        let bits := if f.width < 8 then packedElem f.width (byteAt bs) o.2.2 else leNat bs
        let sc ← if f.scaled then engRead q (rAddr r (f.scaleOff x0) x) f.scaleBytes else pure []
        pure (bits, leNat sc)
    let v := f.value p.1 p.2
    pure ⟨p.1, p.2, v.1, v.2, f.elem, out⟩

/-- A byte of n from scratchpad address a has an uncorrectable error. -/
def Core.spadBad (c : Core) (a n : Nat) : Bool := (List.range n).any fun i => c.ecc.spad.get false (a + i)

/-- Source element e in the scratchpad, or its scale, has an uncorrectable error: the element is replaced by +0 (R389). -/
def srcBad (c : Core) (en : SEnd) (f : CFmt) (bws : List Word) (e : Nat) : Bool :=
  if c.ecc.spad = [] then false else
  let bw := en.word bws (e / en.len)
  let o := f.unit (e % en.len)
  let a := en.addr (e / en.len) + o.1
  (if f.width < 8 then elemBad f.width o.2.2 fun j => c.ecc.spad.get false (a + j) else c.spadBad a o.2.1) ||
    (f.scaled && c.spadBad (en.scaleAddr f bw (e / en.len) (e % en.len / f.block)) f.scaleBytes)

/-- Source element e in the scratchpad (R238). -/
def srcSpad (c : Core) (en : SEnd) (f : CFmt) (bws : List Word) (e : Nat) : El :=
  let row := e / en.len
  let bw := en.word bws row
  let i := e % en.len
  let o := f.unit i
  let bs := c.sbytes (en.addr row + o.1) o.2.1
  let bits := if f.width < 8 then packedElem f.width (byteAt bs) o.2.2 else leNat bs
  let sc := if f.scaled then leNat (c.sbytes (en.scaleAddr f bw row (i / f.block)) f.scaleBytes) else 0
  let v := f.value bits sc
  if srcBad c en f bws e then ⟨0, 0, .zero false, false, f.elem, false⟩ else ⟨bits, sc, v.1, v.2, f.elem, false⟩

/-- The elements of a scratchpad source that are replaced by +0, as Table 6.6 names them (R389). -/
def srcZeros (c : Core) (cmd : Cmd) : List (Nat × Nat) :=
  if c.ecc.spad = [] ∨ rSpace cmd.src ≠ 1 then [] else
  let f := cFmtOf cmd.fs
  let en := rEnd cmd.src f
  ((List.range (rCount cmd.src)).filter (srcBad c en f cmd.bs)).map fun e => (4, en.addr (e / en.len) + (f.unit (e % en.len)).1)

/-- The source elements of a command in window order (R244 step 4). -/
def srcAll (q : Req) (c : Core) (cmd : Cmd) : M (List El) := do
  let r := cmd.src
  let f := cFmtOf cmd.fs
  if rSpace r = 1 then pure ((List.range (rCount r)).map (srcSpad c (rEnd r f) f cmd.bs))
  else
    let list := if cmd.kind = 1 then some (idxList c r) else none
    let img ← if isCont (rFmt r) then some <$> contRead q (rBase r) (contLines r f) else pure none
    (List.range (rCount r)).mapM (srcGlobal q r f list img)

/-- Conversion in progress: generator 1024 and the events so far. -/
structure Conv where
  gen : Lane
  evs : Evs
  deriving DecidableEq, Repr

def Conv.take (k : Conv) (r : Res) : Conv := ⟨genAfter 0 r k.gen, k.evs.add r.evs⟩

/-- Elements converted one by one into an unscaled format (R83, R88, R236). -/
def convPlain (dst : EFmt) (same e4nan : Bool) : List El → Conv → List (Nat × Nat) × Conv
  | [], k => ([], k)
  | x :: xs, k =>
    if same && !x.filled then
      let t := convPlain dst same e4nan xs k
      ((x.bits, 0) :: t.1, t.2)
    else
      let r := cvt x.val x.sub x.src dst dst.target (1, 0) e4nan 0 (drawOf k.gen)
      let t := convPlain dst same e4nan xs (k.take r)
      ((r.bits, 0) :: t.1, t.2)

/-- A block quantised (R74, R75, R88). -/
def convBlock (f : CFmt) (e4nan : Bool) (xs : List El) (k : Conv) : List (Nat × Nat) × Conv :=
  let fl := xs.map fun x => flushSub (x.val, x.sub)
  let vs := fl.map Prod.fst
  let k := { k with evs := k.evs.add (sumEvs (fl.map Prod.snd)) }
  let sc := match f with | .mx c => mxScale c vs | _ => tsScale vs
  (vs.zip xs).foldl (fun (a : List (Nat × Nat) × Conv) v =>
    let r := match f with
      | .mx c => mxElement c sc v.2.src e4nan 0 (drawOf a.2.gen) v.1
      | _ => tsElement sc v.2.src e4nan 0 (drawOf a.2.gen) v.1
    (a.1 ++ [(r.bits, sc)], a.2.take r)) ([], k)

/-- Blocks of n elements in turn: a block of the same format with no filled element moves unchanged, any other is quantised. -/
def convBlocks (f : CFmt) (same e4nan : Bool) (n : Nat) : Nat → List El → Conv → List (Nat × Nat) × Conv
  | 0, _, k => ([], k)
  | m + 1, xs, k =>
    let blk := xs.take n
    let b := if same && !blk.any (fun x => x.filled) then (blk.map fun x => (x.bits, x.scale), k) else convBlock f e4nan blk k
    let t := convBlocks f same e4nan n m (xs.drop n) b.2
    (b.1 ++ t.1, t.2)

/-- The destination elements: pattern and scale of each, in window order (R88, R244). -/
def convAll (cmd : Cmd) (xs : List El) (k : Conv) : List (Nat × Nat) × Conv :=
  let fd := cFmtOf cmd.fd
  let same := decide (cmd.fs % 32 = cmd.fd % 32)
  let e4 := bit cmd.nmode 0
  if same && !xs.any (fun x => x.filled) then (xs.map fun x => (x.bits, x.scale), k)
  else match fd with
    | .plain e => convPlain e same e4 xs k
    | .sig => (xs.map fun x => (x.bits, 0), k)
    | f => convBlocks f same e4 f.block (xs.length / f.block) xs k

/-- The rotation of R247: exact products and sum, one rounding. DESIGN CHOICE (log entry 82): the sum is a source in FP32 where the
conversion asks which formats narrow and which subnormals are flushed (R83). -/
def rotate (c : Core) (cmd : Cmd) (xs : List El) (k : Conv) : List (Nat × Nat) × Conv :=
  let dst := (cFmtOf cmd.fd).elem
  let src := (cFmtOf cmd.fs).elem
  let len := rSize cmd.src 0
  let tab (e o : Nat) : Nat := leNat (c.sbytes (rFval cmd.src + 8 * (e % len / 2) + o) 4)
  (List.range xs.length).foldl (fun (a : List (Nat × Nat) × Conv) e =>
    let b := e / 2 * 2
    let x := (xs.getD b ⟨0, 0, .nan, false, src, false⟩).val
    let y := (xs.getD (b + 1) ⟨0, 0, .nan, false, src, false⟩).val
    let cj := fp32.val (tab e 0)
    let sj := fp32.val (tab e 4)
    let p := if e % 2 = 0 then x.mul cj else x.mul sj
    let m := if e % 2 = 0 then y.mul sj else y.mul cj
    let t := p.1.add 0 (if e % 2 = 0 then m.1.negate else m.1)
    let v := if x = .nan ∨ y = .nan ∨ cj = .nan ∨ sj = .nan then Val.nan else t.1
    let inv := decide (v = .nan) && (p.2 || m.2 || t.2)
    let r := cvt v false (.flt fp32) dst dst.target (1, 0) (bit cmd.nmode 0) 0 (drawOf a.2.gen)
    let r := if inv then { r with evs := { r.evs with inv := 1 } } else r
    (a.1 ++ [(r.bits, 0)], a.2.take r)) ([], k)

/-- A command's write: held inside a replayable region, else to its home, as one access or byte by byte (R263), and to the core's
scalar-cache copy (R251, R274). -/
def engWrite (q : Req) (held : Bool) (va : Nat) (bs : List Byte) : M (List (Nat × List Byte)) := do
  let ia ← translate q va bs.length { w := true }
  if held then
    withVa va ia ((pieces ia bs.length).forM fun p => do let _ ← walk q p.1 .write)
    pure [(ia, bs)]
  else
    letPerform
    writeEach q (oneAccess va bs.length) (← grantAll q va ia bs.length .write) bs
    pure []

/-- A command's write of a run (R202). -/
def engWriteRun (q : Req) (held : Bool) (va : Nat) (bs : List Byte) : M (List (Nat × List Byte)) := do
  let ws ← (runPieces va bs.length).mapM fun p => engWrite q held p.1 ((bs.drop (p.1 - va)).take p.2)
  pure ws.flatten

/-- The bytes of destination element e in space 0: its address, its bytes laid into what the packed unit holds (R71, R235), the
command's held writes so far included. -/
def dstGlobal (q : Req) (held : Bool) (r : Layout) (f : CFmt) (list : Option (List Int)) (els : List (Nat × Nat))
    (sofar : List (Nat × List Byte)) (e : Nat) : M (List (Nat × List Byte)) := do
  if rOutAny r list e then
    if rFill r = 3 then fail { code := 0x09 }
    return []
  let x (d : Nat) : Int := rCoord r list e d
  let x0 := (x 0).toNat
  let o := f.off0 x0
  let p := els.getD e (0, 0)
  let va := rAddr r o.1 x
  let bs ← if f.width < 8 then do
      let ia ← translate q va o.2.1 { w := true }
      let now ← withVa va ia do readAll q (← (pieces ia o.2.1).mapM fun p => do pure (← walk q p.1 .write, p))
      let old := sofar.foldl (fun bs w => overlay ia bs w.1 w.2) ((← get).overlayHeld q.agent ia now)
      let n := 8 * o.2.1 / f.width
      pure ((List.range o.2.1).map fun j => packByte f.width (fun i => if i = o.2.2 then p.1 else
        if i < n then packedElem f.width (byteAt old) i else 0) j)
    else pure (leBytes o.2.1 p.1)
  let w ← engWrite q held va bs
  let sc ← if f.scaled ∧ x0 % f.block = 0 then
      engWrite q held (rAddr r (f.scaleOff x0) x) (leBytes f.scaleBytes p.2)
    else pure []
  pure (w ++ sc)

/-- A container written in the encoder's unique form (R79). -/
def dstCont (q : Req) (held : Bool) (r : Layout) (f : CFmt) (els : List (Nat × Nat)) : M (List (Nat × List Byte)) := do
  let img : List Byte :=
    if f.scaled then
      (List.range (rWin r 0 / f.block)).flatMap fun b =>
        (List.range f.blockElemBytes).map (packByte f.width fun i => (els.getD (f.block * b + i) (0, 0)).1) ++
          leBytes f.scaleBytes (els.getD (f.block * b) (0, 0)).2
    else (List.range (f.rowBytes (rWin r 0))).map (packByte f.width fun i => (els.getD i (0, 0)).1)
  let n := (img.length + 127) / 128
  let lines := (List.range n).map fun j => zelEncode ((List.range 128).map fun i => byteAt img (128 * j + i))
  let dir := zelDir (lines.map Prod.fst) (dirLen n)
  let code (j : Nat) : Nat := (lines.map Prod.fst).getD j 0
  let w0 ← engWriteRun q held (rBase r) dir
  let ws ← (List.range n).mapM fun j =>
    engWriteRun q held ((rBase r + zelStart code dir.length j) % 2 ^ 56) (lines.getD j (0, [])).2
  pure (w0 ++ ws.flatten)

/-- Where destination element e lands in space 0; none where it is skipped. -/
def dstPlace (r : Layout) (f : CFmt) (list : Option (List Int)) (e : Nat) : Option (Nat × Nat) :=
  if rOutAny r list e then none else
  let x (d : Nat) : Int := rCoord r list e d
  let o := f.off0 (x 0).toNat
  some (rAddr r o.1 x, o.2.2)

/-- The order in which destination elements are written: window order (R269). In index mode an element that lands where one of a higher
i1 has been written is left out, so that the highest leaves its value (R246). -/
def dstOrder (r : Layout) (f : CFmt) (list : Option (List Int)) : List Nat :=
  if list = none then List.range (rCount r) else
  (List.range (rCount r)).filter fun e => !(List.range e).any fun d =>
    decide (rIdx r e 1 < rIdx r d 1) && decide (dstPlace r f list d = dstPlace r f list e)

/-- The destination's scratchpad end. -/
def Cmd.dstEnd (cmd : Cmd) : SEnd :=
  let f := cFmtOf cmd.fd
  if cmd.dst = [] then ⟨0, rBank cmd.src, rIlv cmd.src, ((f.rowBytes (rSize cmd.src 0) + 3) / 4 * 4 : Nat), rRows cmd.src, rSize cmd.src 0⟩
  else rEnd cmd.dst f

/-- The destination's space; 1 without a record (R242). -/
def Cmd.dstSpace (cmd : Cmd) : Nat := if cmd.dst = [] then 1 else rSpace cmd.dst

/-- Row ρ's packed bytes from the elements. -/
def rowImage (f : CFmt) (len row : Nat) (els : List (Nat × Nat)) : List Byte :=
  (List.range (f.rowBytes len)).map (packByte f.width fun i => if i < len then (els.getD (row * len + i) (0, 0)).1 else 0)

/-- The elements written to a scratchpad end (R238). -/
def dstSpad (cmd : Cmd) (c : Core) (els : List (Nat × Nat)) : Core :=
  let f := cFmtOf cmd.fd
  let en := cmd.dstEnd
  (List.range en.rows).foldl (fun c row =>
    let c := c.putSpad (en.addr row) (rowImage f en.len row els)
    if f.scaled then
      (List.range (en.len / f.block)).foldl (fun c j =>
        let bs := leBytes f.scaleBytes (els.getD (row * en.len + j * f.block) (0, 0)).2
        c.putSpad (en.scaleAddr f (en.word cmd.bd row) row j) bs) c
    else c) c

/-- The elements written to a tile: the whole image and scale area, zero where the window does not reach (R239). -/
def dstTile (cmd : Cmd) (m : Matrix) (els : List (Nat × Nat)) : Matrix :=
  let f := cFmtOf cmd.fd
  let r := cmd.dst
  let t := rBase r
  let len := rSize r 0
  let rows := rRows r
  let img (k : Nat) : Byte :=
    let row := (k - 8192 * t) / 128
    if row < rows then byteAt (rowImage f len row els) ((k - 8192 * t) % 128) else 0
  let sca (k : Nat) : Byte :=
    let row := (k - 1024 * t) / 16
    let i := (k - 1024 * t) % 16
    if rows ≤ row ∨ !f.scaled then 0
    else if i / f.scaleBytes < len / f.block then
      BitVec.ofNat 8 ((els.getD (row * len + i / f.scaleBytes * f.block) (0, 0)).2 / 256 ^ (i % f.scaleBytes))
    else 0
  ({ m with
      tile := m.tile.splice 0 (8192 * t) 8192 img
      tsc := m.tsc.splice 0 (1024 * t) 1024 sca
      tileBad := m.tileBad.splice 0 (8192 * t) 8192 fun _ => 0
      tscBad := m.tscBad.splice 0 (1024 * t) 1024 fun _ => 0 }).setTile t .full

/-- The weight buffer with bytes from address a on, wrapping (R149). -/
def Matrix.wbWrite (m : Matrix) (a : Nat) (bs : List Byte) : Matrix :=
  { m with
    wbuf := (List.range bs.length).foldl (fun w i => w.set 0 ((a + i) % 1048576) (byteAt bs i)) m.wbuf
    wbTop := if bs = [] then m.wbTop else if 1048576 < a + bs.length then 32768 else max m.wbTop ((a + bs.length + 31) / 32)
    wbBad := m.wbBad.filter fun e => !(List.range bs.length).any fun i => decide ((a + i) % 1048576 = e.1) }

/-- The panel of a B operand: directory, lines in ZEL form, scales (R149, R240). -/
def dstPanel (cmd : Cmd) (m : Matrix) (els : List (Nat × Nat)) : Matrix :=
  let f := cFmtOf cmd.fd
  let r := cmd.dst
  let len := rSize r 0
  let img := (List.range 128).flatMap fun col => rowImage f len col els
  let n := img.length / 128
  let lines := (List.range n).map fun j => zelEncode ((img.drop (128 * j)).take 128)
  let dir := zelDir (lines.map Prod.fst) 32
  let sc : List Byte := match f with
    | .mx _ => (List.range (len / 32)).flatMap fun g => (List.range 128).map fun col => BitVec.ofNat 8 (els.getD (col * len + 32 * g) (0, 0)).2
    | .ts _ => leBytes 32 (els.getD 0 (0, 0)).2
    | _ => []
  m.wbWrite (32 * rBase r) (dir ++ (lines.map Prod.snd).flatten ++ sc)

/-- The most bytes that a panel of a command takes: its directory, its lines stored whole, its scales (R149, R240). -/
def Cmd.panelMax (cmd : Cmd) : Nat :=
  let f := cFmtOf cmd.fd
  let len := rSize cmd.dst 0
  let scales := match f with | .mx _ => 128 * (len / 32) | .ts _ => 32 | _ => 0
  32 + 128 * f.rowBytes len + scales

/-- The destination written (R244 step 5); the writes that a region holds. -/
def dstAll (q : Req) (core : Nat) (held : Bool) (cmd : Cmd) (els : List (Nat × Nat)) : M (List (Nat × List Byte)) := do
  let f := cFmtOf cmd.fd
  match cmd.dstSpace with
  | 0 => do
    let r := cmd.dst
    if isCont (rFmt r) then dstCont q held r f els
    else
      let s ← get
      let list := if cmd.kind = 2 then some (idxList (s.coreAt core) r) else none
      (dstOrder r f list).foldlM (fun ws e => do pure (ws ++ (← dstGlobal q held r f list els ws e))) []
  | 1 => do
    modify fun s => s.updCore core fun c => dstSpad cmd c els
    pure []
  | 2 => do
    modify fun s => s.updCore core fun c => { c with mx := dstTile cmd c.mx els }
    pure []
  | 3 => do
    modify fun s => s.updCore core fun c => { c with mx := dstPanel cmd c.mx els }
    pure []
  | _ => do
    modify fun s => s.updCore core fun c => { c with
      cb := c.cb.splice 0 (rBase cmd.dst) els.length fun k => BitVec.ofNat 64 (els.getD (k - rBase cmd.dst) (0, 0)).1 }
    pure []

/-- Bytes of a local store become open values where the destination range is undefined (R250). -/
def Core.junkSpad (c : Core) (f a n : Nat) : Core := c.putSpad a ((List.range n).map fun i => Config.freeByte f (a + i))

/-- A command's writes stand in the held entries of its core: it was queued at its issue (R251). -/
def Core.queued (c : Core) (slot no : Nat) : Bool :=
  c.held.any fun h => match h with | .cmd i n _ _ => decide (i = slot) && decide (n = no) | _ => false

/-- The runs of global memory that a command writes: address and length. -/
def Cmd.spots (cmd : Cmd) (c : Core) : List (Nat × Nat) :=
  let f := cFmtOf cmd.fd
  let r := cmd.dst
  let list := if cmd.kind = 2 then some (idxList c r) else none
  if isCont (rFmt r) then
    let n := contLines r f
    runPieces (rBase r) (dirLen n + 128 * n)
  else (List.range (rCount r)).flatMap fun e =>
    if rOutAny r list e then [] else
    let x (d : Nat) : Int := rCoord r list e d
    let o := f.off0 (x 0).toNat
    [(rAddr r o.1 x, o.2.1)] ++ (if f.scaled then [(rAddr r (f.scaleOff (x 0).toNat) x, f.scaleBytes)] else [])

/-- Open bytes wherever a granted write of n bytes at a virtual address may reach. -/
def scrambleVa (q : Req) (f va n : Nat) : M Unit := do
  match (← get).translate? q va n { w := true } with
  | .error _ => pure ()
  | .ok ia => (pieces ia n).forM fun p => do
    let s ← get
    let there := match s.locNow? q.ctx p.1 with
      | some (.polder _) => decide (s.blocks.get 0 (p.1 / 65536) ≠ 0)
      | some _ => true
      | none => false
    if there then
      match s.locNow? q.ctx p.1 with
      | some l => quietly (homeWrite q l p.1 ((List.range p.2.2).map fun i => Config.freeByte f (p.1 + i)))
      | none => pure ()

/-- Fields of a search command (Table 12.5). -/
def cmdWord (cmd : Cmd) (i : Nat) : Word := cmd.src.getD i 0

/-- The list range of a search becomes open values (R335). -/
def Core.junkList (c : Core) (f : Nat) (cmd : Cmd) : Core := c.junkSpad f (bf (cmdWord cmd 3) 63 32) (8 + 8 * bf (cmdWord cmd 3) 31 0)

/-- The destination range of a command that was cancelled or stopped is undefined (R250), a search's list too (R335); a tile is
not: it returns to empty. -/
def scrambleDst (core slot : Nat) (cmd : Cmd) : M Unit := do
  let f ← takeFresh
  let fm := cFmtOf cmd.fd
  let s ← get
  if cmd.kind = 5 then
    modify fun s => s.updCore core fun c => c.junkList f cmd
    return
  match cmd.dstSpace with
  | 0 =>
    if (s.coreAt core).queued slot cmd.no then pure ()
    else (cmd.spots (s.coreAt core)).forM fun w => scrambleVa (s.engReq core slot cmd) f w.1 w.2
  | 1 => do
    let en := cmd.dstEnd
    modify fun s => s.updCore core fun c => (List.range en.rows).foldl (fun c row =>
      let c := c.junkSpad f (en.addr row) (fm.rowBytes en.len)
      if fm.scaled then
        (List.range (en.len / fm.block)).foldl (fun c j =>
          c.junkSpad f (en.scaleAddr fm (en.word cmd.bd row) row j) fm.scaleBytes) c
      else c) c
  | 2 => pure ()
  | 3 => do
    let bs := (List.range cmd.panelMax).map fun i => Config.freeByte f i
    modify fun s => s.updCore core fun c => { c with mx := c.mx.wbWrite (32 * rBase cmd.dst) bs }
  | _ => do
    modify fun s => s.updCore core fun c => { c with
      cb := c.cb.splice 0 (rBase cmd.dst) (rSize cmd.dst 0) fun k => Config.freeWord (f + k) }

def State.eslot (s : State) (core slot : Nat) : ESlot := (s.coreAt core).eng.get {} slot

def State.setEslot (s : State) (core slot : Nat) (e : ESlot) : State :=
  s.updCore core fun c => { c with eng := c.eng.set {} slot e }

/-- What a command that ends early leaves of itself: its tile returns to empty (R250), and nothing of it stays queued. -/
def Core.dropCmd (c : Core) (slot : Nat) (cmd : Cmd) : Core :=
  { c with
    held := c.held.filter fun h => match h with | .cmd i n _ _ => !(decide (i = slot) && decide (n = cmd.no)) | _ => true
    mx :=
      let m := { c.mx with wait := c.mx.wait.filter fun i => decide (i ≠ slot) }
      if cmd.dstSpace = 2 ∧ cmd.begun then m.setTile (rBase cmd.dst) .empty else m }

/-- A command stops with a fault, which waits to be delivered (R250): 0x0A before it has written anything (R245). -/
def stopCmd (core slot : Nat) (cmd : Cmd) (f : FaultInfo) : M Unit := do
  if f.code ≠ 0x0A then scrambleDst core slot cmd
  modify fun s =>
    let s := s.updCore core fun c => c.dropCmd slot cmd
    let e := s.eslot core slot
    s.setEslot core slot { e with st := .stopped, cmd := none, flt := some { f with hdl := (s.coreAt core).handle slot } }

/-- The flags of a command (R244). -/
def Cmd.flags (cmd : Cmd) : Layout := if cmd.dst = [] then cmd.src else cmd.dst

/-- The arrival counts that a command adds to (R245): of its tile, or of the banks it wrote, those of its scales among them. -/
def Cmd.arrivals (cmd : Cmd) : List Nat :=
  match cmd.dstSpace with
  | 1 =>
    let scales := if (cFmtOf cmd.fd).scaled then (cmd.bd.take cmd.dstEnd.rows).map fun w => bf w 12 8 else []
    (cmd.dstEnd.banks ++ scales).eraseDups.map (16 + ·)
  | 2 => [rBase cmd.dst]
  | _ => []

/-- The last steps of a command whose data has landed (R244 step 6, R245, R250). -/
def finishCmd (core slot : Nat) (cmd : Cmd) (flt : Option FaultInfo) : M Unit := do
  modify fun s =>
    let s := s.updCore core fun c => { c with arr := cmd.arrivals.foldl (fun a i => a.set 0 i ((a.get 0 i + 1) % 16)) c.arr }
    let e := s.eslot core slot
    s.setEslot core slot { e with st := .completed, cmd := none, flt := flt }

/-- The release of a command; it pauses while its writes to the host or a peer are not complete. -/
def releaseCmd (core slot : Nat) (cmd : Cmd) : M Unit :=
  if rRel cmd.flags then releaseAt core (engAgent core slot) cmd.scope else pure ()

/-- The release of a command, if it does not have to wait: whether it has been performed. A fault of it stops the command. -/
def tryRelease (core slot : Nat) (cmd : Cmd) : M Bool :=
  tryCatch (do releaseCmd core slot cmd; pure true) fun e =>
    match e with
    | .pause _ => pure false
    | .fault f => do
      stopCmd core slot cmd f
      pure false
    | e => throw e

/-- The first steps of a command (R244 steps 1 and 3): its acquire, which orders it after its stream and empties the scalar cache at
a scope of `seg` or wider (Table 10.3), and its arrival test (R245). -/
def beginCmd (core : Nat) (cmd : Cmd) : M Unit := do
  if rAcq cmd.src then
    settleAll core
    if 2 ≤ cmd.scope then modify fun s => s.scClear core
  if cmd.dstSpace ≤ 2 ∧ rChk cmd.flags then
    let i := if cmd.dstSpace = 2 then rBase cmd.dst else 16 + cmd.dstEnd.bank
    let n := ((← get).coreAt core).arr.get 0 i
    if n ≠ rAtag cmd.flags then fail { code := 0x0A, det := rAtag cmd.flags + 16 * n }

/-- A command that stands in a slot may yet draw from generator 1024: it converts or fills, and its data has not landed. -/
def ESlot.mayDraw (e : ESlot) : Option Nat :=
  match e.cmd with
  | some cmd => if e.st = .flight ∧ cmd.kind ≠ 5 ∧ !cmd.landed ∧ (cmd.fs % 32 ≠ cmd.fd % 32 ∨ cmd.kind = 3 ∨ rFill cmd.src ≠ 0) then some cmd.no else none
  | none => none

/-- A command issued earlier may yet draw: the draws of a task stand in the order of issue, whichever engine is first (R68, R81). -/
def Core.earlierDraw (c : Core) (no : Nat) : Bool :=
  c.eng.any fun e => match e.2.mayDraw with | some n => decide (n < no) | none => false

/-- The follow-on banks of a descriptor are held (R164). -/
def Matrix.followHeld (m : Matrix) (desc : Word) : Bool := (List.range 16).all fun i => m.held.getLsbD (bf desc 38 32 + i)

/-- A command's data has landed: its tile is full and a follow-on arrives, whose banks are checked now (R162, R164). -/
def landCmd (core slot : Nat) (cmd : Cmd) : M Unit := modify fun s =>
  let follow := decide (cmd.kind = 4)
  let bad := follow && !(s.coreAt core).mx.followHeld cmd.desc
  let s := s.setEslot core slot { s.eslot core slot with cmd := some { cmd with landed := true, bad := bad } }
  if follow && !bad then s.updCore core fun c => { c with mx := { c.mx with wait := c.mx.wait ++ [slot] } } else s

/-- The data movement of a copy command (R244 steps 4 and 5). A queued command's writes take its place among the held entries; where
the declared stash has no room for them, the region ends (R38, R251). -/
def moveData (core slot : Nat) (cmd : Cmd) : M Unit := do
  let s ← get
  let c := s.coreAt core
  let q := s.engReq core slot cmd
  let xs ← srcAll q c cmd
  let k : Conv := ⟨c.gen 1024, {}⟩
  let r := if cmd.kind = 3 then rotate c cmd xs k else convAll cmd xs k
  if r.2.gen ≠ k.gen ∧ c.earlierDraw cmd.no then stall (.flight slot)
  let queued := c.queued slot cmd.no
  let ws ← dstAll q core queued cmd r.1
  modify fun s =>
    let s := s.updCore core fun c => { c with gens := if r.2.gen = c.gen 1024 then c.gens else c.gens.set 0 1024 r.2.gen }
    let s := s.countEvs core (s.coreCtx core) 0 (c.handle slot) r.2.evs
    s.substitute core (s.coreCtx core) 0 (c.handle slot) (srcZeros c cmd)
  landCmd core slot cmd
  if queued then
    let room := !((← get).coreAt core).inRegion || ((← get).coreAt core).heldRoom (ws.map fun w => w.2.length).sum
    modify fun s => s.updCore core fun c => { c with held := c.held.map fun h =>
      match h with
      | .cmd i n _ rel => if i = slot ∧ n = cmd.no then .cmd i n (some ws) rel else h
      | h => h }
    if !room then attempt (flushRegion core)

/-- The oldest follow-on that has arrived enters the matrix queue once it has room and the copy's release is done (R162, R164,
R269): whether it has. -/
def enterFirst (core : Nat) : M Bool := do
  let m := ((← get).coreAt core).mx
  match m.wait with
  | [] => pure false
  | slot :: rest =>
    match ((← get).eslot core slot).cmd with
    | none =>
      modify fun s => s.updCore core fun c => { c with mx := { c.mx with wait := rest } }
      pure true
    | some cmd =>
      if 16 ≤ m.mq.length then return false
      if !(← tryRelease core slot cmd) then return false
      let w := cmd.desc
      modify fun s => s.updCore core fun c => { c with mx := { c.mx with
        wait := rest
        mq := c.mx.mq ++ [.mma (bf w 63 62) (bf w 61 56) (bf w 48 48) (rBase cmd.dst) (bf w 38 32) (bf w 14 0) (bit w 49) (c.handle slot)] } }
      finishCmd core slot cmd none
      pure true

/-- Follow-ons enter the matrix queue while they can. -/
def enterWaiting (core : Nat) : Nat → M Unit
  | 0 => pure ()
  | n + 1 => do
    let more ← enterFirst core
    if more then enterWaiting core n

def enterAll (core : Nat) : M Unit := do
  let s ← get
  enterWaiting core (s.coreAt core).mx.wait.length

/-- A command whose data has landed goes on: it is released and completes; a follow-on enters the queue first, and one whose banks
were not held is not entered but raises its fault (R164, R250). -/
def endCopy (core slot : Nat) (cmd : Cmd) : M Unit := do
  if cmd.kind = 4 ∧ !cmd.bad then enterAll core
  else
    let done ← tryRelease core slot cmd
    let h := ((← get).coreAt core).handle slot
    if done then finishCmd core slot cmd (if cmd.bad then some { code := 0x05, hdl := h } else none)

/-- A step of a command that its own fault stops, and that a wait leaves where it was. -/
def guardCmd (core slot : Nat) (cmd : Cmd) (m : M Unit) : M Bool := fun s =>
  match m s with
  | .ok _ t => .ok true t
  | .error (.fault f) t => (do stopCmd core slot cmd f; pure false : M Bool) t
  | .error (.stall _) _ => .ok false s
  | .error e t => .error e t

/-- A command of slot `slot` goes on (R244, R250). Into a tile it waits until the tile is empty, then begins writing, and the tile
is loading until its data has landed (R148). -/
def runCopy (core slot : Nat) : M Unit := do
  let s ← get
  match (s.eslot core slot).cmd with
  | none => pure ()
  | some cmd =>
    if cmd.kind = 5 then pure ()
    else if cmd.landed then
      endCopy core slot cmd
    else if cmd.dstSpace = 2 ∧ !cmd.begun then
      if (s.coreAt core).mx.tileSt (rBase cmd.dst) ≠ .empty then return
      let ok ← guardCmd core slot cmd (beginCmd core cmd)
      if ok then
        modify fun s =>
          let s := s.setEslot core slot { s.eslot core slot with cmd := some { cmd with begun := true } }
          s.updCore core fun c => { c with mx := c.mx.setTile (rBase cmd.dst) (.filling slot) }
    else
      let ok ← guardCmd core slot cmd do
        if !cmd.begun then beginCmd core cmd
        moveData core slot cmd
      if ok then match ((← get).eslot core slot).cmd with
      | some cmd => if (s.coreAt core).queued slot cmd.no then finishCmd core slot cmd none else endCopy core slot cmd
      | none => pure ()

/-- FOLLOW_ON_MMA: a follow-on that has arrived goes on into the queue as far as it can, or its fault waits (R164). -/
def runFollowOn (core slot : Nat) : M Unit := do
  match ((← get).eslot core slot).cmd with
  | none => pure ()
  | some cmd => if cmd.kind = 4 ∧ cmd.landed then endCopy core slot cmd

end Sys2Proof.Machine
end

