-- ==== Sys2Proof/Machine/Select.lean ====
section
/-! DEFINITION. Array rows and regions (R169 to R174), the select rule and its ages (R296, R297), the spill engine
(R298 to R300) and the scan of a search unit (R303, R304). -/

namespace Sys2Proof.Machine

/-- A row image (Table 7.9). -/
abbrev Row := BitVec 320

/-- Bits lo + n - 1 : lo of a row. -/
def Row.bits (x : Row) (lo n : Nat) : Nat := x.toNat / 2 ^ lo % 2 ^ n

/-- The row with bits lo + n - 1 : lo replaced by the low bits of v. -/
def Row.put (x : Row) (lo n v : Nat) : Row :=
  BitVec.ofNat 320 (x.toNat - x.bits lo n * 2 ^ lo + v % 2 ^ n * 2 ^ lo)

def Row.moving (x : Row) : Bool := x.getLsbD 319
def Row.valid (x : Row) : Bool := x.getLsbD 318
def Row.age (x : Row) : Nat := x.bits 313 4
def Row.score (x : Row) : Nat := x.bits 304 9
def Row.head (x : Row) : Nat := x.bits 296 8
def Row.seq (x : Row) : Nat := x.bits 280 16
def Row.page (x : Row) : Nat := x.bits 256 24
def Row.sig (x : Row) : Nat := x.bits 0 256

/-- A row reaped (R300): `moving`, `valid`, `sink` and `age` clear. -/
def Row.reaped (x : Row) : Row := x.put 313 7 0

/-- The row's age raised, saturating at 15. -/
def Row.older (x : Row) : Row := x.put 313 4 (min (x.age + 1) 15)

/-- Row k of a core's arrays: row r of array a at 8192a + r. -/
def Core.row (c : Core) (k : Nat) : Row := c.rows.get 0 k

def Core.setRow (c : Core) (k : Nat) (x : Row) : Core := { c with rows := c.rows.set 0 k x }

/-- The entry of a region table (Table 7.1). -/
def Core.region (c : Core) (e : Nat) : Region := c.regs.get {} e

def Core.setRegion (c : Core) (e : Nat) (r : Region) : Core := { c with regs := c.regs.set {} e r }

/-- Where the region's rows start in the core's arrays, and how many they are (Table 7.1). -/
def Region.base (r : Region) : Nat := 8192 * r.arr + 8 * r.first
def Region.rows (r : Region) : Nat := 8 * (r.len + 1)

/-- A region handle's fields (Table 7.2). -/
def hCore (h : Nat) : Nat := h / 2 ^ 23 % 512
def hEnt (h : Nat) : Nat := h / 2 ^ 16 % 128
def hGen (h : Nat) : Nat := h % 65536

/-- The handle passes the checks of R173 on core n for context ctx: its region. -/
def Core.regionOf? (c : Core) (n ctx h : Nat) : Option Region :=
  let r := c.region (hEnt h)
  if hCore h = n ∧ r.v ∧ r.ctx = ctx ∧ r.gen = hGen h then some r else none

/-- The positive image of a spilled row: how a row stands for the entry written (R299). -/
def Row.stored (x : Row) : Row := x.put 319 1 0

/-- The candidates of R296: slot q, prefix slot q2, head h, limit v. -/
def isCandidate (x : Row) (q q2 h v : Nat) : Bool :=
  x.valid && decide (x.head = h) && decide (x.page < v) &&
    (decide (x.seq = q) || (decide (q2 ≠ 0xFFFF) && decide (x.seq = q2)))

/-- The berm of R296. -/
def inBerm (s w c p : Nat) : Bool := decide (p < min s (c + 1)) || (decide (c + 1 ≤ p + w) && decide (p ≤ c))

/-- The pages of the berm in ascending order. -/
def bermPages (s w c : Nat) : List Nat :=
  let lo := min s (c + 1)
  let from_ := max lo (c + 1 - w)
  List.range lo ++ (List.range (c + 1 - from_)).map (from_ + ·)

/-- A (score, page) pair joins a pool in which each page keeps its greatest score (R296). -/
def joinPool : List (Nat × Nat) → Nat × Nat → List (Nat × Nat)
  | [], x => [x]
  | y :: ys, x => if y.2 = x.2 then (max y.1 x.1, x.2) :: ys else y :: joinPool ys x

/-- A pair takes its place: score descending, then page descending (R296). -/
def placePair : List (Nat × Nat) → Nat × Nat → List (Nat × Nat)
  | [], x => [x]
  | y :: ys, x => if y.1 < x.1 ∨ (y.1 = x.1 ∧ y.2 < x.2) then x :: y :: ys else y :: placePair ys x

/-- The top of R296: the first k pairs of the ordered pool. -/
def topPairs (pairs : List (Nat × Nat)) (s w c k : Nat) : List (Nat × Nat) :=
  (((pairs.filter fun x => !inBerm s w c x.2).foldl joinPool []).foldl placePair []).take k

/-- A page takes its place in an ascending list. -/
def placePage : List Nat → Nat → List Nat
  | [], x => [x]
  | y :: ys, x => if x = y then y :: ys else if x < y then x :: y :: ys else y :: placePage ys x

/-- The pages of a select in ascending order (R296). -/
def selectPages (pairs : List (Nat × Nat)) (s w c k : Nat) : List Nat :=
  ((topPairs pairs s w c k).map Prod.snd).foldl placePage (bermPages s w c)

/-- The row of a region that a spill takes among those that the test names (R308): valid, not moving; greatest age,
then least page, then least row. -/
def Core.victim? (c : Core) (r : Region) (p : Nat → Bool) : Option Nat :=
  (List.range r.rows).foldl (fun b i =>
    let x := c.row (r.base + i)
    if !(p i && x.valid && !x.moving) then b else
    match b with
    | none => some i
    | some j =>
      let y := c.row (r.base + j)
      if y.age < x.age ∨ (y.age = x.age ∧ x.page < y.page) then some i else b) none

/-- A binding's fields (Table 11.3). -/
def bindCap (b : Word) : Nat := bf b 57 54
def bindUnit (b : Word) : Nat := bf b 53 48
def bindBase (b : Word) : Nat := bf b 47 6 * 64
def bindV (b : Word) : Bool := bit b 0

/-- The store range of a binding lies within one page with `cc` = 1 (R298). -/
def State.storeOk (s : State) (b : Word) : Bool :=
  match s.entry? (bindBase b) with
  | some e => !e.absent && e.cc && decide (e.page (bindBase b) = e.page (bindBase b + 64 * 2 ^ bindCap b - 1))
  | none => false

/-- A spill of row i of a region starts (R299, steps 1 to 3): its count. -/
def startSpill (core ent i : Nat) : M Nat := do
  let s ← get
  let c := s.coreAt core
  let r := c.region ent
  let n := (r.rcnt + 1) % 2 ^ 32
  let k := r.base + i
  let x := c.row k
  let c := (c.setRegion ent { r with rcnt := n }).setRow k (x.put 319 1 1)
  let s := s.setCore core c
  let ia := bindBase r.bind + 64 * ((n + 2 ^ 32 - 1) % 2 ^ bindCap r.bind)
  let p : Spill := ⟨core, ent, r.gen, k, n, ia, x.stored, bindUnit r.bind, r.ctx⟩
  set { s with spills := s.spills ++ [p] }
  pure n

/-- The row's spill has been acknowledged (R300). -/
def State.acked (s : State) (core k : Nat) : Bool := !s.spills.any fun p => decide (p.core = core) && decide (p.row = k)

/-- The bytes of a store entry (R299). -/
def Spill.bytes (p : Spill) : List Byte := leBytes 40 p.image.toNat ++ (leBytes 8 p.n ++ leBytes 16 0)

/-- A spill's store entry is written at the bank and acknowledged (R299, step 4). A fault that its walk meets is taken in the
Z-stream at its next boundary (R209), where a task of the context runs, and the spill stays unacknowledged. -/
def ackSpill (p : Spill) : M Unit :=
  tryCatch (do
    let q : Req := { kind := 1, agent := p.core, ctx := p.ctx, ag := 3072 + p.core }
    let l ← walk q p.ia .write
    modify fun s => { s with spills := s.spills.filter fun o => decide (o ≠ p) }
    homeWrite q l p.ia p.bytes) fun e =>
  match e with
  | .fault f => modify fun s => s.updCore p.core fun c =>
      if (c.task.map Task.ctx) = some p.ctx ∧ c.zflt.isNone then { c with zflt := some f } else c
  | e => throw e

/-- Every store entry that the search covers has been written (R303). -/
def State.scanReady (s : State) (core : Nat) (cmd : Cmd) : Bool :=
  let n := bf (cmdWord cmd 0) 63 32
  let h := bf (cmdWord cmd 0) 31 0
  let r := (s.coreAt core).region (hEnt h)
  decide (r.gen ≠ hGen h ∨ n ≤ r.rcnt) &&
    !s.spills.any fun p => decide (p.core = core) && decide (p.ent = hEnt h) && decide (p.gen = hGen h) && decide (p.n ≤ n)

/-- Entry i of a store, read at its bank: its row image and its count. Each block of 64 bytes is one snapshot, and stores of other
agents may perform between blocks (R281); the task's held stores are seen (R269). -/
def readEntry (q : Req) (b : Word) (i : Nat) : M (Row × Nat) := do
  letPerform
  let ia := bindBase b + 64 * i
  let l ← walk q ia .read
  let bs ← homeRead q l ia 64
  let bs := (← get).overlayHeld q.agent ia bs
  pure (BitVec.ofNat 320 (leNat (bs.take 40)), leNat ((bs.drop 40).take 8))

/-- Set bits among the low k of a number. -/
def popCount (x : Nat) : Nat → Nat
  | 0 => 0
  | k + 1 => popCount x k + (if x.testBit k then 1 else 0)

/-- The score of R191: 256 minus the Hamming distance of two signatures. -/
def sigScore (a b : Nat) : Nat := 256 - popCount ((a ^^^ b) % 2 ^ 256) 256

/-- The scan of R303: the entries of the list. -/
def scanStore (core slot : Nat) (cmd : Cmd) : M (List (Nat × Nat)) := do
  let s ← get
  let b := cmd.desc
  let q := s.engReq core slot cmd
  let w (i hi lo : Nat) : Nat := bf (cmdWord cmd i) hi lo
  let es ← (List.range (2 ^ bindCap b)).mapM (readEntry q b)
  let sig := leNat ((List.range 4).flatMap fun i => leBytes 8 (cmdWord cmd (4 + i)).toNat)
  let n := w 0 63 32
  let hits := es.filter fun e => decide (1 ≤ e.2) && decide (e.2 ≤ n) &&
    isCandidate e.1 (w 1 15 0) (w 1 31 16) (w 1 39 32) (w 2 55 32)
  pure (topPairs (hits.map fun e => (sigScore e.1.sig sig, e.1.page)) (w 1 47 40) (w 1 55 48) (w 2 23 0) (w 3 31 0))

/-- The bytes of a search list (R304). -/
def listBytes (n : Nat) (xs : List (Nat × Nat)) : List Byte :=
  leBytes 4 n ++ (leBytes 4 xs.length ++ xs.flatMap fun x => leBytes 4 x.2 ++ leBytes 4 x.1)

end Sys2Proof.Machine
end

