-- ==== Sys2Proof/Machine/Ops.lean ====
section
/-! DEFINITION. Taking an exception and what follows it, as shared operations: freezing a core (R375, R376), the composite
record (R377, R378), its delivery (R380), `eret` (R382), aborts (R37), task start and end (R31, R32), saves and restores
(R384 to R387), a sequencer's failure (R332), and the wrappers that turn a meaning in progress into an outcome. -/

namespace Sys2Proof.Machine

/-- The word n of a task's launch record. -/
def Task.w (t : Task) (n : Nat) : Word := t.lrec.get 0 n

/-- Declarations of a task (Table 1.3, L11). -/
def Task.nvreg (t : Task) : Nat := bf (t.w 11) 6 0
def Task.naccb (t : Task) : Nat := bf (t.w 11) 15 8
def Task.npred (t : Task) : Nat := bf (t.w 11) 27 20
def Task.nbar (t : Task) : Nat := bf (t.w 11) 31 28
def Task.nrows (t : Task) : Nat := bf (t.w 11) 47 32

/-- The gseg of a core (R11). -/
def gsegOf (core : Nat) : Nat := core / 8

/-- Moving a stream past its word in a loop or a repeat. -/
def LoopRec.advance (l : LoopRec) : LoopRec := { l with left := l.left - 1, done := l.done + 1 }

/-- The increment that follows an iteration or a repetition (R137, R138): k[ki] of each latched cluster. -/
def Core.bump (c : Core) (l : LoopRec) (clusters : List Nat) : Core :=
  if l.inc then
    { c with k := clusters.foldl (fun k i => k.set 0 (32 * i + l.ki) (k.get 0 (32 * i + l.ki) + l.step.get 0 i)) c.k }
  else c

/-- The clusters that an X stream drives (R21). -/
def clustersOf : Strm → List Nat
  | .xc c => [c]
  | _ => [0, 1, 2, 3]

/-- Where an X stream arrives at pc v (R137, R139): iterations end, loops end; the loops innermost first. -/
def xArrive (st : Strm) (v : Word) : Core → List LoopRec → Core × List LoopRec × Word
  | c, [] => (c, [], v)
  | c, l :: ls =>
    if v = l.pc + 8 * BitVec.ofNat 64 (l.n + 1) then
      let c := c.bump l (clustersOf st)
      let l' := l.advance
      if l'.left = 0 then xArrive st v c ls else (c, l' :: ls, l.pc + 8)
    else (c, l :: ls, v)

/-- An X stream goes on at pc v, through the ends of loop bodies. -/
def Core.xGo (c : Core) (st : Strm) (v : Word) : Core :=
  let r := xArrive st v c (c.loops.get [] st.code)
  let c := r.1
  { c with loops := c.loops.set [] st.code r.2.1 }.setStrm st { c.strmAt st with pc := r.2.2, wait := none }

/-- An X stream's word has executed (R138, R140): the next repetition, iteration or word. -/
def Core.xNext (c : Core) (st : Strm) : Core :=
  let p := (c.strmAt st).pc
  match c.reps.get none st.code with
  | some l =>
    let c := c.bump l (clustersOf st)
    let l' := l.advance
    if l'.left = 0 then { c with reps := c.reps.set none st.code none }.xGo st (p + 8)
    else { c with reps := c.reps.set none st.code (some l') }.setStrm st { c.strmAt st with wait := none }
  | none => c.xGo st (p + 8)

/-- A stream by its code in Table 15.2. -/
def strmOf (code : Nat) : Strm :=
  if code = 0 then .a else if code = 1 then .x else if code = 6 then .z else .xc (code - 2)

/-- The stream's word counts as executed with no effect (Table 15.5). -/
def Core.skipWord (c : Core) (st : Strm) : Core :=
  match st with
  | .a => { c with trunc := none, launchRec := none }.setStrm st { c.strmAt st with pc := (c.strmAt st).pc + 4, wait := none }
  | .z => c.setStrm st { c.strmAt st with pc := (c.strmAt st).pc + 4, wait := none }
  | _ => c.xNext st

/-- Entries of a core's queues in the order of Q28 and Q29: `qv0` to `qv3`, `qs0`, `qs1`, `qx0`, `qx1`, `qz0`, `qz1`, `qy0`. -/
def Queues.count (q : Queues) (i : Nat) : Nat :=
  if i < 4 then (q.qv.get [] i).length
  else if i < 6 then (q.qs.get [] (i - 4)).length
  else if i < 8 then (q.qx.get [] (i - 6)).length
  else if i = 8 then q.qz0.length
  else if i = 9 then q.qz1.length
  else q.qy0.length

/-- Entries that all queues hold. -/
def Queues.total (q : Queues) : Nat := ((List.range 11).map q.count).sum

/-- `wait` and `obj` of Table 15.3. -/
def Wait.fields : Wait → Nat × Nat
  | .empty q => (1, q)
  | .full q => (2, q)
  | .tile t _ => (3, t)
  | .sync m _ _ => (4, m)
  | .join => (5, 0)
  | .flight o => (6, o)
  | .mqFull => (7, 0)

/-- The stream status word of Table 15.3; `hit` marks the faulting stream. -/
def Core.statusWord (c : Core) (st : Strm) (hit : Bool) : Word :=
  let r := c.strmAt st
  let base := match r.st with
    | .absent => 0
    | .ended => 3
    | .running => if hit then 4 else if r.wait.isSome then 2 else 1
  let w := match r.wait with | some w => if hit then (0, 0) else w.fields | none => (0, 0)
  let lp := (c.loops.get [] st.code).length
  let rep := if (c.reps.get none st.code).isSome then 1 else 0
  BitVec.ofNat 64 (base + 2 ^ 8 * (w.1 % 256) + 2 ^ 16 * (w.2 % 256) + 2 ^ 24 * min lp 4 + 2 ^ 27 * rep)

/-- The stream record of cluster c: the joined stream's while the clusters are joined (R377). -/
def Core.xStrm (c : Core) (i : Nat) : Strm := if c.forked then .xc i else .x

/-- Numbers packed as bit fields of width w, the first lowest. -/
def packFields (w : Nat) : List Nat → Nat
  | [] => 0
  | x :: xs => x % 2 ^ w + 2 ^ w * packFields w xs

/-- Held accumulator banks. -/
def Matrix.heldCount (m : Matrix) : Nat := popCount m.held.toNat 128

/-- Words with two 32-bit entries each. -/
def pairWords : List Lane → List Word
  | [] => []
  | [a] => [BitVec.ofNat 64 a.toNat]
  | a :: b :: xs => BitVec.ofNat 64 (a.toNat + 2 ^ 32 * b.toNat) :: pairWords xs

/-- Core c's mask of the engine slots that pass a test. -/
def Core.slotMask (c : Core) (f : ESlot → Bool) : Word :=
  BitVec.ofNat 64 (packFields 1 ((List.range 64).map fun i => if f (c.eng.get {} i) then 1 else 0))

/-- The composite record of Table 15.2. -/
def composite (c : Core) (core : Nat) (f : FaultInfo) (strm : Nat) (v : Bool) (infl clk time : Word) : Sparse Word :=
  match c.task with
  | none => []
  | some t =>
    let b (x : Bool) : Nat := if x then 1 else 0
    let hit (st : Strm) : Bool := v && decide (st.code = strm)
    let q0 := b v * 2 ^ 63 + t.ctx * 2 ^ 41 + core * 2 ^ 32 + f.tcode % 512 * 2 ^ 16 + b t.idem * 2 ^ 15 + b f.call * 2 ^ 14 +
      b c.forked * 2 ^ 13 + b t.sup * 2 ^ 12 + b t.inRegion * 2 ^ 11 + strm * 2 ^ 8 + f.code
    let adr (x : Option Nat) (n : Nat) : Word := match x with | some a => BitVec.ofNat 64 (2 ^ 63 + a % 2 ^ n) | none => 0
    let xs := (List.range 4).flatMap fun i => [c.statusWord (c.xStrm i) (hit (c.xStrm i)), (c.strmAt (c.xStrm i)).pc]
    let pad (n : Nat) (l : List Word) : List Word := (l ++ List.replicate n 0).take n
    let words : List Word :=
      [BitVec.ofNat 64 q0, t.wid, BitVec.ofNat 64 t.lva, adr f.va 56, adr f.ia 48, clk, time, BitVec.ofNat 64 f.det,
       f.e0, f.e1, f.hdl, 0, 0, 0, 0, 0, c.statusWord .a (hit .a), (c.strmAt .a).pc] ++ xs ++
      [c.statusWord .z (hit .z), (c.strmAt .z).pc,
       BitVec.ofNat 64 (packFields 8 ((List.range 8).map c.q.count)),
       BitVec.ofNat 64 (packFields 8 ((List.range 3).map fun i => c.q.count (8 + i))),
       BitVec.ofNat 64 (packFields 4 ((List.range 16).map fun i => c.q.hv.get 0 i)),
       BitVec.ofNat 64 (packFields 5 ((List.range 8).map fun i => c.q.hs.get 0 i)),
       infl, c.slotMask (fun e => e.flt.isSome), BitVec.ofNat 64 (c.mx.mq.length % 256 + 256 * (c.mx.heldCount % 256))] ++
      List.replicate 13 0 ++
      pad 16 (c.q.qs.get [] 0) ++ pad 16 (c.q.qs.get [] 1) ++ pad 16 (c.q.qx.get [] 0) ++ pad 16 (c.q.qx.get [] 1) ++
      pad 8 (pairWords c.q.qz1) ++ pad 8 (pairWords c.q.qy0)
    Sparse.ofFn 0 (fun i => words.getD i 0) 0 128

/-- `clkc` of a core as it is read (R101): a count that has moved on by an amount the spec leaves open. -/
def readClk (core : Nat) : M Word := do
  modify fun s => s.clkTick core
  pure ((← get).coreAt core).clkc

/-- The list and the release of a search whose scan has run (R304, R335); its command completes. -/
def finishSearch (core slot : Nat) (cmd : Cmd) (xs : List (Nat × Nat)) : M Unit := do
  let at_ := bf (cmdWord cmd 3) 63 32
  modify fun s => s.updCore core fun c => c.putSpad at_ (listBytes (bf (cmdWord cmd 0) 63 32) xs)
  stashFlush core
  modify fun s =>
    let e := s.eslot core slot
    let s := s.setEslot core slot { e with st := .completed, cmd := none }
    s.setSeqr cmd.su { s.seqrAt cmd.su with wd := 0 }

/-- A search's scan runs once every covered entry is written (R303), unless its unit is in a reset, or the refresh debt of its
stack stands at 8; the postponements that it makes are open (R337). -/
def runScan (core slot : Nat) : M Unit := do
  let s ← get
  match (s.eslot core slot).cmd with
  | none => pure ()
  | some cmd =>
    if cmd.kind = 5 ∧ cmd.found = none ∧ s.scanReady core cmd ∧ !(s.seqrAt cmd.su).resetting ∧ s.debt.get 0 (cmd.su / 4) < 8 then
      let _ ← guardCmd core slot cmd do
        let xs ← scanStore core slot cmd
        let f ← takeFresh
        modify fun s =>
          let s := { s with debt := s.debt.set 0 (cmd.su / 4) (min 8 (s.debt.get 0 (cmd.su / 4) + Config.freeNat f % 9)) }
          s.setEslot core slot { s.eslot core slot with cmd := some { cmd with found := some xs } }

/-- A search whose scan has run completes (R335). -/
def runSearch (core slot : Nat) : M Unit := do
  match ((← get).eslot core slot).cmd with
  | none => pure ()
  | some cmd =>
    match cmd.found with
    | some xs => do let _ ← guardCmd core slot cmd (finishSearch core slot cmd xs)
    | none => pure ()

/-- Each command in flight on a core goes on as far as it can, the engine slots in ascending order. -/
def drainSlots (core : Nat) : M Unit :=
  (List.range 64).forM fun slot => do
    attempt (runCopy core slot)
    attempt (runCopy core slot)
    attempt (runFollowOn core slot)
    attempt (runScan core slot)
    attempt (runSearch core slot)

/-- Commands and loads in flight on a core complete or stop (R375 step 3, R384 step 3): vector loads, tile loads, the engine slots. A
command that cannot go on keeps waiting. -/
def drainCore (core : Nat) : M Unit := do
  modify fun s => s.updCore core fun c => { c with
    q := { c.q with qv := c.q.qv.map fun e => (e.1, e.2.map fun x => { x with ready := true }) } }
  (List.range 16).forM fun t => landTile core t
  drainSlots core

/-- The commands at the head of a core's matrix queue take effect until the follow-ons that have arrived have entered it, up to n of
them (R168). -/
def enterQueue (core : Nat) : Nat → M Unit
  | 0 => pure ()
  | n + 1 => do
    enterAll core
    if ((← get).coreAt core).mx.wait ≠ [] ∧ 16 ≤ ((← get).coreAt core).mx.mq.length then
      (List.range 4).forM fun k => modify fun s =>
        if 16 ≤ (s.coreAt core).mx.mq.length then s.mqHead core k else s
      enterQueue core n

/-- A copy command of the core is in flight: its slot. -/
def Core.copying? (c : Core) : Option Nat :=
  (List.range 64).find? fun i => match (c.eng.get {} i).cmd with | some cmd => decide (cmd.kind ≠ 5) | none => false

/-- The copies in flight on a core go on while one is, up to n times. -/
def drainCopies (core : Nat) : Nat → M Unit
  | 0 => pure ()
  | n + 1 => do
    if (((← get).coreAt core).copying?).isSome then
      drainSlots core
      enterQueue core 64
      drainCopies core n

/-- Every copy in flight on a core completes and its follow-on enters the queue, before a save (R168, R384 step 3): the save waits
while one cannot. -/
def drainForSave (core : Nat) : M Unit := do
  drainCore core
  drainCopies core 64
  match ((← get).coreAt core).copying? with
  | some i => stall (.flight i)
  | none => pure ()

/-- The engine slots of a core without their commands: the generations of the handles stay (R249). -/
def Core.gensOf (c : Core) : Sparse ESlot := c.eng.map fun e => (e.1, { gen := e.2.gen })

/-- A core whose task has left it: what belongs to the core and to contexts stays (R169, R249), and the scratchpad and the arrival
counts stand until the next task's first clk (R31, R245). -/
def Core.freed (c : Core) : Core :=
  { regs := c.regs, rows := c.rows, badRow := c.badRow, leftq := c.leftq, clkc := c.clkc, saves := c.saves, eng := c.gensOf,
    spad := c.spad, arr := c.arr, ecc := { spad := c.ecc.spad } }

/-- The state of a task's first clk (R31). -/
def Core.start (c : Core) (core : Nat) (t : Task) (time : Nat) : Core :=
  let s0 : Sparse Word := []
  let go (a : Word) : StrmRec := if a = 0 then {} else { st := .running, pc := a }
  { c.freed with
    task := some t
    spad := [], arr := [], ecc := {}
    s := ((s0.set 0 1 t.wid).set 0 2 (BitVec.ofNat 64 t.lva)).set 0 3 (BitVec.ofNat 64 (core + 65536 * gsegOf core))
    k := (List.range 4).foldl (fun k i => k.set 0 (32 * i + 1) t.wid) []
    z := { y := Sparse.set 0 [] 1 (t.wid.truncate 32) }
    strm := ((Sparse.set {} [] 0 (go (t.w 0))).set {} 1 (go (t.w 1))).set {} 6 (go (t.w 2))
    evwin := Sparse.ofFn 0 (fun _ => time) 0 6 }

/-- A task is placed on a core. -/
def State.startTask (s : State) (core : Nat) (t : Task) : State :=
  s.updCore core fun c => c.start core { t with inRegion := t.idem } s.dtime

/-- A gang's phase of a slot advances once every member has arrived or ended (R326). -/
def Gang.settle (g : Gang) (n : Nat) : Gang :=
  if g.members.all fun m => g.ended.contains m || g.arrived.contains (n, m) then
    { g with phase := g.phase.set 0 n (g.phase.get 0 n + 1), arrived := g.arrived.filter fun a => decide (a.1 ≠ n) }
  else g

/-- A member of a gang has ended (R326); the gang ceases to exist with its last member. -/
def State.gangEnd (s : State) (id : Nat) (wid : Word) : State :=
  { s with gangs := s.gangs.filterMap fun g =>
      if g.id ≠ id then some g else
      let g := { g with ended := g.ended ++ [wid] }
      if g.members.all g.ended.contains then none
      else some (((List.range 8).filter fun n => g.arrived.any fun a => decide (a.1 = n)).foldl Gang.settle g) }

/-- The sequencers that a core's running task forked. -/
def State.forksOf (s : State) (core : Nat) : List Nat :=
  match (s.coreAt core).task with
  | none => []
  | some t => (List.range 48).filter fun q =>
      let x := s.seqrAt q
      x.running && decide (x.owner = some core) && decide (x.olaunch = t.launch) && decide (x.owid = t.wid)

/-- The task is the one that forked a sequencer's stream. -/
def Seqr.forkedBy (x : Seqr) (t : Task) : Bool := decide (t.launch = x.olaunch) && decide (t.wid = x.owid)

/-- The save of the task that forked a sequencer's stream, which stands until the task is restored (R387). -/
def State.savedPartner? (s : State) (core : Nat) (x : Seqr) : Option Saved :=
  s.saved.find? fun v => decide (v.core = core) && x.forkedBy v.task

/-- The save or the core that holds the task which forked a sequencer's stream is changed. -/
def State.updPartner (s : State) (q : Nat) (f : Core → Core) : State :=
  let x := s.seqrAt q
  match x.owner with
  | none => s
  | some core =>
    match s.savedPartner? core x, (s.coreAt core).task with
    | some w, _ => { s with saved := s.saved.map fun v => if v = w then { v with body := f v.body } else v }
    | none, some t => if x.forkedBy t then s.updCore core f else s
    | none, none => s

/-- The core record that holds the partner of a sequencer's stream: saved or running. -/
def State.partner? (s : State) (q : Nat) : Option Core :=
  let x := s.seqrAt q
  match x.owner with
  | none => none
  | some core =>
    match s.savedPartner? core x, (s.coreAt core).task with
    | some v, _ => some v.body
    | none, some t => if x.forkedBy t then some (s.coreAt core) else none
    | none, none => none

/-- A sequencer's stream fails (R332): its waiting stores stay granted and perform, it stops, and the error words of Table 12.4
stand beside any message in its partner's in-mailbox. -/
def seqFail (q code : Nat) : M Unit := do
  settleAll (512 + q)
  modify fun s =>
    let x := s.seqrAt q
    let e0 := BitVec.ofNat 64 (2 ^ 63 + q * 2 ^ 8 + code)
    let e1 := BitVec.ofNat 64 (x.pc.toNat % 2 ^ 56)
    let s := s.updPartner q fun c => { c with inBox := c.inBox.set {} q { c.inBox.get {} q with err := some (e0, e1) } }
    s.setSeqr q { x with running := false, waiting := false }

/-- A running search of unit u stops (R335, R338): 0x12 at a boundary, its list range undefined. DESIGN CHOICE (log entry 116): one that
still waits for its entries to be written (R303) is a running search too. -/
def stopSearches (u : Nat) : M Unit := do
  let f ← takeFresh
  modify fun s => s.cores.foldl (fun s c => c.2.eng.foldl (fun s e =>
    match e.2.cmd with
    | some cmd =>
      if cmd.kind = 5 ∧ cmd.su = u then
        let s := s.updCore c.1 fun x => x.junkList f cmd
        let flt : FaultInfo := { code := 0x12, hdl := (s.coreAt c.1).handle e.1 }
        s.setEslot c.1 e.1 { e.2 with st := .stopped, cmd := none, flt := some flt }
      else s
    | none => s) s) s

/-- Debt of the DRAM dies behind a search unit's stack is repaid (R337, R338). -/
def State.repay (s : State) (u : Nat) : State := { s with debt := s.debt.set 0 (u / 4) 0 }

/-- A watchdog reset begins (R338): the stream fails with 0x12, its searches stop, the refresh debt is repaid. -/
def seqReset (q : Nat) : M Unit := do
  if ((← get).seqrAt q).running then seqFail q 0x12
  stopSearches q
  modify fun s => s.repay q

/-- Queue entries that were never popped are discarded and counted (R32). -/
def dropQueues (core : Nat) : M Unit := modify fun s => s.updCore core fun c =>
  match c.task with
  | none => c
  | some t => { c with
      leftq := c.leftq.set 0 t.ctx (BitVec.ofNat 64 (satAdd 64 (c.leftq.get 0 t.ctx).toNat c.q.total))
      q := {}
      ecc := { c.ecc with que := [] } }

/-- A task's stash windows are written back and unmapped (R257). -/
def closeStash (core : Nat) : M Unit := do
  stashFlush core
  modify fun s => s.updCore core fun c => { c with stash := [], stLine := [] }

/-- The dirty lines of a stash that can go back do so. -/
def stashLeave (core : Nat) : M Unit := do
  ((← get).coreAt core).stLine.forM fun e =>
    match e.2 with
    | some l => if l.dirty then quietly (stashClean core e.1 l) else pure ()
    | none => pure ()

/-- Every waiting store of a core's task performs, its stash lines go back, and it leaves the core (R32 step 4). Its gang is told. -/
def leaveCore (core : Nat) : M Unit := do
  settleAll core
  stashLeave core
  modify fun s =>
    let c := s.coreAt core
    match c.task with
    | none => s
    | some t =>
      let s := s.setCore core c.freed
      match t.gang with
      | some g => s.gangEnd g t.wid
      | none => s

/-- The abort of R37: held stores, queues and the core are given up, and the task is ready again from its start, once the
page it waits for is resident. `replc` counts it. -/
def abortTask (core : Nat) (page : Option Nat) : M Unit := do
  settleAll core
  stashLeave core
  modify fun s =>
    let c := s.coreAt core
    match c.task with
    | none => s
    | some t =>
      let s := s.setCore core c.freed
      let s := s.setSr t.ctx 121 (BitVec.ofNat 64 (satAdd 64 (s.sr t.ctx 121).toNat 1))
      { s with requeued := s.requeued ++ [⟨t, page, if t.gang.isSome then some core else none⟩] }

/-- TAKING AN EXCEPTION (R375): the core freezes. `st` is the stream's code of Table 15.2 or 7, `how` what `eret` will do.
In-flight commands complete or stop, then the composite record is latched; delivery follows (R380). Every saved pc is the
stream's own; `trap` and `ecall` resume at the next word (R377, R383). -/
def freezeCore (core st : Nat) (how : Frz) (f : FaultInfo) : M Unit := do
  let s ← get
  if (s.coreAt core).task.isNone ∨ (s.coreAt core).frozen.isSome then return
  modify fun s => s.updCore core fun c =>
    let c := if f.next then c.setStrm (strmOf st) { c.strmAt (strmOf st) with pc := (c.strmAt (strmOf st)).pc + 4 } else c
    let c := if st < 7 then c.setStrm (strmOf st) { c.strmAt (strmOf st) with wait := none } else c
    { c with frozen := some how, waitw := none }
  let infl := ((← get).coreAt core).slotMask fun e => decide (e.st = .flight)
  let clk ← readClk core
  drainCore core
  modify fun s => s.updCore core fun c => { c with
    rcd := composite c core f st true infl clk (BitVec.ofNat 64 s.dtime)
    rcdDue := true }

/-- The page that a memory-side page fault waits for (R37, R209). -/
def State.faultPage (s : State) (ia : Nat) : Nat :=
  match s.entry? ia with
  | some e => e.page ia
  | none => ia / 65536 * 65536

/-- A fault of a stream of a core (R374): 0x06 inside a replayable region aborts the task (R37); every other fault freezes the
core (R375). -/
def faultStream (core : Nat) (st : Strm) (f : FaultInfo) : M Unit := do
  let s ← get
  if f.code = 0x06 ∧ (s.coreAt core).inRegion then abortTask core (f.ia.map s.faultPage)
  else
    let how : Frz := if f.next then .after st.code f.code else .strm st.code f.code
    freezeCore core st.code how f

/-- A fault met at a boundary of a stream, after its words so far (R374): an engine command's or a threshold's. -/
def faultAfter (core st : Nat) (f : FaultInfo) : M Unit := do
  let s ← get
  if f.code = 0x06 ∧ (s.coreAt core).inRegion then abortTask core (f.ia.map s.faultPage)
  else freezeCore core st (.after st f.code) f

/-- A fault of the agent that acts: its core freezes or its task is aborted, or its sequencer's stream fails (R332). -/
def takeFault (f : FaultInfo) : M Unit := do
  match (← get).cur with
  | .strm c st => faultStream c st f
  | .seqr q => seqFail q f.code
  | _ => pure ()

/-- The acting stream waits. -/
def State.waits (s : State) (w : Wait) : State :=
  match s.cur with
  | .strm c st => { s.updCore c fun x => x.setStrm st { x.strmAt st with wait := some w } with note := .stalled }
  | _ => { s with note := .stalled }

/-- The outcome of an operation that neither faults nor waits. -/
def settleOut (r : EStateM.Result Stop State Unit) : Out :=
  match r with
  | .ok _ s => .next s
  | .error (.out f) _ => .fault f
  | .error _ s => .next s

/-- The outcome of a meaning in progress: its effects; the exception it raises, taken; a wait without an effect; a wait
after effects that stay; or the machine's stop. -/
def runM (m : M Unit) (s : State) : Out :=
  match m s with
  | .ok _ t => .next { t with note := .done }
  | .error (.fault f) t => settleOut (takeFault f { t with note := .faulted })
  | .error (.stall w) _ => .next (s.waits w)
  | .error (.pause w) t => .next (t.waits w)
  | .error (.out f) _ => .fault f

/-- The outcome of a device event: its effects; a fault inside it has no stream to go to. -/
def runEvent (m : M Unit) (s : State) : Out := settleOut (attempt m { s with note := .done })

/-- The outcome of an event of the device's own work, of which a halted device does none (R393). -/
def runLive (m : M Unit) (s : State) : Out := if s.halted then .next { s with note := .done } else runEvent m s

/-- The acting stream or sequencer goes on at the next 32-bit word. -/
def nextWord : M Unit := modify fun s => s.setPc (s.pc + 4)

/-- A meaning of the A-stream and of sequencers, that goes on at the next word. -/
def runA (m : M Unit) (s : State) : Out := runM (do m; nextWord) s

/-- A sequencer that reaches an opcode outside its subset stops with 0x01 (R45, R332). -/
def onCore : M Nat := do
  match (← get).cur with
  | .seqr _ => fail { code := 0x01 }
  | _ => pure (← get).coreNo

/-- A meaning that a sequencer does not have: it is given the core. -/
def runAC (m : Nat → M Unit) (s : State) : Out := runA (do m (← onCore)) s

/-- A word that user tasks may not execute (R34). -/
def needSup (core : Nat) : M Unit := do
  match ((← get).coreAt core).task with
  | some t => failIf (!t.sup) { code := 0x02 }
  | none => fail { code := 0x02 }

/-- The request of the device itself for a context (R380, R384). -/
def State.devReq (s : State) (core ctx : Nat) : Req :=
  { kind := 0, agent := core, ctx := ctx, ag := 4096, win := (s.ctxAt ctx).sr }

/-- Trap delivery (R380). -/
def deliver (core : Nat) : M Unit := do
  let s ← get
  let c := s.coreAt core
  match c.task with
  | none => pure ()
  | some t =>
    let n := s.sr t.ctx 129 + 1
    set ((s.setSr t.ctx 129 n).setCore core { c with rcdDue := false })
    let tb := s.sr t.ctx 128
    if bit tb 0 then
      let base := bf tb 55 19 * 2 ^ 19
      let q := s.devReq core t.ctx
      tryCatch (do
        writeVa q (base + 1024 * core) ((List.range 128).flatMap fun i => leBytes 8 (c.rcd.get 0 i).toNat)
        writeVa q (base + 322 * 1024 + 8 * ((n.toNat + 255) % 256)) (leBytes 8 (n.toNat % 2 ^ 32 * 2 ^ 32 + core))
        let ia ← translate q (base + 320 * 1024) 8 { r := true, w := true }
        let _ ← atomicAt q (base + 320 * 1024) ia 0 64 1 0) fun e =>
          match e with
          | .fault _ => modify fun s => s.setSr t.ctx 128 (setBf (s.sr t.ctx 128) 0 0 0)
          | e => throw e

/-- A write beyond 4 KiB: piece by piece of 4 KiB, translated and granted (R384, R387). -/
def bigWrite (q : Req) (va n : Nat) (f : Nat → Byte) : M Unit :=
  (List.range ((n + 4095) / 4096)).forM fun i =>
    writeVa q (va + 4096 * i) ((List.range (min 4096 (n - 4096 * i))).map fun j => f (4096 * i + j))

/-- A word of n bytes at an address has an uncorrectable error (R389). -/
def spanBad (q : Req) (va n : Nat) : M Bool :=
  (List.range ((n + 4095) / 4096)).anyM fun i => do
    let m := min 4096 (n - 4096 * i)
    let ps ← grantAll q (va + 4096 * i) (← translate q (va + 4096 * i) m { r := true }) m .read
    let s ← get
    pure (ps.any fun p => match p.1 with | .frame _ k => s.badIn k p.2.2.2 | _ => false)

/-- The bytes of a save image from 4 KiB on differ from those that the save wrote. -/
def bigDiffers (q : Req) (va n : Nat) (f : Nat → Byte) : M Bool :=
  (List.range ((n + 4095) / 4096)).anyM fun i => do
    let bs ← readVa q (va + 4096 * i) (min 4096 (n - 4096 * i)) { r := true } .read
    pure ((List.range bs.length).any fun j => decide (byteAt bs j ≠ f (4096 * i + j)))

/-- Declared scratchpad bytes, rounded for placement (R28). -/
def Task.spadPlaced (t : Task) : Nat := (t.spadBytes + 4095) / 4096 * 4096

/-- Bytes of a task's save image (R385). -/
def Task.imageSize (t : Task) : Nat := 1652 * 1024 + 4096 * t.nvreg + t.spadPlaced

/-- Bytes between the save images of a context's cores (Table 15.4). -/
def State.saveStride (s : State) (ctx : Nat) : Nat := bf (s.sr ctx 133) 7 0 * 2 ^ 21

/-- The address of the save image of a core for a context (R385). -/
def State.saveBase (s : State) (ctx core : Nat) : Nat := bf (s.sr ctx 132) 55 21 * 2 ^ 21 + core * s.saveStride ctx

/-- Byte i of a save image's sections, whose order is not architectural (R385): open values of this save. -/
def fillByte (fill i : Nat) : Byte := Config.freeByte fill i

/-- Something that a task's save image holds has an uncorrectable error (R385, R386): of the predicates, the vector registers and the
scratchpad what is declared, of the weight buffer what has been written, of the accumulators what is held. -/
def Core.stateBad (c : Core) (t : Task) : Bool :=
  c.ecc.reg.any (fun e => decide (e.1 < 256 + t.npred)) || c.ecc.lane.any (fun e => decide (e.1 < 1024 * t.nvreg)) ||
  !c.ecc.que.isEmpty || c.q.qv.any (fun e => e.2.any fun v => !v.bad.isEmpty) || c.ecc.spad.any (fun e => decide (e.1 < t.spadPlaced)) ||
  !c.mx.tileBad.isEmpty || !c.mx.tscBad.isEmpty || c.mx.wbBad.any (fun e => decide (e.1 < 32 * c.mx.wbTop)) ||
  c.mx.accBad.any fun e => c.mx.held.getLsbD (e.1 / 512)

/-- The save of R384: 0 when it commits; otherwise the core freezes with 0x11 (R386) and the answer is 3. -/
def saveTask (core : Nat) : M Nat := do
  let s ← get
  match (s.coreAt core).task with
  | none => pure 2
  | some t =>
    let q := { s.devReq core t.ctx with kind := 1 }
    let base := s.saveBase t.ctx core
    let size := t.imageSize
    let fill ← takeFresh
    let bad ← tryCatch (do
      writeVa q base (leBytes 8 0)
      drainForSave core
      settleAll core
      stashFlush core
      if ((← get).coreAt core).stateBad t then fail { code := 0x10 }
      if s.saveStride t.ctx < size then fail { code := 0 }
      bigWrite q (base + 4096) (size - 4096) (fillByte fill)
      let clk ← readClk core
      let c := (← get).coreAt core
      let rec_ := composite c core { code := 0 } 0 false (c.slotMask fun e => decide (e.st = .flight)) clk (BitVec.ofNat 64 s.dtime)
      writeVa q (base + 1024) ((List.range 128).flatMap fun i => leBytes 8 (rec_.get 0 i).toNat)
      writeVa q (base + 8) (leBytes 8 t.wid.toNat ++ (leBytes 8 size ++ leBytes 8 (Config.freeWord fill).toNat))
      writeVa q base (leBytes 8 (2 ^ 63 + (c.saves + 1) % 2 ^ 32))
      pure none) fun e =>
        match e with
        | .fault f => pure (some f.code)
        | e => throw e
    match bad with
    | some code =>
      freezeCore core 7 .save { code := 0x11, det := code * 256 }
      pure 3
    | none =>
      modify fun s =>
        let c := s.coreAt core
        let c := { c with waitw := c.waitw.map fun (w : Waitw) =>
          { w with since := 0, limit := if w.limit = 0 then 0 else max 1 (w.limit - (s.dtime - w.since)) } }
        -- the stash's mappings go with the task, its lines and the scalar cache do not (R199, R200)
        let c := { c with stLine := [], scLine := [], scByte := [] }
        let v : Saved := ⟨core, t, c, fill⟩
        let s := { s with saved := s.saved ++ [v] }
        s.setCore core { c.freed with saves := (c.saves + 1) % 2 ^ 32 }
      pure 0

/-- A core into which the state of a saved task is loaded (R387, R168, R175). -/
def Core.load (c : Core) (v : Saved) (time : Nat) : Core :=
  let b := v.body
  let live (a : Nat) : Bool := ((c.regionOf? v.core v.task.ctx (b.z.act.get 0 a)).isSome)
  { b with
    regs := c.regs, rows := c.rows, badRow := c.badRow, leftq := c.leftq, clkc := c.clkc, saves := c.saves, frozen := none
    z := { b.z with act := b.z.act.filter fun e => live e.1, tags := b.z.tags.filter fun e => live (e.1 / 8) }
    mx := { b.mx with tst := b.mx.tst.map fun e => (e.1, if e.2.isLoading then .full else e.2) }
    evcnt := [], evwin := Sparse.ofFn 0 (fun _ => time) 0 6
    waitw := b.waitw.map fun w => { w with since := time, ia := none } }

/-- The restore of a saved task on its core (R387): the checks, then its state. A failure freezes the task with 0x11 before any
instruction: its streams stand where they were saved, none of its commands is there, and the save stands for another try. -/
def restoreTask (v : Saved) : M Unit := do
  let core := v.core
  let t := v.task
  modify fun s => s.setCore core { (s.coreAt core).load v s.dtime with eng := v.body.gensOf, frozen := none }
  let s ← get
  let q := { s.devReq core t.ctx with kind := 1 }
  let base := s.saveBase t.ctx core
  let bad ← tryCatch (do
    if ← spanBad q base t.imageSize then fail { code := 0x10 }
    let h ← readVa q base 32 { r := true } .read
    let w (i : Nat) : Nat := leNat ((h.drop (8 * i)).take 8)
    let diff ← bigDiffers q (base + 4096) (t.imageSize - 4096) (fillByte v.fill)
    if w 0 < 2 ^ 63 ∨ w 1 ≠ t.wid.toNat ∨ w 3 ≠ (Config.freeWord v.fill).toNat ∨ diff then fail { code := 0 }
    writeVa q base (leBytes 8 0)
    pure none) fun e =>
      match e with
      | .fault f => pure (some f.code)
      | e => throw e
  match bad with
  | none => modify fun s => { s.updCore core fun c => { c with eng := v.body.eng } with saved := s.saved.filter fun x => decide (x ≠ v) }
  | some code => freezeCore core 7 .restore { code := 0x11, det := 1 + code * 256 }

/-- The completion add of R27. -/
def completionAdd (core : Nat) (t : Task) : M Unit := do
  let a := (t.w 22).toNat
  if a = 0 then return
  let q := (← get).coreReq core
  let ia ← translate q a 8 { r := true, w := true }
  -- every memory effect of the task comes before, those of its commands among them
  release q (bf (t.w 4) 23 21)
  awaitRemote (bf (t.w 4) 23 21) fun ag => decide (agentCore? ag = some core)
  let _ ← atomicAt q a ia 0 64 1 0

/-- The task of a core ends (R32): its stash goes back (R257), its leftover queue entries are counted, then its completion add, if
it is to have one, and the release of the core. -/
def endTask (core : Nat) (add : Bool) : M Unit := do
  match ((← get).coreAt core).task with
  | none => pure ()
  | some t =>
    let bad ← if add then
        tryCatch (do
          flushRegion core
          closeStash core
          dropQueues core
          completionAdd core t
          pure none) fun e =>
            match e with
            | .fault f => pure (some f)
            | e => throw e
      else pure none
    match bad with
    | none =>
      dropQueues core
      leaveCore core
    | some f =>
      if f.code = 0x06 ∧ ((← get).coreAt core).inRegion then abortTask core (f.ia.map (← get).faultPage)
      else freezeCore core 7 .cmpl f

/-- The core runs on (R382): each resumed stream acquires at scope `dev`, and the deadlock count restarts. -/
def State.unfreeze (s : State) (core : Nat) : State :=
  (s.updCore core fun c => { c with frozen := none, rcd := [], rcdDue := false, dead := 0 }).scClear core

/-- Every condition of R32 holds: streams ended, operations completed, forked streams ended; and nothing is left to deliver. -/
def State.canEnd (s : State) (core : Nat) : Bool :=
  let c := s.coreAt core
  c.task.isSome && c.frozen.isNone &&
    ([Strm.a, .x, .xc 0, .xc 1, .xc 2, .xc 3, .z].all fun st => decide ((c.strmAt st).st ≠ .running)) &&
    c.eng.all (fun e => decide (e.2.st ≠ .flight) && e.2.flt.isNone) && c.due.isEmpty && c.zflt.isNone && c.mx.mq.isEmpty &&
    c.mx.wait.isEmpty && c.mx.tst.all (fun e => !e.2.isLoading) && c.q.qv.all (fun e => e.2.all VEntry.ready) &&
    s.spills.all (fun p => decide (p.core ≠ core)) && (s.forksOf core).isEmpty

/-- The actions of `eret` on a frozen core (Table 15.5). A record whose delivery is still to come is delivered first (R380). DESIGN
CHOICE (log entry 109): the queue entries that a discard drops count in `leftq`, as those of R32 do. -/
def eretAct (core act : Nat) : M Unit := do
  if ((← get).coreAt core).rcdDue then deliver core
  let c := (← get).coreAt core
  match c.frozen, c.task with
  | some how, some t =>
    if act = 2 then
      abortTask core none
    else if act = 3 then
      modify fun s => s.updCore core fun c => { c with held := [], mx := { c.mx with held := 0, mq := [], wait := [] } }
      dropQueues core
      (← get).forksOf core |>.forM seqReset
      leaveCore core
      if how = .restore then modify fun s => { s with saved := s.saved.filter fun v => !(decide (v.core = core) && decide (v.task = t)) }
    else
      modify fun s => s.unfreeze core
      match how with
      | .strm st code =>
        if act = 1 then
          if code = 0x0C then
            modify fun s => s.updCore core fun c =>
              { c with mx := { c.mx with held := 0 } }.setStrm (strmOf st) { c.strmAt (strmOf st) with st := .ended }
          else modify fun s => s.updCore core fun c => c.skipWord (strmOf st)
      | .cmpl => if act = 1 then endTask core false
      | .restore =>
        match (← get).saved.find? fun v => decide (v.core = core) && decide (v.task = t) with
        | some v => restoreTask v
        | none => pure ()
      | _ => pure ()
  | _, _ => pure ()

/-- No stream of the core's task runs: it is ending (R384). -/
def Core.ending (c : Core) : Bool :=
  [Strm.a, .x, .xc 0, .xc 1, .xc 2, .xc 3, .z].all fun st => decide ((c.strmAt st).st ≠ .running)

/-- Pre-emption of the task on a core (R384): 0 saved, 1 aborted, 2 refused, 3 the save failed. -/
def preemptOne (ctx core : Nat) : M Nat := do
  let s ← get
  let c := s.coreAt core
  match c.task with
  | none => pure 2
  | some t =>
    if t.ctx ≠ ctx ∨ c.frozen.isSome ∨ c.ending ∨ (!bit (s.sr ctx 132) 0 ∧ !t.inRegion) then pure 2
    else if t.inRegion then do
      abortTask core none
      pure 1
    else saveTask core

/-- The cores that hold the members of a task's gang; the task's own core for a task without one. -/
def State.gangCores (s : State) (core : Nat) : List Nat :=
  match (s.coreAt core).task with
  | some t =>
    match t.gang with
    | some g => (s.cores.filter fun c => match c.2.task with | some u => decide (u.gang = some g) | none => false).map Prod.fst
    | none => [core]
  | none => [core]

/-- A member of the gang could not be pre-empted. -/
def State.refuses (s : State) (ctx core : Nat) : Bool :=
  let c := s.coreAt core
  match c.task with
  | none => true
  | some t => decide (t.ctx ≠ ctx) || c.frozen.isSome || c.ending || (!bit (s.sr ctx 132) 0 && !t.inRegion)

/-- The commit word of a core's save image for a context becomes zero. -/
def dropImage (ctx core : Nat) : M Unit := do
  let s ← get
  quietly (writeVa { s.devReq core ctx with kind := 1 } (s.saveBase ctx core) (leBytes 8 0))

/-- A pre-emption request (R384, R325): the whole gang of the core's task, and the result for the named core. A gang of which one
member cannot be saved stays on its cores as a whole (log entry 118): that member freezes (R386), and the others go on, their images
without a commit word. -/
def preempt (ctx core : Nat) : M Nat := do
  let s ← get
  if 319 < core then return 2
  let cs := s.gangCores core
  if cs.any (s.refuses ctx) then return 2
  let rs ← cs.mapM fun c => do
    let r ← preemptOne ctx c
    pure (c, r)
  if cs ≠ [core] ∧ rs.any (fun r => decide (r.2 = 3)) then
    set { s with fresh := (← get).fresh }
    rs.forM fun r => do
      if r.2 = 3 then let _ ← preemptOne ctx r.1
      if r.2 = 0 then dropImage ctx r.1
    return 3
  pure (((rs.find? fun r => decide (r.1 = core)).map Prod.snd).getD 2)

end Sys2Proof.Machine
end

