-- ==== Sys2Proof/Machine/Sreg.lean ====
section
/-! DEFINITION. Special registers (R100 to R102): what each reads as, and what a write of each does, whether by `mts`, by the
host driver or by the device event that names the register. -/

namespace Sys2Proof.Machine

/-- Who writes a special register: a context, and the core whose task executes the write, if one does. -/
structure SrBy where
  ctx : Nat
  core : Option Nat := none
  deriving DecidableEq, Repr

/-- Rows in a context's regions (`qrow.held`, Table 14.2). -/
def State.rowsHeld (s : State) (ctx : Nat) : Nat :=
  (s.cores.map fun c => (c.2.regs.map fun r => if r.2.v ∧ r.2.ctx = ctx then r.2.rows else 0).sum).sum

/-- Slots of a context that are not free (`qslot.used`, Table 14.2). -/
def State.slotsUsed (s : State) (ctx : Nat) : Nat := (s.slots.filter fun d => d.2.used && decide (d.2.ctx = ctx)).length

/-- The queue of a launch (Table 1.3). -/
def Launch.queue (l : Launch) : Nat := bf (l.lrec.get 0 4) 11 4

/-- Pending launches of a queue (Table 12.1). -/
def State.pendOf (s : State) (q : Nat) : Nat := (s.launches.filter fun l => decide (l.queue = q)).length

/-- The control word of queue q (Table 12.1). -/
def State.queueWord (s : State) (q : Nat) : Word := setBf (s.mgr (0x1300 + 8 * q)) 10 0 (s.pendOf q)

/-- `kmask` of a context (Table 14.2). -/
def State.keyMask (s : State) (ctx : Nat) : Nat :=
  packFields 1 ((List.range 64).map fun k =>
    if (s.kslots.get {} k).loaded ∧ (s.kslots.get {} k).owner = ctx then 1 else 0)

/-- Dike units reserved by every context but one (R210). -/
def State.dikeOthers (s : State) (ctx : Nat) : Nat :=
  ((List.range 64).map fun c => if c = ctx then 0 else bf (s.sr c 192) 11 0).sum

/-- The entry that `ftsel` names, where the context may use it (R217). -/
def State.ftEntry? (s : State) (ctx : Nat) : Option Entry :=
  match s.entry? (bf (s.sr ctx 195) 47 16 * 65536) with
  | some e => if e.v ∧ e.ctx = ctx then some e else none
  | none => none

/-- `trrd` (Table 15.4): a word of the record latched in the core that `trsel` names. -/
def State.trrd (s : State) (ctx : Nat) : Word :=
  let sel := s.sr ctx 130
  let c := s.coreAt (bf sel 8 0)
  match c.task with
  | some t => if c.frozen.isSome ∧ t.ctx = ctx then c.rcd.get 0 (bf sel 22 16) else 0
  | none => 0

/-- `qdone` (R223): the highest epoch such that no access that carries it or an older one is in flight. -/
def State.qdone (s : State) : Nat := s.pend.foldl (fun m p => min m p.epoch) s.qepoch - 1

/-- The value of a special register that belongs to a context. -/
def State.ctxReg (s : State) (ctx n : Nat) : Word :=
  if n = 131 then s.trrd ctx
  else if n = 193 then BitVec.ofNat 64 (s.ctxAt ctx).blocks
  else if n = 194 then BitVec.ofNat 64 (packFields 16 ((List.range 4).map fun k => ((s.ctxAt ctx).lf.get [] k).length))
  else if n = 198 then BitVec.ofNat 64 s.qepoch
  else if n = 199 then BitVec.ofNat 64 s.qdone
  else if n = 323 then s.tsync
  else if n = 385 then setBf (s.sr ctx n) 47 24 (s.rowsHeld ctx)
  else if n = 386 then setBf (s.sr ctx n) 31 16 (s.slotsUsed ctx)
  else if n = 388 then BitVec.ofNat 64 (s.keyMask ctx)
  else if n = 396 then s.queueWord (bf (s.sr ctx 395) 7 0)
  else if n = 397 then BitVec.ofNat 64 (256 * (if s.reduced then 1 else 0) + s.tier % 4)
  else s.sr ctx n

/-- The queue that `tqsel` names is the context's (R361, R364); of another's, `tqctl` shows an open word (log entry 92). -/
def State.ownsQueue (s : State) (ctx : Nat) : Bool := decide (bf (s.mgr (0x1300 + 8 * bf (s.sr ctx 395) 7 0)) 55 50 = ctx)

/-- The value that `mfs` reads (R100 to R102). `tqctl` shows nothing of a queue that is another context's (R361): what it then reads
is open. -/
def readSr (core n : Nat) : M Word := do
  let s ← get
  let c := s.coreAt core
  let ctx := s.coreCtx core
  if n = 0 then readClk core
  else if n = 1 then pure (BitVec.ofNat 64 s.dtime)
  else if n = 2 then
    let sup := match c.task with | some t => t.sup | none => false
    pure (BitVec.ofNat 64 ((if sup then 2 ^ 32 else 0) + ctx * 2 ^ 24 + gsegOf core * 2 ^ 16 + core))
  else if n = 3 then pure c.wid
  else if n = 4 then pure (match c.task with | some t => BitVec.ofNat 64 t.lva | none => 0)
  else if n = 16 then pure c.nmode
  else if n < 32 then pure (c.lc.get 0 (n - 24))
  else if n < 96 then pure (c.bank (n - 64))
  else if 112 ≤ n ∧ n < 118 then do
    modify fun s => s.evRoll core ctx (n - 112)
    pure (BitVec.ofNat 64 (((← get).coreAt core).evcnt.get 0 (n - 112)))
  else if n = 120 then pure (c.leftq.get 0 ctx)
  else if n = 196 then
    match s.ftEntry? ctx with
    -- Table 8.6: E0 in bits 63:4, the fields `plc`, `pol`, `ord` in bits 3:0
    | some e => pure (setBf e.e0 3 0 (8 * bf e.e0 56 56 + 4 * bf e.e0 57 57 + bf e.e0 59 58))
    | none => fail { code := 0x05 }
  else if n = 396 ∧ !s.ownsQueue ctx then do
    let f ← takeFresh
    pure (Config.freeWord f)
  else do
    failIf ((s.ctxAt ctx).bad.get false n) { code := 0x10 }
    pure (s.ctxReg ctx n)

/-- The bits of a special register that a write stores; the others read zero. -/
def srMask (n : Nat) : Nat :=
  if n < 96 then 2 ^ 64 - 1
  else if n < 104 then 2 ^ 64 - 2 ^ 62 + (2 ^ 48 - 1)
  else if n = 128 then 2 ^ 56 - 2 ^ 19 + 1
  else if n = 130 then 2 ^ 64 - 2 ^ 61 + (2 ^ 23 - 2 ^ 16) + 511
  else if n = 132 then 2 ^ 56 - 2 ^ 21 + 1
  else if n = 133 then 255
  else if n = 134 then 511
  else if n = 192 then 4095
  else if n = 195 then 2 ^ 48 - 2 ^ 16
  else if 256 ≤ n ∧ n < 320 then
    (if n % 4 = 2 then 2 ^ 48 - 2 ^ 12 else if n % 4 = 3 then 15 else 2 ^ 56 - 2 ^ 12)
  else if n = 320 then 2 ^ 56 - 2 ^ 7
  else if n = 321 then 65535
  else if n = 322 then 2 ^ 56 - 2 ^ 5
  else if n = 384 then 2 ^ 40 - 1
  else if n = 385 then 2 ^ 24 - 1
  else if n = 386 then 65535
  else if n = 387 then 2 ^ 48 - 1
  else if n = 389 then 255
  else if n = 392 then 2 ^ 64 - 2 ^ 59 + (2 ^ 58 - 2 ^ 48) + (2 ^ 41 - 1)
  else if n = 394 then 2 ^ 58 - 2 ^ 6 + 1
  else if n = 395 then 255
  else if 400 ≤ n then
    (if n % 4 = 2 then 2 ^ 56 - 1 else if n % 4 = 3 then 2 ^ 64 - 2 ^ 50 else 2 ^ 48 - 2 ^ 12)
  else 2 ^ 64 - 1

/-- A value as special register n stores it. -/
def srKept (n : Nat) (v : Word) : Word := v &&& BitVec.ofNat 64 (srMask n)

/-- Every byte of a range lies in a window with `r` and `w`, and every page is a valid, pinned HBM page of the context that is
not polder (R379); the walk goes on from each page's or window's end. -/
def State.areaOk (s : State) (ctx va end_ : Nat) : Nat → Bool
  | 0 => decide (end_ ≤ va)
  | fuel + 1 =>
    if end_ ≤ va then true else
    match s.translate? (s.devReq 0 ctx) va 1 { r := true, w := true }, findWindow (s.ctxAt ctx).sr va (List.range 16) with
    | .ok ia, some w =>
      match s.entry? ia with
      | some e =>
        e.v && e.pin && decide (e.tier = 0) && !e.pol && decide (e.ctx = ctx) &&
          s.areaOk ctx (min (va + (e.size - ia % e.size)) w.limit) end_ fuel
      | none => false
    | _, _ => false

/-- The check of `trbase.v` and `svbase.v` (R379). -/
def checkArea (ctx va n : Nat) : M Unit := do
  failIf (!(← get).areaOk ctx va (va + n) (n / 4096 + 1)) { code := 0x05 }

/-- A task of the context other than the executing one is running, frozen or saved (R379). -/
def State.othersLive (s : State) (by_ : SrBy) : Bool :=
  (s.cores.any fun c => decide (by_.core ≠ some c.1) && (match c.2.task with | some t => decide (t.ctx = by_.ctx) | none => false)) ||
  s.saved.any fun v => decide (v.task.ctx = by_.ctx)

/-- Units that the device grants in total (R210). -/
def State.dikeTotal (s : State) : Nat := if s.reduced then 192 else 2048

/-- A reservation of u units under quota q keeps R210's rules. -/
def State.dikeOk (s : State) (ctx u q : Nat) : Bool :=
  let old := bf (s.sr ctx 192) 11 0
  decide (u ≤ q) && decide ((s.ctxAt ctx).blocks ≤ 32 * u) && (decide (u ≤ old) || decide (u + s.dikeOthers ctx ≤ s.dikeTotal))

/-- A write of `dike` (R210). -/
def writeDike (by_ : SrBy) (v : Word) : M Unit := do
  let s ← get
  let w := s.sr by_.ctx 192
  let u := bf v 11 0
  failIf (!s.dikeOk by_.ctx u (bf w 43 32)) { code := 0x05 }
  set (s.setSr by_.ctx 192 (setBf w 11 0 u))

/-- The waiting stores to a page perform before its entry changes (R207, R217). -/
def settlePage (e : Entry) (ia : Nat) : M Unit := do
  let ags := ((← get).pend.map Pend.agent).eraseDups
  ags.forM fun ag => settleIf ag fun p => meets p.ia p.data.length (e.page ia) e.size

/-- A write of `ftop` (R217). -/
def writeFtop (by_ : SrBy) (v : Word) : M Unit := do
  let s ← get
  let ia := bf (s.sr by_.ctx 195) 47 16 * 65536
  match s.ftEntry? by_.ctx with
  | none => fail { code := 0x05 }
  | some e =>
    failIf (decide (16 ≤ v.toNat) || decide (bf v 1 0 = 3) || (bit v 2 && decide (e.tier ≠ 3)) || (!bit v 2 && e.isPolder)) { code := 0x05 }
    settlePage e ia
    let e0 := setBf (setBf (setBf e.e0 59 58 (bf v 1 0)) 57 57 (bf v 2 2)) 56 56 (bf v 3 3)
    modify fun s => s.putEntry ia e e0 e.e1

/-- Bytes of a scaled format's scale area (Table 3.7). -/
def CFmt.scaleArea (f : CFmt) : Nat := 1048576 / (f.width * f.block) * f.scaleBytes

/-- A write of `bfmt`n on a core (R87). -/
def writeBfmt (core n : Nat) (v : Word) : M Unit := do
  let c := (← get).coreAt core
  let code := bf v 5 0
  let sb := bf v 12 8
  let so := bf v 30 14
  let f := cFmtOf code
  lay (!fmtOk code || isCont code)
  if f.scaled then lay (decide (23 < sb) || decide (131072 < so + f.scaleArea) || decide (so % f.scaleBytes ≠ 0))
  else lay (decide (sb ≠ 0) || decide (so ≠ 0))
  let lim := c.spadLim
  let out (b : Nat) : Bool := decide (lim.1 ≤ 131072 * b) && decide (131072 * b < lim.2)
  failIf (out n || (f.scaled && out sb)) { code := 0x03, det := 5 }
  let w := BitVec.ofNat 64 (so * 2 ^ 14 + sb * 2 ^ 8 + code)
  modify fun s => s.updCore core fun c => { c with bfmt := c.bfmt.set 8 n w }

/-- The row groups of a core that a valid region holds, as (array, first, length) in groups of 8. -/
def Core.heldRuns (c : Core) : List (Nat × Nat × Nat) :=
  c.regs.filterMap fun e => if e.2.v then some (e.2.arr, e.2.first, e.2.len + 1) else none

/-- The places where a run of n groups is free in the arrays named (R171). -/
def Core.freeRuns (c : Core) (arr n : Nat) : List (Nat × Nat) :=
  let held := c.heldRuns
  (List.range 4).flatMap fun a =>
    if arr ≠ 4 ∧ arr ≠ a then [] else
    ((List.range (1025 - n)).filter fun f => !held.any fun h => decide (h.1 = a) && meets h.2.1 h.2.2 f n).map fun f => (a, f)

/-- The free entries of a region table. -/
def Core.freeEntries (c : Core) : List Nat := (List.range 128).filter fun e => !(c.region e).v

/-- The generation after a creation (R171). -/
def nextGen (g : Nat) : Nat := if g = 0xFFFF then 1 else g + 1

/-- `rgreq` create (R364, R171): which free run and entry it takes is left open. -/
def rgCreate (ctx : Nat) (v : Word) : M Unit := do
  let f ← takeFresh
  let s ← get
  let core := bf v 40 32
  let arr := bf v 61 59
  let n := bf v 57 48 + 1
  failIf (decide (4 < arr) || decide (319 < core) || !bit (s.sr ctx 384) (gsegOf core)) { code := 0x05 }
  let c := s.coreAt core
  let runs := c.freeRuns arr n
  let ents := c.freeEntries
  let why (w : Nat) : M Unit := set (s.setSr ctx 393 (BitVec.ofNat 64 (w * 2 ^ 56)))
  if bf (s.sr ctx 385) 23 0 < s.rowsHeld ctx + 8 * n then why 1
  else if runs = [] then why 2
  else if ents = [] then why 3
  else
    let k := Config.freeNat f
    let run := runs.getD (k % runs.length) (0, 0)
    let ent := ents.getD (k / runs.length % ents.length) 0
    let g := nextGen (c.region ent).gen
    let r : Region := { v := true, ctx := ctx, arr := run.1, first := run.2, len := n - 1, gen := g }
    let c := { c with rows := c.rows.splice 0 r.base r.rows fun _ => 0, badRow := c.badRow.splice false (8 * r.base) (8 * r.rows) fun _ => false }
    let h := core * 2 ^ 23 + ent * 2 ^ 16 + g
    set ((s.setCore core (c.setRegion ent r)).setSr ctx 393 (BitVec.ofNat 64 h))

/-- The region that a handle in `rgreq` names, or 0x05 (R364); an `arr` of 5 to 7 raises 0x05 too (R363). -/
def rgNamed (ctx : Nat) (v : Word) : M (Nat × Region) := do
  let s ← get
  failIf (decide (4 < bf v 61 59)) { code := 0x05 }
  let h := bf v 31 0
  match (s.coreAt (hCore h)).regionOf? (hCore h) ctx h with
  | some r => pure (h, r)
  | none => fail { code := 0x05 }

/-- `rgreq` release (R364, R171). -/
def rgRelease (ctx : Nat) (v : Word) : M Unit := do
  let p ← rgNamed ctx v
  modify fun s => s.updCore (hCore p.1) fun c => c.setRegion (hEnt p.1) { p.2 with v := false }

/-- `rgreq` bind (R364, R298). -/
def rgBind (ctx : Nat) (v : Word) : M Unit := do
  let p ← rgNamed ctx v
  let s ← get
  let b := s.sr ctx 394
  if bindV b then
    failIf (decide (bindCap b < 6) || decide (47 < bindUnit b)) { code := 0x05 }
    failIf (!s.storeOk b) { code := 0x16 }
    match s.entry? (bindBase b) with
    | some e => failIf (decide (e.ctx ≠ ctx) || decide ((Config.hbmStack (e.frame + bindBase b % e.size)).val ≠ bindUnit b / 4)) { code := 0x05 }
    | none => fail { code := 0x16 }
  modify fun s => s.updCore (hCore p.1) fun c => c.setRegion (hEnt p.1) { p.2 with bind := b }

/-- A write of `rgreq` (R364). -/
def writeRgreq (by_ : SrBy) (v : Word) : M Unit := do
  let op := bf v 63 62
  if op = 0 then rgCreate by_.ctx v
  else if op = 1 then rgRelease by_.ctx v
  else if op = 2 then rgBind by_.ctx v
  else fail { code := 0x05 }
  modify fun s => s.setSr by_.ctx 392 (srKept 392 v)

/-- A write of `tqsel` (R364). -/
def writeTqsel (by_ : SrBy) (v : Word) : M Unit := do
  let q := bf v 7 0
  let w := (← get).queueWord q
  failIf (!bit w 63 || decide (bf w 55 50 ≠ by_.ctx)) { code := 0x05 }
  modify fun s => s.setSr by_.ctx 395 (BitVec.ofNat 64 q)

/-- A write of `stbase`, `stcnt` or `sqbase`, registers 320 to 322 (R341). -/
def writeStbase (by_ : SrBy) (n : Nat) (v : Word) : M Unit := do
  failIf (decide ((← get).slotsUsed by_.ctx ≠ 0)) { code := 0x05 }
  modify fun s => s.setSr by_.ctx n (srKept n v)

/-- A write of `trbase` (R379). -/
def writeTrbase (by_ : SrBy) (v : Word) : M Unit := do
  if bit v 0 then checkArea by_.ctx (bf v 55 19 * 2 ^ 19) (324 * 1024)
  modify fun s => s.setSr by_.ctx 128 (srKept 128 v)

/-- A write of `svbase` or `svstride`, registers 132 and 133 (R379). -/
def writeSvbase (by_ : SrBy) (n : Nat) (v : Word) : M Unit := do
  let s ← get
  failIf (s.othersLive by_) { code := 0x05 }
  if n = 132 ∧ bit v 0 then checkArea by_.ctx (bf v 55 21 * 2 ^ 21) (320 * s.saveStride by_.ctx)
  modify fun s => s.setSr by_.ctx n (srKept n v)

/-- Registers lo to lo + n - 1 of a context become zero. -/
def clearSr (ctx lo n : Nat) : M Unit := modify fun s => (List.range n).foldl (fun s i => s.setSr ctx (lo + i) 0) s

/-- A write of `pmreq` (R384): the result is in `pmres` when it completes. -/
def writePmreq (by_ : SrBy) (v : Word) : M Unit := do
  modify fun s => s.setSr by_.ctx 134 (srKept 134 v)
  let r ← preempt by_.ctx (bf v 8 0)
  modify fun s => s.setSr by_.ctx 135 (BitVec.ofNat 64 r)

/-- A write of a special register of a context (R100, and the rule of each register). -/
def writeCtxReg (by_ : SrBy) (n : Nat) (v : Word) : M Unit := do
  if (104 ≤ n ∧ n < 110) ∨ n = 121 ∨ n = 197 then clearSr by_.ctx n 1
  else if n = 128 then writeTrbase by_ v
  else if n = 132 ∨ n = 133 then writeSvbase by_ n v
  else if n = 134 then writePmreq by_ v
  else if n = 136 ∨ n = 137 then clearSr by_.ctx 136 2
  else if n = 184 then clearSr by_.ctx 184 3
  else if n = 185 ∨ n = 186 then modify fun s => s.setSr by_.ctx n (if n = 185 then v &&& 0xFFFFFFFF else v)
  else if n = 192 then writeDike by_ v
  else if n = 196 then writeFtop by_ v
  else if 320 ≤ n ∧ n < 323 then writeStbase by_ n v
  else if n = 390 ∨ n = 391 then clearSr by_.ctx 390 2
  else if n = 392 then writeRgreq by_ v
  else if n = 395 then writeTqsel by_ v
  else modify fun s => s.setSr by_.ctx n (srKept n v)

/-- A register of Table 15.4, 6.6 or 14.2, every access of a user task to which raises 0x02 (R379, R167, R363). -/
def srFenced (n : Nat) : Bool := (decide (128 ≤ n) && decide (n < 192)) || decide (384 ≤ n)

/-- The level that a special register asks for (R100): an undefined number and a write of a read-only register raise 0x01, a user
task's access to a register marked supervisor 0x02. DEDUCED (log entry 107): of the fenced registers every access of a user task
raises 0x02, its write of a read-only one too. -/
def srRights (core n : Nat) (write : Bool) : M Unit := do
  failIf (!srDefined n) { code := 0x01 }
  if srFenced n then needSup core
  failIf (write && srReadOnly n) { code := 0x01 }
  if srSupervisor n then needSup core

/-- `mfs` of register N (R100). -/
def mfsM (d n core : Nat) : M Unit := do
  srRights core n false
  let v ← readSr core n
  modify fun s => s.wrS d v

/-- `mts` of register N (R100). A pre-emption may take the executing task itself, which then goes on at the next word. -/
def mtsM (a n : Nat) : M Unit := do
  let core ← onCore
  srRights core n true
  let s ← get
  let v := s.rdS a
  let by_ : SrBy := { ctx := s.coreCtx core, core := some core }
  if n = 134 then
    nextWord
    writePmreq by_ v
  else
    if n = 16 then modify fun s => s.updCore core fun c => { c with nmode := v &&& 1 }
    else if n < 96 then writeBfmt core (n - 64) v
    else writeCtxReg by_ n v
    nextWord

def execMfs (d n m : Nat) (s : State) : Out := runAC (mfsM d (8 * n + m)) s
def execMts (a n m : Nat) (s : State) : Out := runM (mtsM a (8 * n + m)) s

def execPmreqWrite (ctx v : Nat) (s : State) : Out := runLive (writePmreq { ctx := ctx } (BitVec.ofNat 64 v)) s
def execRegionCreate (ctx v : Nat) (s : State) : Out := runLive (rgCreate ctx (BitVec.ofNat 64 v)) s
def execRegionRelease (ctx v : Nat) (s : State) : Out := runLive (rgRelease ctx (BitVec.ofNat 64 v)) s
def execRegionBind (ctx v : Nat) (s : State) : Out := runLive (rgBind ctx (BitVec.ofNat 64 v)) s
def execTqselWrite (ctx v : Nat) (s : State) : Out := runLive (writeTqsel { ctx := ctx } (BitVec.ofNat 64 v)) s
def execDikeWrite (ctx v : Nat) (s : State) : Out := runLive (writeDike { ctx := ctx } (BitVec.ofNat 64 v)) s
def execFtopWrite (ctx v : Nat) (s : State) : Out := runLive (writeFtop { ctx := ctx } (BitVec.ofNat 64 v)) s

/-- The write of a bank format by a core's task (R87). -/
def execBfmtWrite (core n v : Nat) (s : State) : Out := runLive (writeBfmt core (n % 24) (BitVec.ofNat 64 v)) s

/-- The write of window register n, 0 to 63 (R201, R203). -/
def execWindowWrite (ctx n v : Nat) (s : State) : Out := runLive (writeCtxReg { ctx := ctx } (256 + n % 64) (BitVec.ofNat 64 v)) s

/-- The write of `stbase`, `stcnt` or `sqbase`, numbered 0 to 2 (R341). -/
def execStbaseWrite (ctx n v : Nat) (s : State) : Out := runLive (writeStbase { ctx := ctx } (320 + n % 3) (BitVec.ofNat 64 v)) s
def execTrbaseWrite (ctx v : Nat) (s : State) : Out := runLive (writeTrbase { ctx := ctx } (BitVec.ofNat 64 v)) s

/-- The write of `svbase` or `svstride`, numbered 0 and 1 (R379). -/
def execSvbaseWrite (ctx n v : Nat) (s : State) : Out := runLive (writeSvbase { ctx := ctx } (132 + n % 2) (BitVec.ofNat 64 v)) s
def execEvtotClear (ctx c : Nat) (s : State) : Out := runLive (clearSr ctx (104 + c % 6) 1) s
def execReplcClear (ctx : Nat) (s : State) : Out := runLive (clearSr ctx 121 1) s
def execZslogClear (ctx : Nat) (s : State) : Out := runLive (clearSr ctx 184 3) s
def execVlogClear (ctx : Nat) (s : State) : Out := runLive (clearSr ctx 390 2) s
def execMclogClear (ctx : Nat) (s : State) : Out := runLive (clearSr ctx 136 2) s
def execHintrepClear (ctx : Nat) (s : State) : Out := runLive (clearSr ctx 197 1) s

end Sys2Proof.Machine
end

