-- ==== Sys2Proof/Machine/AMem.lean ====
section
/-! DEFINITION. The A-stream's accesses: scalar loads and stores (R228), vector loads (R230, R231), queue pushes and pops
(R232), loop registers (R135), copy commands and their handles (R242 to R251), fences and waits (R254, R255), stash windows,
discards, migrations and pins (R256 to R260). A base-die sequencer executes the loads, stores and fences too. -/

namespace Sys2Proof.Machine

/-- The offset of format M: off scaled by the size (R43). -/
def memOff (sz o : Nat) : Word := sext 10 o * BitVec.ofNat 64 sz

/-- ea of R228. -/
def memEa (m : Nat) (base n : Word) : Nat := (if m = 1 then base else base + n).toNat

/-- The base register after an increment mode (R228). -/
def bumpBase (m a : Nat) (base n : Word) (s : State) : State := if m = 0 then s else s.wrS a (base + n)

/-- A scalar load of sz bytes (R228). -/
def loadM (sz : Nat) (signed : Bool) (d a m o : Nat) : M Unit := do
  let s ← get
  let base := s.rdS a
  let n := memOff sz o
  let bs ← loadVa s.req (memEa m base n) sz true
  let x := leNat bs
  modify fun s => bumpBase m a base n (s.wrS d (if signed then sext (8 * sz) x else BitVec.ofNat 64 x))

/-- A scalar store of sz bytes (R228). -/
def storeM (sz d a m o : Nat) : M Unit := do
  let s ← get
  let base := s.rdS a
  let n := memOff sz o
  storeVa s.req (memEa m base n) (leBytes sz (s.rdS d).toNat)
  modify fun s => bumpBase m a base n s

def execLdB (d a m o : Nat) (s : State) : Out := runA (loadM 1 false d a m o) s
def execLdH (d a m o : Nat) (s : State) : Out := runA (loadM 2 false d a m o) s
def execLdW (d a m o : Nat) (s : State) : Out := runA (loadM 4 false d a m o) s
def execLdD (d a m o : Nat) (s : State) : Out := runA (loadM 8 false d a m o) s
def execLdBs (d a m o : Nat) (s : State) : Out := runA (loadM 1 true d a m o) s
def execLdHs (d a m o : Nat) (s : State) : Out := runA (loadM 2 true d a m o) s
def execLdWs (d a m o : Nat) (s : State) : Out := runA (loadM 4 true d a m o) s
def execStB (d a m o : Nat) (s : State) : Out := runA (storeM 1 d a m o) s
def execStH (d a m o : Nat) (s : State) : Out := runA (storeM 2 d a m o) s
def execStW (d a m o : Nat) (s : State) : Out := runA (storeM 4 d a m o) s
def execStD (d a m o : Nat) (s : State) : Out := runA (storeM 8 d a m o) s

/-- A vector load into `qv`q of the words at the addresses (R230, R231): alignment, translation of every lane in ascending
order, a free entry, then the grants and the reads, lane by lane with stores of other agents between. -/
def vloadM (core q : Nat) (addrs : List Nat) (bcast : Bool) : M Unit := do
  let r := (← get).req
  failIf (addrs.any fun a => decide (a % 4 ≠ 0)) { code := 0x05, va := addrs.find? fun a => decide (a % 4 ≠ 0) }
  addrs.forM fun a => do let _ ← translate r a 4 { r := true }
  let c := (← get).coreAt core
  if 8 ≤ (c.q.qv.get [] q).length then stall (.full q)
  let xs ← addrs.mapM fun a => do
    letPerform
    let bs ← loadVa r a 4 false
    pure (leNat bs)
  let lane (l : Nat) : Lane := BitVec.ofNat 32 (xs.getD (if bcast then 0 else l) 0)
  let e : VEntry := { lanes := Sparse.ofFn 0 lane 0 1024, ready := false }
  modify fun s => s.updCore core fun c => { c with q := { c.q with qv := c.q.qv.set [] q (c.q.qv.get [] q ++ [e]) } }

/-- Lane addresses: S[a] + l × step. -/
def laneAddrs (base step : Word) : List Nat := (List.range 1024).map fun l => (base + BitVec.ofNat 64 l * step).toNat

def execVld (q a : Nat) (s : State) : Out := runAC (fun c => vloadM c q (laneAddrs (s.rdS a) 4) false) s
def execVldS (q a b : Nat) (s : State) : Out := runAC (fun c => vloadM c q (laneAddrs (s.rdS a) (s.rdS b)) false) s
def execVldBc (q a : Nat) (s : State) : Out := runAC (fun c => vloadM c q [(s.rdS a).toNat] true) s

/-- `qpush` (R232, R15): queue 0, 1 or 2 for `qs0`, `qs1`, `qz1`. -/
def qpushM (q a core : Nat) : M Unit := do
  let s ← get
  let c := s.coreAt core
  let v := s.rdS a
  if q < 2 then
    let l := c.q.qs.get [] q
    if 16 ≤ l.length then stall (.full (4 + q))
    set (s.setCore core { c with q := { c.q with qs := c.q.qs.set [] q (l ++ [v]) } })
  else
    if 16 ≤ c.q.qz1.length then stall (.full 9)
    set (s.setCore core { c with q := { c.q with qz1 := c.q.qz1 ++ [v.truncate 32] } })

/-- `qpop` (R232, R15): queue 0, 1 or 2 for `qx0`, `qx1`, `qy0`. -/
def qpopM (d q core : Nat) : M Unit := do
  let s ← get
  let c := s.coreAt core
  if q < 2 then
    match c.q.qx.get [] q with
    | [] => stall (.empty (6 + q))
    | v :: l => set ((s.setCore core ({ c with q := { c.q with qx := c.q.qx.set [] q l } }.popMarks (6 + q) 1)).wrS d v)
  else
    match c.q.qy0 with
    | [] => stall (.empty 10)
    | v :: l => set ((s.setCore core ({ c with q := { c.q with qy0 := l } }.popMarks 10 1)).wrS d (v.setWidth 64))

def execQpush (q a : Nat) (s : State) : Out := runAC (qpushM q a) s
def execQpop (d q : Nat) (s : State) : Out := runAC (qpopM d q) s

/-- `wlc` (R135). -/
def wlcM (n a core : Nat) : M Unit := modify fun s =>
  s.updCore core fun c => { c with lc := c.lc.set 0 n (s.rdS a) }.fresh [64 + n]

def execWlc (n a : Nat) (s : State) : Out := runAC (wlcM n a) s

def execCopy (d a b y x sc : Nat) (s : State) : Out := runAC (fun _ => issueCopy 0 x y sc d a b) s
def execGather (d a b y x sc : Nat) (s : State) : Out := runAC (fun _ => issueCopy 1 x y sc d a b) s
def execScatter (d a b y x sc : Nat) (s : State) : Out := runAC (fun _ => issueCopy 2 x y sc d a b) s
def execRcopy (d a b y x sc : Nat) (s : State) : Out := runAC (fun _ => issueCopy 3 x y sc d a b) s
def execCopyMma (d a b y x sc : Nat) (s : State) : Out := runAC (fun _ => issueCopy 4 x y sc d a b) s

/-- The engine slot of a handle whose command is still the slot's own; none for an earlier generation (R249). A handle with
bits 63:32 set raises 0x05 (R250). -/
def handleSlot (core a : Nat) : M (Option Nat) := do
  let s ← get
  let h := (s.rdS a).toNat
  failIf (decide (2 ^ 32 ≤ h)) { code := 0x05 }
  pure (if h / 64 ≠ 0 ∧ ((s.coreAt core).eng.get {} (h % 64)).gen = h / 64 then some (h % 64) else none)

/-- `cancel` of a command in flight (R250): it writes nothing more, its destination is undefined, its tile empty. -/
def cancelCmd (core slot : Nat) : M Unit := do
  match ((← get).eslot core slot).cmd with
  | none => pure ()
  | some cmd =>
    scrambleDst core slot cmd
    modify fun s =>
      let s := s.updCore core fun c => c.dropCmd slot cmd
      s.setEslot core slot { s.eslot core slot with st := .cancelled, cmd := none }

def cancelM (a core : Nat) : M Unit := do
  match ← handleSlot core a with
  | none => pure ()
  | some slot => cancelCmd core slot

def hwaitM (a core : Nat) : M Unit := do
  match ← handleSlot core a with
  | none => pure ()
  | some slot => if ((← get).eslot core slot).st = .flight then stall (.flight slot)

def htestM (d a core : Nat) : M Unit := do
  let r ← handleSlot core a
  modify fun s => s.wrS d (match r with
    | none => 1
    | some slot => match (s.eslot core slot).st with
      | .flight => 0
      | .cancelled => 2
      | .stopped => 2
      | _ => 1)

def execCancel (a : Nat) (s : State) : Out := runAC (cancelM a) s
def execHwait (a : Nat) (s : State) : Out := runAC (hwaitM a) s
def execHtest (d a : Nat) (s : State) : Out := runAC (htestM d a) s

/-- A release mark of an agent, as it waits among the agent's stores (R266). -/
def State.markPend (s : State) (q : Req) : Pend :=
  { agent := q.ag, kind := q.kind, num := q.agent, ctx := q.ctx, ia := 0, data := [], ord := 3, no := s.issued, epoch := s.qepoch }

/-- `fence.rel` (R254, R266): a mark that the agent's earlier strong and release accesses pass before its later stores; at a
scope with the host or peers it waits for its writes there (R275). -/
def fenceRelM (sc : Nat) : M Unit := do
  let q := (← get).req
  if 5 ≤ sc then release q sc
  else
    if 2 ≤ sc ∧ q.isCore then stashFlush q.ag
    modify fun s =>
      if s.pend.any fun p => decide (p.agent = q.ag) then { s with pend := s.pend ++ [s.markPend q] } else s

def fenceAcqM (sc : Nat) : M Unit := do acquire (← get).req sc

def fenceArM (sc : Nat) : M Unit := do
  fenceRelM sc
  fenceAcqM sc

/-- `fence.drain` (R254). -/
def fenceDrainM (sc : Nat) : M Unit := do
  let q := (← get).req
  settleAll q.ag
  if q.isCore then
    let s ← get
    match (List.range 64).find? fun i => decide ((s.eslot q.ag i).st = .flight) with
    | some i => throw (.pause (.flight i))
    | none => pure ()
  release q sc
  acquire q sc

def execFenceAcq (sc : Nat) (s : State) : Out := runA (fenceAcqM sc) s
def execFenceRel (sc : Nat) (s : State) : Out := runA (fenceRelM sc) s
def execFenceAr (sc : Nat) (s : State) : Out := runA (fenceArM sc) s
def execFenceDrain (sc : Nat) (s : State) : Out := runA (fenceDrainM sc) s

/-- x cc y of `waitw` (R255). -/
def waitCond (cc : Nat) (x y : Word) : Bool :=
  match cc with
  | 0 => decide (x = y)
  | 1 => decide (x ≠ y)
  | 2 => decide (y.toNat ≤ x.toNat)
  | _ => decide (x.toNat < y.toNat)

/-- A wait ends with a result. -/
def waitDone (core d : Nat) (v : Word) : M Unit :=
  modify fun s => (s.updCore core fun c => { c with waitw := none }).wrS d v

/-- The intermediate address of the word of a core's `waitw` (R255): translated once, when the wait starts (R203). -/
def waitwAddr (a core : Nat) : M Nat := do
  let s ← get
  match (s.coreAt core).waitw.bind Waitw.ia with
  | some ia => pure ia
  | none =>
    let va := (s.rdS a).toNat
    failIf (decide (va % 8 ≠ 0)) { code := 0x05, va := some va }
    translate s.req va 8 { r := true }

/-- `waitw` (R255): one look at the word; it goes on waiting as an operation in flight. -/
def waitwM (cc d a b core : Nat) : M Unit := do
  let ia ← waitwAddr a core
  let s ← get
  let q := s.req
  let w : Waitw := ((s.coreAt core).waitw.getD
    { since := s.dtime, limit := (s.rdS d).toNat, cc := cc, d := d, a := a, b := b })
  let x ← seenAll q (← grantAll q (s.rdS a).toNat ia 8 .read)
  if waitCond cc (BitVec.ofNat 64 (leNat x)) (s.rdS b) then
    waitDone core d 1
    acquire q 4
  else if w.limit ≠ 0 ∧ w.limit ≤ s.dtime - w.since then waitDone core d 0
  else
    modify fun s => s.updCore core fun c => { c with waitw := some { w with ia := some ia } }
    throw (.pause (.flight 0))

def execWaitwEq (d a b : Nat) (s : State) : Out := runAC (waitwM 0 d a b) s
def execWaitwNe (d a b : Nat) (s : State) : Out := runAC (waitwM 1 d a b) s
def execWaitwGeu (d a b : Nat) (s : State) : Out := runAC (waitwM 2 d a b) s
def execWaitwLtu (d a b : Nat) (s : State) : Out := runAC (waitwM 3 d a b) s

/-- A stash window's dirty lines go back, and its bank is free again (R257). -/
def unmapStash (core : Nat) (w : StashWin) : M Unit := do
  ((← get).coreAt core).stLine.forM fun e =>
    match e.2 with
    | some l => if e.1 / 1024 = w.bank ∧ l.dirty then stashClean core e.1 l else pure ()
    | none => pure ()
  modify fun s => s.updCore core fun c => { c with
    stash := c.stash.filter fun x => decide (x ≠ w)
    stLine := c.stLine.splice none (1024 * w.bank) 1024 fun _ => none }

/-- The free stash banks of a core, from the highest down (R28, R257). -/
def Core.freeBanks (c : Core) : List Nat :=
  match c.task with
  | some t => ((List.range (t.stashBytes / 131072)).map (23 - ·)).filter fun b => !c.stash.any fun w => decide (w.bank = b)
  | none => []

/-- `resv` (R257). The bound counts whole banks of the rounded stash; a fill beyond the declared bytes of the last one raises 0x03 of its
own (R29, log entry 106). -/
def resvM (d a b core : Nat) : M Unit := do
  let s ← get
  let va := (s.rdS a).toNat
  let l := (s.rdS b).toNat
  if l = 0 then
    match (s.coreAt core).stashWin? va with
    | some w => unmapStash core w
    | none => pure ()
  else
    failIf (decide (va % 131072 ≠ 0) || decide (l % 131072 ≠ 0)) { code := 0x05, va := some va }
    let _ ← translate s.req va l { r := true }
    let c := s.coreAt core
    let n := l / 131072
    let declared := match c.task with | some t => t.stashBytes / 131072 | none => 0
    failIf (decide (declared < c.stash.length + n + (c.heldBytes + 131071) / 131072)) { code := 0x03, det := 6 }
    failIf (c.stash.any fun w => meets w.va 131072 va l) { code := 0x05, va := some va }
    let ws := (c.freeBanks.take n).zipIdx.map fun x => (⟨va + 131072 * x.2, x.1⟩ : StashWin)
    modify fun s => s.updCore core fun c => { c with stash := c.stash ++ ws }
  modify fun s => s.wrS d (BitVec.ofNat 64 (s.coreAt core).stash.length)

/-- f of i, i + 1, … in turn, n of them. -/
def forSpan (f : Nat → M Unit) : Nat → Nat → M Unit
  | _, 0 => pure ()
  | i, n + 1 => do
    f i
    forSpan f (i + 1) n

/-- Answers of f of i, i + 1, … in turn, n of them. -/
def mapSpan {α : Type} (f : Nat → M α) : Nat → Nat → M (List α)
  | _, 0 => pure []
  | i, n + 1 => do
    let x ← f i
    let xs ← mapSpan f (i + 1) n
    pure (x :: xs)

/-- The intermediate addresses of the 4 KiB pieces that n bytes from va touch, each translated with p. -/
def spanPieces (q : Req) (va n : Nat) (p : Perm) : M (List Nat) :=
  if n = 0 then pure [] else
  mapSpan (fun i => translate q (max va (4096 * i)) (min (va + n) (4096 * (i + 1)) - max va (4096 * i)) p)
    (va / 4096) ((va + n - 1) / 4096 + 1 - va / 4096)

/-- `disc` (R258, R215): the lines, after the release, the translations and the look at every page. -/
def discM (d a b sc core : Nat) : M Unit := do
  let s ← get
  let q := s.req
  let va := (s.rdS a).toNat
  let n := (s.rdS b).toNat
  failIf (decide (va % 128 ≠ 0) || decide (n % 128 ≠ 0)) { code := 0x05, va := some va }
  resumeFlush core
  release q sc
  let ps ← spanPieces q va n { w := true }
  ps.forM fun ia => do
    match (← get).entry? ia with
    | some e =>
      if !e.absent && decide (e.ctx ≠ q.ctx) then
        modify fun s => s.violate q.ctx q.kind q.agent ia
        fail { code := 0x05, ia := some ia }
    | none => pure ()
  let ls := ps.flatMap fun ia =>
    let lo := ia / 128
    (List.range ((min (ia / 4096 * 4096 + 4096) (ia + n) + 127) / 128 - lo)).map fun i => 128 * (lo + i)
  let ls := ls.take (n / 128)
  if ((← get).coreAt core).inRegion then
    modify fun s => s.updCore core fun c => { c with held := c.held ++ [.disc d ls] }
  else
    let k ← discardLines q ls
    modify fun s => s.wrS d (BitVec.ofNat 64 k)

/-- The blocks of a page have no room on a die that would become its home (R210). -/
def State.noRoom (s : State) (e : Entry) (ia t : Nat) : Bool :=
  let d := if s.reduced then 0 else t
  decide (6144 < s.dieBlocks d + ((e.pieces ia).filter fun b => decide (s.blocks.get 0 b ≠ 0 ∧ s.blocks.get 0 b ≠ d + 1)).length)

/-- `migr` (R259, R216): a page all of whose pieces have the die as their home stays; one whose blocks the die has no room for waits
until there is (log entry 91), for other contexts' blocks may lengthen the wait alone (R372). -/
def migrM (d a b sc : Nat) : M Unit := do
  let s ← get
  let q := s.req
  let va := (s.rdS a).toNat
  release q sc
  let ia ← translate q va 1 { w := true }
  failIf (decide (11 < (s.rdS b).toNat)) { code := 0x05, va := some va }
  match (← get).entry? ia with
  | none => fail { code := 0x05, va := some va, ia := some ia }
  | some e =>
    failIf (!e.v || decide (e.ctx ≠ q.ctx)) { code := 0x05, va := some va, ia := some ia }
    let t := (s.rdS b).toNat
    let s ← get
    if (e.pieces ia).all (fun b => decide (s.homeOf e (65536 * b) = t)) then modify fun s => s.wrS d 0
    else if s.noRoom e ia t then stall (.flight 0)
    else
      settleFor q ia true
      settlePage e ia
      modify fun s => (s.migratePage e ia t).wrS d 1

/-- `pin` and `unpin` (R260), each ordered as a store to the pages that it changes (R256). -/
def pinM (on : Bool) (d a b : Nat) : M Unit := do
  let s ← get
  let q := s.req
  let va := (s.rdS a).toNat
  let ps ← spanPieces q va (s.rdS b).toNat { r := true }
  ps.forM fun ia => do
    match (← get).entry? ia with
    | none => fail { code := 0x05, ia := some ia }
    | some e => failIf (!e.v || decide (e.ctx ≠ q.ctx)) { code := 0x05, ia := some ia }
  let pages := (ps.filterMap fun ia => (s.entry? ia).map fun e => e.page ia).eraseDups
  let n ← pages.foldlM (fun n pg => do
    match (← get).entry? pg with
    | some e =>
      if e.isPolder || e.cc || e.pin == on then pure n
      else
        settleFor q pg true
        settlePage e pg
        modify fun s => s.putEntry pg e (setBf e.e0 54 54 (if on then 1 else 0)) e.e1
        pure (n + 1)
    | none => pure n) 0
  modify fun s => s.wrS d (BitVec.ofNat 64 n)

def execResv (d a b : Nat) (s : State) : Out := runAC (resvM d a b) s
def execDisc (d a b sc : Nat) (s : State) : Out := runAC (discM d a b sc) s
def execMigr (d a b sc : Nat) (s : State) : Out := runAC (fun _ => migrM d a b sc) s
def execPin (d a b : Nat) (s : State) : Out := runAC (fun _ => pinM true d a b) s
def execUnpin (d a b : Nat) (s : State) : Out := runAC (fun _ => pinM false d a b) s

end Sys2Proof.Machine
end

