-- ==== Sys2Proof/Machine/Amo.lean ====
section
/-! DEFINITION. The atomics (R252, R253, Table 2.4): for each operation its four orders. The width is 64 bits, or 32 with the
width bit; the FP32 operations have 32. -/

namespace Sys2Proof.Machine

/-- The width in bits that the width bit of an atomic selects. -/
def amoWidth (w : Nat) : Nat := if w = 1 then 32 else 64

def execAmoAddRlx (d a b w sc : Nat) (s : State) : Out := runA (amoM 0 (amoWidth w) false false sc d a b) s
def execAmoAndRlx (d a b w sc : Nat) (s : State) : Out := runA (amoM 1 (amoWidth w) false false sc d a b) s
def execAmoOrRlx (d a b w sc : Nat) (s : State) : Out := runA (amoM 2 (amoWidth w) false false sc d a b) s
def execAmoXorRlx (d a b w sc : Nat) (s : State) : Out := runA (amoM 3 (amoWidth w) false false sc d a b) s
def execAmoMinRlx (d a b w sc : Nat) (s : State) : Out := runA (amoM 4 (amoWidth w) false false sc d a b) s
def execAmoMaxRlx (d a b w sc : Nat) (s : State) : Out := runA (amoM 5 (amoWidth w) false false sc d a b) s
def execAmoMinuRlx (d a b w sc : Nat) (s : State) : Out := runA (amoM 6 (amoWidth w) false false sc d a b) s
def execAmoMaxuRlx (d a b w sc : Nat) (s : State) : Out := runA (amoM 7 (amoWidth w) false false sc d a b) s
def execAmoSwapRlx (d a b w sc : Nat) (s : State) : Out := runA (amoM 8 (amoWidth w) false false sc d a b) s
def execAmoCasRlx (d a b w sc : Nat) (s : State) : Out := runA (amoM 9 (amoWidth w) false false sc d a b) s
def execAmoFaddRlx (d a b sc : Nat) (s : State) : Out := runA (amoM 10 32 false false sc d a b) s
def execAmoFmaxRlx (d a b sc : Nat) (s : State) : Out := runA (amoM 11 32 false false sc d a b) s
def execAmoFminRlx (d a b sc : Nat) (s : State) : Out := runA (amoM 12 32 false false sc d a b) s
def execAmoAddAcq (d a b w sc : Nat) (s : State) : Out := runA (amoM 0 (amoWidth w) true false sc d a b) s
def execAmoAndAcq (d a b w sc : Nat) (s : State) : Out := runA (amoM 1 (amoWidth w) true false sc d a b) s
def execAmoOrAcq (d a b w sc : Nat) (s : State) : Out := runA (amoM 2 (amoWidth w) true false sc d a b) s
def execAmoXorAcq (d a b w sc : Nat) (s : State) : Out := runA (amoM 3 (amoWidth w) true false sc d a b) s
def execAmoMinAcq (d a b w sc : Nat) (s : State) : Out := runA (amoM 4 (amoWidth w) true false sc d a b) s
def execAmoMaxAcq (d a b w sc : Nat) (s : State) : Out := runA (amoM 5 (amoWidth w) true false sc d a b) s
def execAmoMinuAcq (d a b w sc : Nat) (s : State) : Out := runA (amoM 6 (amoWidth w) true false sc d a b) s
def execAmoMaxuAcq (d a b w sc : Nat) (s : State) : Out := runA (amoM 7 (amoWidth w) true false sc d a b) s
def execAmoSwapAcq (d a b w sc : Nat) (s : State) : Out := runA (amoM 8 (amoWidth w) true false sc d a b) s
def execAmoCasAcq (d a b w sc : Nat) (s : State) : Out := runA (amoM 9 (amoWidth w) true false sc d a b) s
def execAmoFaddAcq (d a b sc : Nat) (s : State) : Out := runA (amoM 10 32 true false sc d a b) s
def execAmoFmaxAcq (d a b sc : Nat) (s : State) : Out := runA (amoM 11 32 true false sc d a b) s
def execAmoFminAcq (d a b sc : Nat) (s : State) : Out := runA (amoM 12 32 true false sc d a b) s
def execAmoAddRel (d a b w sc : Nat) (s : State) : Out := runA (amoM 0 (amoWidth w) false true sc d a b) s
def execAmoAndRel (d a b w sc : Nat) (s : State) : Out := runA (amoM 1 (amoWidth w) false true sc d a b) s
def execAmoOrRel (d a b w sc : Nat) (s : State) : Out := runA (amoM 2 (amoWidth w) false true sc d a b) s
def execAmoXorRel (d a b w sc : Nat) (s : State) : Out := runA (amoM 3 (amoWidth w) false true sc d a b) s
def execAmoMinRel (d a b w sc : Nat) (s : State) : Out := runA (amoM 4 (amoWidth w) false true sc d a b) s
def execAmoMaxRel (d a b w sc : Nat) (s : State) : Out := runA (amoM 5 (amoWidth w) false true sc d a b) s
def execAmoMinuRel (d a b w sc : Nat) (s : State) : Out := runA (amoM 6 (amoWidth w) false true sc d a b) s
def execAmoMaxuRel (d a b w sc : Nat) (s : State) : Out := runA (amoM 7 (amoWidth w) false true sc d a b) s
def execAmoSwapRel (d a b w sc : Nat) (s : State) : Out := runA (amoM 8 (amoWidth w) false true sc d a b) s
def execAmoCasRel (d a b w sc : Nat) (s : State) : Out := runA (amoM 9 (amoWidth w) false true sc d a b) s
def execAmoFaddRel (d a b sc : Nat) (s : State) : Out := runA (amoM 10 32 false true sc d a b) s
def execAmoFmaxRel (d a b sc : Nat) (s : State) : Out := runA (amoM 11 32 false true sc d a b) s
def execAmoFminRel (d a b sc : Nat) (s : State) : Out := runA (amoM 12 32 false true sc d a b) s
def execAmoAddRc (d a b w sc : Nat) (s : State) : Out := runA (amoM 0 (amoWidth w) true true sc d a b) s
def execAmoAndRc (d a b w sc : Nat) (s : State) : Out := runA (amoM 1 (amoWidth w) true true sc d a b) s
def execAmoOrRc (d a b w sc : Nat) (s : State) : Out := runA (amoM 2 (amoWidth w) true true sc d a b) s
def execAmoXorRc (d a b w sc : Nat) (s : State) : Out := runA (amoM 3 (amoWidth w) true true sc d a b) s
def execAmoMinRc (d a b w sc : Nat) (s : State) : Out := runA (amoM 4 (amoWidth w) true true sc d a b) s
def execAmoMaxRc (d a b w sc : Nat) (s : State) : Out := runA (amoM 5 (amoWidth w) true true sc d a b) s
def execAmoMinuRc (d a b w sc : Nat) (s : State) : Out := runA (amoM 6 (amoWidth w) true true sc d a b) s
def execAmoMaxuRc (d a b w sc : Nat) (s : State) : Out := runA (amoM 7 (amoWidth w) true true sc d a b) s
def execAmoSwapRc (d a b w sc : Nat) (s : State) : Out := runA (amoM 8 (amoWidth w) true true sc d a b) s
def execAmoCasRc (d a b w sc : Nat) (s : State) : Out := runA (amoM 9 (amoWidth w) true true sc d a b) s
def execAmoFaddRc (d a b sc : Nat) (s : State) : Out := runA (amoM 10 32 true true sc d a b) s
def execAmoFmaxRc (d a b sc : Nat) (s : State) : Out := runA (amoM 11 32 true true sc d a b) s
def execAmoFminRc (d a b sc : Nat) (s : State) : Out := runA (amoM 12 32 true true sc d a b) s

end Sys2Proof.Machine
end

