-- ==== Sys2Proof/Machine/Tier.lean ====
section
/-! DEFINITION. Frames and the moves of pages between tiers: the valid pages (R206), heats (R221), reuse ranges (R219, R220),
quarantine (R223), the frames that are free, and a page's move (R218, R222, R224). -/

namespace Sys2Proof.Machine

/-- The entry's heats (Table 8.3). -/
def Entry.rh (e : Entry) : Nat := bf e.e0 46 45
def Entry.wh (e : Entry) : Nat := bf e.e0 44 43

/-- The heats of a stored entry change, which is no change of R207. -/
def State.setHeat (s : State) (e : Entry) (rh wh : Nat) : State :=
  s.rawWrite (physKey 0 e.addr) (leBytes 8 (setBf (setBf e.e0 46 45 rh) 44 43 wh).toNat)

/-- The positions below n, in units of u bytes, at which HBM from address a holds a nonzero byte. -/
def State.hotUnits (s : State) (a u n : Nat) : List Nat :=
  (((s.mem.above (physKey 0 a)).below (physKey 0 (a + u * n))).map fun e => (e.1 - physKey 0 a) / u).eraseDups

/-- The valid entries of the frame table, each with the address of its page (R206). -/
def State.pages (s : State) : List (Nat × Entry) :=
  let ft := bf (s.mgr 0x1080) 47 12 * 4096
  (s.hotUnits ft 8 (2 ^ 19)).flatMap fun i =>
    let l1 := s.raw64 (physKey 0 (ft + 8 * i))
    let l2 := bf l1 47 12 * 4096
    if !bit l1 63 then [] else
    (s.hotUnits l2 16 8192).filterMap fun j =>
      match s.entry? (2 ^ 29 * i + 2 ^ 16 * j) with
      | some e => if e.v ∧ e.addr = l2 + 16 * j then some (2 ^ 29 * i + 2 ^ 16 * j, e) else none
      | none => none

/-- Bit k of a launch record's hints: some address of a page lies in a range with hint k (R219). -/
def recHinted (sr r : Sparse Word) (page size hint : Nat) : Bool :=
  (List.range 3).any fun i =>
    let base := bf (r.get 0 (25 + 2 * i)) 55 16 * 65536
    let len := bf (r.get 0 (26 + 2 * i)) 31 0 * 65536
    decide (bf (r.get 0 (26 + 2 * i)) 35 32 = hint) && (List.range 16).any fun n =>
      let w := windowOf sr n
      -- the part of the page that the window shows, in virtual addresses
      let lo := max page w.ibase
      let hi := min (page + size) (w.ibase + (w.limit - w.base))
      w.v && decide (lo < hi) && meets (w.base + (lo - w.ibase)) (hi - lo) base len

/-- Some address of a page lies in a reuse range of this hint, of a launch of which a task runs (R219). -/
def State.hinted (s : State) (ctx page size hint : Nat) : Bool :=
  s.cores.any fun c =>
    match c.2.task with
    | none => false
    | some t => decide (t.ctx = ctx) && recHinted (s.ctxAt ctx).sr t.lrec page size hint

/-- A frame stands in a quarantine queue. -/
def State.inQuarantine (s : State) (tier frame size : Nat) : Bool :=
  s.quar.any fun q => decide (q.tier = tier) && meets q.frame (if q.big then 2 ^ 21 else 2 ^ 16) frame size

/-- Frames in the quarantine queue of a tier. -/
def State.quarLen (s : State) (tier : Nat) : Nat := (s.quar.filter fun q => decide (q.tier = tier)).length

/-- The frame of an entry is freed into its tier's quarantine queue (R223). -/
def State.quarantine (s : State) (e : Entry) : State :=
  { s with quar := s.quar ++ [⟨e.tier, e.frame, e.big, s.qepoch⟩] }

/-- Tier and bytes of the frames of a late-frame pool's kind (R210). -/
def poolTier (p : Nat) : Nat := if p < 2 then 0 else 1
def poolSize (p : Nat) : Nat := if p % 2 = 0 then 2 ^ 16 else 2 ^ 21

/-- What stands in a tier's frames: valid pages, late-frame pools, quarantine, and in HBM the frame tables; as address and size. -/
def State.taken (s : State) (tier : Nat) : List (Nat × Nat) :=
  ((s.pages.filter fun p => decide (p.2.tier = tier)).map fun p => (p.2.frame, p.2.size)) ++
  (s.ctxs.flatMap fun c => (List.range 4).flatMap fun p =>
    if poolTier p = tier then (c.2.lf.get [] p).map fun f => (f, poolSize p) else []) ++
  ((s.quar.filter fun q => decide (q.tier = tier)).map fun q => (q.frame, if q.big then 2 ^ 21 else 2 ^ 16)) ++
  (if tier = 0 then
    let ft := bf (s.mgr 0x1080) 47 12 * 4096
    (ft, 2 ^ 22) :: (s.hotUnits ft 8 (2 ^ 19)).map fun i => (bf (s.raw64 (physKey 0 (ft + 8 * i))) 47 12 * 4096, 2 ^ 17)
  else [])

/-- A frame may be on the host driver's free list for a context (R218): it exists, and nothing stands in it. -/
def State.frameFree (s : State) (tier frame size : Nat) : Bool :=
  decide (frame % size = 0) && decide (frame + size ≤ tierSize tier) && !(s.taken tier).any fun t => meets t.1 t.2 frame size

/-- Fewer than 1/32 of a tier's frames are free (R221). The host driver's free lists hold no more than what nothing stands in; how
much they hold is open. -/
def State.fewFree (s : State) (tier f : Nat) : Bool :=
  let used := ((s.taken tier).map Prod.snd).sum
  decide (32 * (Config.freeNat f % ((tierSize tier - used) / 65536 + 1)) < tierSize tier / 65536)

/-- The limits of R218 and R223 on every move of a page to a frame of another tier; in reduced service a frame that is not served
waits (R391). -/
def State.movable (s : State) (e : Entry) (tier frame : Nat) : Bool :=
  let us := s.dtime / 1000 % 2 ^ 20
  e.v && decide (e.tier < 3) && decide (tier < 3) && decide (tier ≠ e.tier) && !e.pin && !e.cc &&
    !s.offFrame e.tier e.frame e.size && !s.offFrame tier frame e.size &&
    (!bit e.e1 20 || decide (100 ≤ (us + 2 ^ 20 - bf e.e1 19 0) % 2 ^ 20)) && s.frameFree tier frame e.size &&
    (bit e.e0 53 || decide (s.quarLen e.tier < 65536))

/-- A page is to move to a tier: toward HBM where a `fetch` range holds it, or at a heat of 3 where no active range does; to the host
where the host asks for it (R222); one tier down after two sweeps at zero heat while its tier has few frames free (R221). `stream`
pages are not promoted and `keep` pages not demoted (R219). -/
def State.wantsMove (s : State) (ia : Nat) (e : Entry) (tier f : Nat) : Bool :=
  let hint (h : Nat) : Bool := s.hinted e.ctx (e.page ia) e.size h
  if e.tier < tier then
    !hint 2 && (decide (tier = 2) || (decide (tier = e.tier + 1) && decide (2 ≤ s.cold.get 0 (e.page ia)) && s.fewFree e.tier f))
  else !hint 1 && (hint 3 || (!hint 2 && (decide (e.rh = 3) || decide (e.wh = 3))))

/-- n bytes from key a are copied to key b, with what the device knows of them; a word with an uncorrectable error reads zero
(R389). -/
def State.copyFrame (s : State) (a b n : Nat) : State :=
  let bad (k : Nat) : Bool := s.badWord.get false ((a + (k - b)) / 16)
  { s with
    mem := s.mem.splice 0 b n fun k => if bad k then 0 else s.mem.get 0 (a + (k - b))
    back := s.back.splice [] b n fun k => if bad k then [] else s.back.get [] (a + (k - b))
    lkey := s.lkey.splice 0 (b / 128) (n / 128) fun l => s.lkey.get 0 (a / 128 + (l - b / 128))
    badWord := s.badWord.splice false (b / 16) (n / 16) fun _ => false }

/-- The lines of a page that were stored under another key come under the page's own, so that they read as before wherever the page
goes (R218, R365). -/
def State.claimPage (s : State) (e : Entry) (page f : Nat) : State :=
  let l := physKey e.tier e.frame / 128
  ((s.lkey.above l).below (l + e.size / 128)).foldl (fun s x => s.claimLine e (128 * l) page f (x.1 - l)) s

/-- A page moves to a frame of a tier (R218, R222 to R224): its old frame goes to quarantine, or in the compatibility mode is free
at once. -/
def movePage (ia : Nat) (e : Entry) (tier frame : Nat) : M Unit := do
  settlePage e ia
  let f ← takeFresh
  modify fun s =>
    let s := s.claimPage e (e.page ia) f
    let s := if s.badIn (physKey e.tier e.frame) e.size then s.logMc e.ctx (e.page ia) else s
    let s := s.copyFrame (physKey e.tier e.frame) (physKey tier frame) e.size
    let s := if bit e.e0 53 then s else s.quarantine e
    let e1 := BitVec.ofNat 64 (frame / 65536 * 2 ^ 28 + 2 ^ 20 + s.dtime / 1000 % 2 ^ 20)
    s.putEntry ia e (setBf e.e0 61 60 tier) e1

/-- The pages of the `fetch` ranges of an accepted launch record move to HBM (R219), each to the frame that the host driver's free
list offers, which is open. -/
def fetchPages (ctx : Nat) (r : Sparse Word) : M Unit := do
  if !(List.range 3).any fun i => decide (bf (r.get 0 (26 + 2 * i)) 35 32 = 3) then return
  let s ← get
  let ps := s.pages.filter fun p => decide (p.2.ctx = ctx) && recHinted (s.ctxAt ctx).sr r p.1 p.2.size 3
  ps.forM fun p => do
    let f ← takeFresh
    let frame := Config.freeNat f % (tierSize 0 / p.2.size) * p.2.size
    if (← get).movable p.2 0 frame then movePage p.1 p.2 0 frame

end Sys2Proof.Machine
end

