-- ==== Sys2Proof/Machine/Sched.lean ====
section
/-! DEFINITION. Launches and dispatch: the acceptance checks (R25, R26, Table 1.4), queues and monitors (R317 to R319), the
choice and the placement of candidates (R320, R321, R325), readiness, task end (R32), the stream deadlock (R20), and the host's
submission rings (R367). -/

namespace Sys2Proof.Machine

/-- Field width w of a launch record (R22), i from 1. -/
def recWidth (r : Sparse Word) (i : Nat) : Nat := bf (r.get 0 3) (7 * i - 1) (7 * i - 7)

/-- n_i of a launch record. -/
def recCount (r : Sparse Word) (i : Nat) : Nat := (r.get 0 (4 + i)).toNat + 1

/-- The product of counts lo, lo + 1, … (n of them). -/
def recProd (r : Sparse Word) : Nat → Nat → Nat
  | _, 0 => 1
  | lo, n + 1 => recCount r lo * recProd r (lo + 1) n

/-- Tasks of a launch (R22). -/
def recTasks (r : Sparse Word) : Nat := recProd r 1 6

/-- The affinity level. -/
def recAffin (r : Sparse Word) : Nat := bf (r.get 0 3) 47 45

/-- Barriers declared. -/
def recNbar (r : Sparse Word) : Nat := bf (r.get 0 11) 31 28

/-- Tasks that agree in every field above the affinity level: a gang's size (R325), or an affinity group's (R23). -/
def recGroup (r : Sparse Word) : Nat := if recAffin r = 0 then recTasks r else recProd r 1 (recAffin r)

/-- The identifier of task n in ascending order (R22, R23), from field i at bit position o. -/
def recId (r : Sparse Word) (n : Nat) : Nat → Nat → Nat → Nat
  | _, _, 0 => 0
  | i, o, k + 1 => n % recCount r i * 2 ^ o + recId r (n / recCount r i) (i + 1) (o + recWidth r i) k

/-- The work identifier of task n of a launch. -/
def taskId (r : Sparse Word) (n : Nat) : Word := BitVec.ofNat 64 (recId r n 1 0 6)

/-- A launch record's reserved bits and hint codes (Table 1.4, reason 1; R219). DESIGN CHOICE (log entry 43): a reuse pair whose
length is 0 is no reason for a rejection, and holds nothing. -/
def recReserved (r : Sparse Word) : Bool :=
  let w (i : Nat) : Word := r.get 0 i
  let reuse (i : Nat) : Bool :=
    let a := w i
    let b := w (i + 1)
    !(decide (a = 0) && decide (b = 0)) &&
      (decide (bf a 63 56 ≠ 0) || decide (bf a 15 0 ≠ 0) || decide (bf b 63 36 ≠ 0) || decide (bf b 35 32 = 0) || decide (3 < bf b 35 32))
  decide (bf (w 0) 63 56 ≠ 0) || decide (bf (w 1) 63 56 ≠ 0) || decide (bf (w 2) 63 56 ≠ 0) || decide (bf (w 3) 63 48 ≠ 0) ||
  decide (bf (w 3) 44 42 ≠ 0) || decide (bf (w 4) 63 27 ≠ 0) || bit (w 4) 3 || decide (bf (w 11) 63 48 ≠ 0) ||
  decide (bf (w 11) 19 16 ≠ 0) || bit (w 11) 7 || decide (w 31 ≠ 0) || reuse 25 || reuse 27 || reuse 29 ||
  decide (recAffin r = 7) || (!bit (w 4) 19 && decide (w 13 ≠ 0))

/-- Cores in the segments of a context's quota. -/
def State.quotaCores (s : State) (ctx : Nat) : Nat := 8 * popCount (s.sr ctx 384).toNat 40

/-- The checks of Table 1.4 but the last two: the reason. A launcher of context lctx; `any` for the physical function; `right` for
a launcher that may create supervisor tasks of its context (R34). DESIGN CHOICE (log entry 108): the segment need of a launch without
barriers is one core, so that reason 8 meets it only where the context's quota names no segment. -/
def State.launchReason (s : State) (r : Sparse Word) (lctx : Nat) (any right : Bool) : Nat :=
  let w (i : Nat) : Word := r.get 0 i
  let ctx := bf (w 4) 17 12
  let t : Task := { lrec := r }
  let qw := s.queueWord (bf (w 4) 11 4)
  let widths := (List.range 6).map fun i => recWidth r (i + 1)
  if recReserved r then 1
  else if 64 < widths.sum then 2
  else if (List.range 6).any fun i => decide (2 ^ recWidth r (i + 1) ≤ (w (5 + i)).toNat) then 3
  else if 60 < t.nvreg ∨ 96 < t.npred ∨ 128 < t.naccb ∨ 8 < t.nbar ∨ 32768 < t.nrows ∨ t.nrows % 8 ≠ 0 ∨
      3145728 < t.spadPlaced + t.stashBytes then 4
  else if w 0 = 0 ∨ (w 0).toNat % 4 ≠ 0 ∨ (w 1).toNat % 8 ≠ 0 ∨ (w 2).toNat % 4 ≠ 0 ∨ (w 22).toNat % 8 ≠ 0 ∨
      (w 23).toNat % 8 ≠ 0 ∨ (List.range 4).any fun i => decide ((w (14 + 2 * i)).toNat % 8 ≠ 0) then 5
  else if (ctx ≠ lctx ∧ !any) ∨ !bit qw 63 ∨ bf qw 55 50 ≠ ctx ∨ 4 < bf (w 4) 26 24 then 6
  else if bit (w 4) 20 ∧ !right then 7
  else if bf (s.sr ctx 385) 23 0 < t.nrows ∨ s.quotaCores ctx = 0 ∨ (0 < t.nbar ∧ s.quotaCores ctx < recGroup r) then 8
  else 0

/-- The dependence words of a record, each read once; none where an address cannot be translated or read (R26). -/
def readDeps (r : Sparse Word) : M (Option (List Dep)) := do
  let ctx := bf (r.get 0 4) 17 12
  let q := (← get).devReq 0 ctx
  tryCatch (do
    let ds ← (List.range (bf (r.get 0 4) 26 24)).mapM fun i => do
      let va := (r.get 0 (14 + 2 * i)).toNat
      let target := (r.get 0 (15 + 2 * i)).toNat
      let ia ← translate q va 8 { r := true }
      let bs ← readAll q (← grantAll q va ia 8 .read)
      pure { ia := ia, target := target, met := decide (target ≤ leNat bs) }
    pure (some ds)) fun e =>
      match e with
      | .fault _ => pure none
      | e => throw e

/-- Monitor entries in use on a die (R319). -/
def State.monitors (s : State) (die : Nat) : Nat :=
  ((s.launches.filter fun l => decide (l.queue / 64 = die) && l.ready.isNone).map fun l => l.deps.length).sum

/-- A record's queue and die have room for it (R317). -/
def State.launchRoom (s : State) (r : Sparse Word) : Bool :=
  let q := bf (r.get 0 4) 11 4
  decide (s.pendOf q < 1024) && decide (s.monitors (q / 64) + bf (r.get 0 4) 26 24 ≤ 16384)

/-- A launch's readiness holds now (R26). -/
def Launch.canReady (l : Launch) (time : Nat) : Bool :=
  l.ready.isNone && l.sat && (!bit (l.lrec.get 0 4) 19 || decide ((l.lrec.get 0 13).toNat ≤ time))

/-- A launch becomes ready; its monitor entries are released (R319). -/
def Launch.makeReady (l : Launch) (time : Nat) : Launch := { l with ready := some time, deps := [] }

/-- A record that has room is checked, its status word stored through the launcher's windows by the device, and an accepted one
enters its queue (R25, R26), its `fetch` pages moving to HBM (R219). The reason, or none where the status word cannot be written. -/
def submitRec (q : Req) (r : Sparse Word) (lva : Nat) (any right : Bool) (slot : Option Nat) : M Nat := do
  let s ← get
  let reason := s.launchReason r q.ctx any right
  let deps ← if reason = 0 then readDeps r else pure (some [])
  let reason := if deps.isNone then 10 else reason
  let st := (r.get 0 23).toNat
  if st ≠ 0 ∧ st % 8 = 0 then
    release q 4
    let ia ← translate q st 8 { w := true }
    settleBytes q ia 8
    let d := { q with ag := 4098 }
    writeAll d (← grantAll d st ia 8 .write) (leBytes 8 reason)
  if reason = 0 then
    let ds := deps.getD []
    modify fun s =>
      let l : Launch :=
        { id := s.accepted, lva := lva, lrec := r, deps := ds, sat := ds.all Dep.met, slot := slot }
      let l := if l.canReady s.dtime then l.makeReady s.dtime else l
      { s with launches := s.launches ++ [l], accepted := s.accepted + 1 }
    fetchPages (bf (r.get 0 4) 17 12) r
  pure reason

/-- The 32 words of a record's bytes. -/
def recWords (bs : List Byte) : Sparse Word :=
  Sparse.ofFn 0 (fun i => BitVec.ofNat 64 (leNat ((bs.drop (8 * i)).take 8))) 0 32

/-- `launch` (R322). -/
def launchM (a core : Nat) : M Unit := do
  let s ← get
  let va := (s.rdS a).toNat
  failIf (decide (va % 256 ≠ 0)) { code := 0x05, va := some (va % 2 ^ 56) }
  irrevocable core
  let q := s.req
  -- every earlier access comes before the tasks' first instructions (R276), those to unordered pages too
  settleAll q.ag
  release q 4
  -- a launch that stalls has read its record: later writes to the memory do not affect it
  let r ← match ((← get).coreAt core).launchRec with
    | some r => do
      modify fun s => s.updCore core fun c => { c with launchRec := none }
      pure r
    | none => do
      let ia ← translate q va 256 { r := true }
      pure (recWords (← seenAll q (← grantAll q va ia 256 .read)))
  if !(← get).launchRoom r then
    modify fun s => s.updCore core fun c => { c with launchRec := some r }
    throw (.pause (.flight 0))
  let right := match (s.coreAt core).task with | some t => t.sup | none => false
  let _ ← submitRec q r va false right none

def execLaunch (a : Nat) (s : State) : Out := runAC (launchM a) s

/-- A core's die (R11). -/
def dieOf (core : Nat) : Nat := core / 80

/-- The core may be given to a task now: it is free, it lies in a segment of the context's quota, and the context's save area
is large enough for the task (R30, R385). In reduced service only compute die 0 serves (R4). -/
def State.fits (s : State) (core : Nat) (t : Task) : Bool :=
  (s.coreAt core).task.isNone && !(s.reduced && decide (80 ≤ core)) && bit (s.sr t.ctx 384) (gsegOf core) &&
    (!bit (s.sr t.ctx 132) 0 || decide (t.imageSize ≤ s.saveStride t.ctx))

/-- Cores running tasks of a queue. -/
def State.heldBy (s : State) (q : Nat) : Nat :=
  (s.cores.filter fun c => match c.2.task with | some t => decide (bf (t.w 4) 11 4 = q) | none => false).length

/-- Free cores of a die. -/
def State.freeOn (s : State) (die : Nat) : Nat :=
  ((List.range 80).filter fun i => (s.coreAt (80 * die + i)).task.isNone).length

/-- Free cores that the other queues of a die reserve against queue q (R321). -/
def State.reserved (s : State) (die q : Nat) : Nat :=
  ((List.range 64).map fun i =>
    let r := 64 * die + i
    if r = q then 0 else bf (s.mgr (0x1300 + 8 * r)) 47 41 - s.heldBy r).sum

/-- The reservations of the other queues of a die still hold after n of its cores are taken for queue q (R321). -/
def State.reserveOk (s : State) (die q n : Nat) : Bool := decide (s.reserved die q + n ≤ s.freeOn die)

/-- What a candidate dispatches (R320, R387). -/
inductive CandKind where
  /-- the next n tasks of a launch: one, or a gang -/
  | fresh (id n : Nat)
  /-- tasks back in their queue, each with its core if it goes to one core alone -/
  | back (ts : List (Task × Option Nat × Bool))
  deriving DecidableEq, Repr

/-- A candidate: its priority, ready time, acceptance order and identifier, its first task, its queue, and what it is. -/
structure Cand where
  prio : Nat
  ready : Nat
  order : Nat
  ident : Nat
  task : Task
  queue : Nat
  kind : CandKind
  deriving DecidableEq, Repr

/-- The priority at which a task of a queue runs (Table 12.1). -/
def State.prioOf (s : State) (t : Task) (q : Nat) : Nat := max (bf (t.w 4) 2 0) (bf (s.mgr (0x1300 + 8 * q)) 40 38)

/-- A candidate for a first task. -/
def State.cand (s : State) (t : Task) (k : CandKind) : Cand :=
  let q := bf (t.w 4) 11 4
  ⟨s.prioOf t q, t.rdy, t.launch, t.wid.toNat, t, q, k⟩

/-- The next task of a launch. -/
def Launch.task (l : Launch) (n : Nat) (gang : Option Nat) : Task :=
  { wid := taskId l.lrec n, lva := l.lva, lrec := l.lrec, launch := l.id, rdy := l.ready.getD 0, gang := gang }

/-- Tasks that the next choice of a launch dispatches. -/
def Launch.width (l : Launch) : Nat := if recNbar l.lrec = 0 then 1 else recGroup l.lrec

/-- A page that an aborted task waits for is resident (R37). -/
def State.resident (s : State) (page : Option Nat) : Bool :=
  match page with
  | none => true
  | some p => match s.entry? p with | some e => !e.absent | none => false

/-- The tasks back in their queues: aborted or requeued ones that wait for no page, and saved ones; with the core that each goes
to, and whether it is saved. -/
def State.backTasks (s : State) : List (Task × Option Nat × Bool) :=
  (s.requeued.filter fun r => s.resident r.page).map (fun r => (r.task, r.core, false)) ++
  (s.saved.filter fun v => !decide ((s.coreAt v.core).task = some v.task)).map (fun v => (v.task, some v.core, true))

/-- A member of a gang waits for a page (R37). -/
def State.gangWaits (s : State) (g : Nat) : Bool :=
  s.requeued.any fun r => decide (r.task.gang = some g) && !s.resident r.page

/-- Candidates among the tasks back in their queues: each alone, but the members of a gang that have left their cores together, once
none of them waits for a page (R325). -/
def State.backCands (s : State) : List Cand :=
  let bs := s.backTasks
  let gone (g : Nat) : List (Task × Option Nat × Bool) := bs.filter fun b => decide (b.1.gang = some g)
  bs.filterMap fun b =>
    match b.1.gang with
    | none => some (s.cand b.1 (.back [b]))
    | some g => if (gone g).head? = some b ∧ !s.gangWaits g then some (s.cand b.1 (.back (gone g))) else none

/-- The candidates of a die (R320). -/
def State.cands (s : State) (die : Nat) : List Cand :=
  (s.launches.filterMap fun l => if l.ready.isSome then some (s.cand (l.task l.next none) (.fresh l.id l.width)) else none) ++ s.backCands
  |>.filter fun c => decide (c.queue / 64 = die)

/-- The order of candidates (R320): by priority first unless `old`. -/
def Cand.before (old : Bool) (a b : Cand) : Bool :=
  let key (c : Cand) : List Nat := (if old then [] else [c.prio]) ++ [c.ready, c.order, c.ident]
  decide (key a < key b)

/-- A candidate takes its place among the ordered ones. -/
def placeCand (old : Bool) : List Cand → Cand → List Cand
  | [], x => [x]
  | y :: ys, x => if x.before old y then x :: y :: ys else y :: placeCand old ys x

/-- What a hold names: a candidate's launch and task. -/
def Cand.name (c : Cand) : Nat × Word := (c.order, c.task.wid)

/-- The candidate is a gang of more than 80 tasks, which takes cores of every die (R325). -/
def Cand.wide (c : Cand) : Bool := match c.kind with | .fresh _ n => decide (80 < n) | .back ts => decide (80 < ts.length)

/-- The core is held for another candidate (R320): its die holds the freed cores for that one, or some die does for a gang that takes
cores of every die (log entry 117). -/
def State.heldFrom (s : State) (c : Cand) (core : Nat) : Bool :=
  (List.range 4).any fun d =>
    match s.hold.get none d with
    | none => false
    | some h => decide (h ≠ c.name) && (decide (dieOf core = d) || (s.cands d).any fun x => decide (x.name = h) && x.wide)

/-- A core may be given to a candidate now (R320, R321). -/
def State.takes (s : State) (c : Cand) (core : Nat) : Bool := s.fits core c.task && !s.heldFrom c core

/-- The fitting cores of a segment, in ascending order. -/
def State.segFits (s : State) (c : Cand) (g : Nat) : List Nat := ((List.range 8).map (8 * g + ·)).filter (s.takes c)

/-- The segment with the most fitting cores, at least n, lowest number first (R321, R325). -/
def State.roomiest (s : State) (c : Cand) (segs : List Nat) (n : Nat) : Option Nat :=
  segs.foldl (fun b g =>
    let k := (s.segFits c g).length
    if k < max n 1 then b else
    match b with
    | none => some g
    | some h => if (s.segFits c h).length < k then some g else b) none

/-- n cores of an ascending list (R321): the segment of each is one that a free value names, the core its lowest in the list. -/
def pickCores (k : Nat) (l : List Nat) : Nat → List Nat
  | 0 => []
  | n + 1 =>
    match l[k % l.length]? with
    | none => []
    | some x =>
      let y := (l.find? fun y => decide (gsegOf y = gsegOf x)).getD x
      y :: pickCores (k / l.length) (l.erase y) n

/-- The segments of a die. -/
def dieSegs (die : Nat) : List Nat := (List.range 10).map (10 * die + ·)

/-- Where a candidate's cores are sought (R321, R325), with the segment of its affinity group; none where too few fit. The choice that
the spec leaves open is the free value's. -/
def State.seek (s : State) (die f : Nat) (c : Cand) : Option (List Nat × Option Nat) :=
  let k := Config.freeNat f
  let t := c.task
  let a := recAffin t.lrec
  match c.kind with
  | .back ts =>
    if ts.all (fun b => b.2.1.isSome) then
      let cs := ts.filterMap fun b => b.2.1
      if cs.all (s.takes c) then some (cs, none) else none
    else
      let segs := (dieSegs die).filter fun g => s.segFits c g ≠ []
      if segs = [] then none else
      let g := match t.seg with
        | some g => if segs.contains g then g else segs.headD 0
        | none => if a = 0 then segs.getD (k % segs.length) 0 else segs.headD 0
      some ((s.segFits c g).take 1, t.seg)
  | .fresh id n =>
    let l := (s.launches.find? fun l => decide (l.id = id)).getD { id := id, lva := 0, lrec := t.lrec }
    if recNbar t.lrec = 0 then
      let segs := (dieSegs die).filter fun g => s.segFits c g ≠ []
      if segs = [] then none
      else if a = 0 then
        let g := segs.getD (k % segs.length) 0
        some ((s.segFits c g).take 1, none)
      else
        let first := l.next % recGroup t.lrec = 0
        let g := if first then (s.roomiest c segs 1).getD 0 else if segs.contains l.seg then l.seg else segs.headD 0
        some ((s.segFits c g).take 1, some (if first then g else l.seg))
    else if n ≤ 8 then (s.roomiest c (dieSegs die) n).map fun g => ((s.segFits c g).take n, none)
    else if n ≤ 80 then
      let cs := (dieSegs die).flatMap (s.segFits c)
      if n ≤ cs.length then some (pickCores k cs n, none) else none
    else
      -- no more of the queue's die than its reservations leave
      let own := (dieSegs die).flatMap (s.segFits c)
      let far := ((List.range 40).filter fun g => decide (g / 10 ≠ die)).flatMap (s.segFits c)
      let most := min own.length (s.freeOn die - s.reserved die c.queue)
      if most + far.length < n then none else
      let few := n - far.length
      let m := few + k % (min most n - few + 1)
      some (pickCores (k / (n + 1)) own m ++ pickCores (k / (n + 1)) far (n - m), none)

/-- The cores that a candidate is placed on (R321, R325): they are found, and the queue's die keeps what its other queues reserve
(log entry 117). -/
def State.place (s : State) (die f : Nat) (c : Cand) : Option (List Nat × Option Nat) :=
  match s.seek die f c with
  | none => none
  | some p => if s.reserveOk die c.queue (p.1.filter fun x => decide (dieOf x = die)).length then some p else none

/-- The placement of a gang: 0 in one segment, 1 on one die, 2 on several (R327). -/
def spanOfCores (cs : List Nat) : Nat :=
  match cs with
  | [] => 0
  | c :: _ => if cs.all fun x => decide (gsegOf x = gsegOf c) then 0 else if cs.all fun x => decide (dieOf x = dieOf c) then 1 else 2

/-- The device's request for its own fields of a context's slots. -/
def slotReq (ctx : Nat) : Req := { kind := 0, agent := 0, ctx := ctx, ag := 4097 }

/-- Word i of a slot, walked for and read at its home as the device's access for the slot's context (R208). -/
def slotWord (d : SlotDev) (i : Nat) : M Word := do
  let l ← walk (slotReq d.ctx) (d.ia + 8 * i) .read
  let bs ← homeRead (slotReq d.ctx) l (d.ia + 8 * i) 8
  pure (BitVec.ofNat 64 (leNat bs))

/-- Word i of a slot := v, granted (R208, R212) and written at its home by the device. -/
def setSlotWord (d : SlotDev) (i : Nat) (v : Word) : M Unit := do
  let l ← grant (slotReq d.ctx) (d.ia + 8 * i) .write
  homeWrite (slotReq d.ctx) l (d.ia + 8 * i) (leBytes 8 v.toNat)

/-- The device may write a slot: what it does next meets no fault there (log entry 119). -/
def slotHold (d : SlotDev) : M Unit := do let _ ← grant (slotReq d.ctx) d.ia .write

/-- Word i of a slot as it stands, without an access: what the device has last seen of its timers. -/
def State.slotNow (s : State) (d : SlotDev) (i : Nat) : Word :=
  BitVec.ofNat 64 (leNat (((s.lineNow d.ia).drop (8 * i)).take 8))

/-- A timed launch consumes its deadline (R26, R347). -/
def consumeDeadline (l : Launch) : M Unit := do
  match l.slot with
  | none => pure ()
  | some g =>
    let d := (← get).slots.get {} g
    if d.used ∧ d.launch = some l.id then
      let w ← slotWord d 11
      setSlotWord d 11 (setBf w 31 0 (bf w 31 0 + 1))

/-- A chosen candidate starts on its cores (R320, R31, R387). -/
def dispatchTo (c : Cand) (cs : List Nat) (seg : Option Nat) : M Unit := do
  match c.kind with
  | .back ts =>
    (ts.zip cs).forM fun p => do
      if p.1.2.2 then
        match (← get).saved.find? fun v => decide (v.task = p.1.1) with
        | some v => restoreTask v
        | none => pure ()
      else modify fun s =>
        { s with requeued := s.requeued.filter fun r => decide (r.task ≠ p.1.1) }.startTask p.2 p.1.1
  | .fresh id n =>
    match (← get).launches.find? fun l => decide (l.id = id) with
    | none => pure ()
    | some l =>
      let s ← get
      let gang := if recNbar l.lrec = 0 then none else some s.gangNo
      let ts := (List.range n).map fun i => l.task (l.next + i) gang
      modify fun s =>
        let s := (ts.zip cs).foldl (fun s p => s.startTask p.2 { p.1 with seg := seg }) s
        let s := match gang with
          | none => s
          | some g =>
            let x : Gang := { id := g, members := ts.map Task.wid, span := spanOfCores cs }
            { s with gangs := s.gangs ++ [x], gangNo := s.gangNo + 1 }
        let l' := { l with next := l.next + n, seg := seg.getD l.seg }
        { s with launches := if recTasks l.lrec ≤ l'.next then s.launches.filter fun x => decide (x.id ≠ id)
                             else s.launches.map fun x => if x.id = id then l' else x }
      if l.next = 0 ∧ bit (l.lrec.get 0 4) 19 then consumeDeadline l

/-- One choice of a die's dispatcher (R320). In reduced service only die 0 dispatches (R391). -/
def dispatchM (die : Nat) : M Unit := do
  let f ← takeFresh
  let s ← get
  if s.halted ∨ 3 < die ∨ (s.reduced ∧ die ≠ 0) then return
  let n := s.dctr.get 0 die
  let old := decide (n.toNat % 64 = 63)
  let cs := (s.cands die).foldl (placeCand old) []
  let held := match s.hold.get none die with
    | some h => cs.find? fun c => decide (c.name = h)
    | none => none
  let try_ : List Cand := if old then (match held with | some c => [c] | none => cs.take 1) else cs
  match try_.findSome? fun c => (s.place die f c).map fun p => (c, p) with
  | none =>
    -- a choice that is made while a core is free, and whose candidate the freed cores are held for until it fits (R320)
    if old ∧ 0 < s.freeOn die then set { s with hold := s.hold.set none die (try_.head?.map Cand.name) }
  | some (c, p) =>
    set { s with dctr := s.dctr.set 0 die (n + 1), hold := s.hold.set none die none }
    dispatchTo c p.1 p.2

/-- A launch of this place in the acceptance order becomes ready if its condition holds (R319). -/
def readyM (id : Nat) (dlv : Bool) : M Unit := modify fun s =>
  { s with launches := s.launches.map fun l =>
      if l.id = id ∧ l.canReady s.dtime ∧ (dlv → bit (l.lrec.get 0 4) 19) then l.makeReady s.dtime else l }

def execLaunchReady (id : Nat) (s : State) : Out := runLive (readyM id false) s
def execDeadlineReached (id : Nat) (s : State) : Out := runLive (readyM id true) s
def execDispatch (die : Nat) (s : State) : Out := runLive (dispatchM die) s

/-- TASK_END (R32): held banks raise 0x0C at the `end` of the last stream to end; otherwise the task ends. -/
def taskEndM (core : Nat) : M Unit := do
  let s ← get
  if !s.canEnd core then return
  let c := s.coreAt core
  if c.mx.held ≠ 0 then
    modify fun s => s.updCore core fun c => c.setStrm (strmOf c.lastEnd) { c.strmAt (strmOf c.lastEnd) with st := .running }
    freezeCore core c.lastEnd (.strm c.lastEnd 0x0C) { code := 0x0C }
  else endTask core true

/-- STREAM_DEADLOCK (R20): after 4,096 clk of blocked streams with nothing in flight, 0x0B against the core. -/
def deadlockM (core : Nat) : M Unit := do
  let c := (← get).coreAt core
  if c.task.isSome ∧ c.frozen.isNone ∧ 4096 ≤ c.dead then freezeCore core 7 (.core 0x0B) { code := 0x0B, core := true }

def execTaskEnd (core : Nat) (s : State) : Out := runLive (taskEndM core) s
def execStreamDeadlock (core : Nat) (s : State) : Out := runLive (deadlockM core) s

/-- The request of a function's host accesses (R368). -/
def State.hostReq (s : State) (f : Nat) : Req := { kind := 3, agent := f, ctx := f, ag := 1024 + f, win := (s.ctxAt f).sr }

/-- A write of the device's own to the host has not performed at scope `host` yet (R275). -/
def State.deviceOwes (s : State) : Bool :=
  s.remote.any fun r => !r.peer && decide (4096 ≤ r.agent) && decide (r.agent < 4099)

/-- The interrupt of vector v of function f, after the device's writes have performed for scope `host` (R278). -/
def State.report (s : State) (f v : Nat) : State :=
  if s.deviceOwes then { s with irqDue := s.irqDue ++ [(f, v)] } else s.raise f v

/-- The entry at the head of a function's submission ring is submitted (R367, R25): true where `sqh` passes it. -/
def submitHead (f : Nat) : M Bool := do
  let s ← get
  let n := (s.fr f 0x08).toNat % 16
  let h := (s.fr f 0x18).toNat
  if s.halted ∨ s.numVfs < f ∨ n < 4 ∨ h % 2 ^ n = (s.fr f 0x10).toNat % 2 ^ n then return false
  let q := s.hostReq f
  let at_ := (s.fr f 0).toNat + 32 * (h % 2 ^ n)
  let fetchRec : M (Option (Nat × Sparse Word)) := do
    let lva := leNat (← readVa q at_ 8 { r := true } .read)
    if lva % 256 ≠ 0 then pure none else
    let bs ← readVa q lva 256 { r := true } .read
    pure (some (lva, recWords bs))
  let r ← tryCatch fetchRec fun e => match e with | .fault _ => pure none | e => throw e
  match r with
  | none => finish q f n h at_ 9
  | some (lva, r) =>
    if !(← get).launchRoom r then pure false else
    let reason ← tryCatch (submitRec q r lva (decide (f = 0)) true none) fun e =>
      match e with | .fault _ => pure 9 | e => throw e
    finish q f n h at_ reason
where
  /-- The device's answer in E2; `sqh` advances, and vector 0 is raised. -/
  finish (q : Req) (f n h at_ reason : Nat) : M Bool := do
    tryCatch (writeVa { q with ag := 4096 } (at_ + 16) (leBytes 8 (256 + reason))) fun e =>
      match e with | .fault _ => pure () | e => throw e
    modify fun s => (s.setFr f 0x18 (BitVec.ofNat 64 ((h + 1) % 2 ^ n))).report f 0
    pure true

/-- Entries from `sqh` up to the tail are submitted in ring order, until one must wait. -/
def submitRing (f : Nat) : Nat → M Unit
  | 0 => pure ()
  | fuel + 1 => do
    if ← submitHead f then submitRing f fuel

/-- A write of `sqt` (R367). -/
def doorbellM (f tail : Nat) : M Unit := do
  if (← get).halted ∨ 63 < f ∨ (← get).numVfs < f then return
  modify fun s => { (s.setFr f 0x10 (BitVec.ofNat 64 (tail % 65536))).wake with lastReq := s.dtime }
  submitRing f 65536

def execSqtDoorbell (fn tail : Nat) (s : State) : Out := runLive (doorbellM fn tail) s
def execSubmissionEntry (fn : Nat) (s : State) : Out := runLive (do let _ ← submitHead fn) s

end Sys2Proof.Machine
end

