-- ==== Sys2Proof/Machine/Ctl.lean ====
section
/-! DEFINITION. The A-stream's control flow (R44, R48, R98, R99), its system words (R382, R383), `irv` and `end` (R323, R324),
barriers (R325 to R328), forks and mailboxes (R330 to R333), and searches (R334). -/

namespace Sys2Proof.Machine

/-- A branch (R44): PC + 4 × displacement where the condition holds, else the next word. -/
def branchTo (c : Bool) (disp : Word) (s : State) : Out := .next (s.goTo (if c then s.pc + 4 * disp else s.pc + 4))

def execBez (a o : Nat) (s : State) : Out := branchTo (decide (s.rdS a = 0)) (sext 16 o) s
def execBnz (a o : Nat) (s : State) : Out := branchTo (decide (s.rdS a ≠ 0)) (sext 16 o) s
def execBltz (a o : Nat) (s : State) : Out := branchTo ((s.rdS a).slt 0) (sext 16 o) s
def execBgez (a o : Nat) (s : State) : Out := branchTo (!(s.rdS a).slt 0) (sext 16 o) s
def execBgtz (a o : Nat) (s : State) : Out := branchTo (BitVec.slt 0 (s.rdS a)) (sext 16 o) s
def execBlez (a o : Nat) (s : State) : Out := branchTo (!BitVec.slt 0 (s.rdS a)) (sext 16 o) s
def execBr (o : Nat) (s : State) : Out := branchTo true (sext 16 o) s
def execBeq (a b o : Nat) (s : State) : Out := branchTo (decide (s.rdS a = s.rdS b)) (sext 10 o) s
def execBne (a b o : Nat) (s : State) : Out := branchTo (decide (s.rdS a ≠ s.rdS b)) (sext 10 o) s
def execBlt (a b o : Nat) (s : State) : Out := branchTo ((s.rdS a).slt (s.rdS b)) (sext 10 o) s
def execBge (a b o : Nat) (s : State) : Out := branchTo (!(s.rdS a).slt (s.rdS b)) (sext 10 o) s
def execBltu (a b o : Nat) (s : State) : Out := branchTo ((s.rdS a).ult (s.rdS b)) (sext 10 o) s
def execBgeu (a b o : Nat) (s : State) : Out := branchTo (!(s.rdS a).ult (s.rdS b)) (sext 10 o) s

/-- `call` (R99). -/
def execCall (d i : Nat) (s : State) : Out := .next ((s.wrS d (s.pc + 4)).goTo (s.pc + 4 * sext 20 i))

/-- A jump to a register's address (R99): a target that is not a multiple of 4 raises 0x05, and nothing is written. -/
def jumpM (d a : Nat) : M Unit := do
  let s ← get
  let t := s.rdS a
  failIf (decide (t.toNat % 4 ≠ 0)) { code := 0x05 }
  set ((s.wrS d (s.pc + 4)).setPc t)

def execJr (a : Nat) (s : State) : Out := runM (jumpM 0 a) s
def execJalr (d a : Nat) (s : State) : Out := runM (jumpM d a) s

/-- `nop` (R383). -/
def execNop (s : State) : Out := .next s.step4

/-- `ecall` (R383): the region ends, a release of scope `dev`, then 0x13 with `call`. -/
def ecallM (n core : Nat) : M Unit := do
  irrevocable core
  release (← get).req 4
  fail { code := 0x13, tcode := n, call := true, next := true }

def execEcall (n m : Nat) (s : State) : Out := runAC (ecallM (8 * n + m)) s

/-- `trap` (R383). -/
def execTrap (n m : Nat) (s : State) : Out := runAC (fun _ => fail { code := 0x13, tcode := 8 * n + m, next := true }) s

/-- `brk` (R383): resumption executes it again. -/
def execBrk (n m : Nat) (s : State) : Out := runAC (fun _ => fail { code := 0x14, tcode := 8 * n + m }) s

/-- THE RETURN FROM AN EXCEPTION: `eret` (R382) on the core and with the action that `trsel` names. -/
def eretM (core : Nat) : M Unit := do
  needSup core
  let s ← get
  let ctx := s.coreCtx core
  let sel := s.sr ctx 130
  let c := bf sel 8 0
  let act := bf sel 63 61
  match (s.coreAt c).task with
  | none => fail { code := 0x05 }
  | some t =>
    failIf (decide (319 < c) || (s.coreAt c).frozen.isNone || decide (t.ctx ≠ ctx) || decide (4 ≤ act)) { code := 0x05 }
    failIf (decide (act = 2) && (!t.inRegion || !t.idem)) { code := 0x05 }
    release s.req 4
    eretAct c act

def execEret (s : State) : Out := runAC eretM s

/-- `irv` (R323). -/
def execIrv (s : State) : Out := runAC irrevocable s

/-- A stream of a core ends, at its own word (R32). -/
def Core.endStream (c : Core) (st : Strm) : Core :=
  { c with lastEnd := st.code }.setStrm st { c.strmAt st with st := .ended, wait := none }

/-- `end` (R324): the A-stream ends; a sequencer's stream ends once its earlier accesses have performed. -/
def endM : M Unit := do
  let s ← get
  match s.cur with
  | .seqr q =>
    settleAll (512 + q)
    modify fun s => s.setSeqr q { s.seqrAt q with running := false, waiting := false }
  | _ => set (s.putCore (s.core.endStream s.strmNo))

def execEndA (s : State) : Out := runM endM s

/-- The gang of a core's task. -/
def State.gangOf (s : State) (core : Nat) : Option (Gang × Word) :=
  match (s.coreAt core).task with
  | some t => match t.gang with
    | some id => (s.gangs.find? fun g => decide (g.id = id)).map fun g => (g, t.wid)
    | none => none
  | none => none

/-- The member has arrived at the slot in its present phase (R326). -/
def State.arrivedAt (s : State) (core n : Nat) : Bool :=
  match s.gangOf core with
  | some (g, w) => g.arrived.contains (n, w)
  | none => false

/-- The member arrives; the phase advances once every member has arrived or ended (R326). -/
def State.arrive (s : State) (core n : Nat) : State :=
  match s.gangOf core with
  | some (g, w) =>
    let g' := { g with arrived := g.arrived ++ [(n, w)] }.settle n
    { s with gangs := s.gangs.map fun x => if x.id = g.id then g' else x }
  | none => s

/-- The checks of a barrier instruction, and the end of the replayable region (R327). -/
def barrierChecks (n sc core : Nat) : M Unit := do
  let s ← get
  failIf (decide (8 ≤ n)) { code := 0x01 }
  let nbar := match (s.coreAt core).task with | some t => t.nbar | none => 0
  failIf (decide (nbar ≤ n)) { code := 0x03, det := 3 }
  let span := match s.gangOf core with | some (g, _) => g.span | none => 0
  failIf (decide (sc < 2 + span)) { code := 0x05 }
  irrevocable core

/-- `bar.arr` (R327). -/
def barArrM (n sc core : Nat) : M Unit := do
  barrierChecks n sc core
  release (← get).req sc
  if (← get).arrivedAt core n then throw (.pause (.flight n))
  modify fun s => s.arrive core n

/-- `bar.wait` (R327). -/
def barWaitM (n sc core : Nat) : M Unit := do
  barrierChecks n sc core
  if (← get).arrivedAt core n then throw (.pause (.flight n))
  acquire (← get).req sc

/-- `bar.sync` (R327): the arrival is made once. -/
def barSyncM (n sc core : Nat) : M Unit := do
  if ((← get).coreAt core).barSync ≠ some n then
    barArrM n sc core
    modify fun s => s.updCore core fun c => { c with barSync := some n }
  if (← get).arrivedAt core n then throw (.pause (.flight n))
  modify fun s => s.updCore core fun c => { c with barSync := none }
  acquire (← get).req sc

def execBarArr (n sc : Nat) (s : State) : Out := runAC (barArrM n sc) s
def execBarWait (n sc : Nat) (s : State) : Out := runAC (barWaitM n sc) s
def execBarSync (n sc : Nat) (s : State) : Out := runAC (barSyncM n sc) s

/-- BARRIER_RELEASE (R328): a member whose phase has advanced waits no more; its own word passes when it executes again. -/
def barrierReleaseM (gang slot : Nat) : M Unit := modify fun s =>
  match s.gangs.find? fun g => decide (g.id = gang) with
  | none => s
  | some g => s.cores.foldl (fun s c =>
      match c.2.task with
      | some t =>
        if t.gang = some gang ∧ !g.arrived.contains (slot, t.wid) ∧ c.2.frozen.isNone ∧ (c.2.strmAt .a).wait = some (.flight slot) then
          s.updCore c.1 fun x => x.setStrm .a { x.strmAt .a with wait := none }
        else s
      | none => s) s

def execBarrierRelease (gang slot : Nat) (s : State) : Out := runLive (barrierReleaseM gang slot) s

/-- The sequencer that S[b] names, assigned to the context (R331, R333). -/
def seqNamed (core : Nat) (v : Word) : M Nat := do
  let s ← get
  failIf (decide (47 < v.toNat) || !bit (s.sr (s.coreCtx core) 387) v.toNat) { code := 0x05 }
  pure v.toNat

/-- `fork` (R331). DESIGN CHOICE (log entry 44): in reduced service (R4, R391) a stream that is forked on a sequencer of a stack
other than 0 starts at once; only its accesses to frames on that stack wait. -/
def forkM (d a b sc core : Nat) : M Unit := do
  let s ← get
  let q ← seqNamed core (s.rdS b)
  let pc := s.rdS a
  failIf (decide (pc.toNat % 4 ≠ 0)) { code := 0x05 }
  irrevocable core
  release s.req sc
  let s ← get
  let x := s.seqrAt q
  let box := s.core.inBox.get {} q
  if x.running ∨ x.resetting ∨ box.msg.isSome ∨ box.err.isSome then set (s.wrS d 0)
  else
    let ctx := s.coreCtx core
    let regs := ((Sparse.set 0 [] 1 (s.rdS d)).set 0 2 (BitVec.ofNat 64 core)).set 0 3 (BitVec.ofNat 64 q)
    let own := s.core.task
    let y : Seqr :=
      { s := regs, pc := pc, running := true, owner := some core, olaunch := (own.map Task.launch).getD 0, owid := s.core.wid,
        ctx := ctx, win := (s.ctxAt ctx).sr }
    set ((s.setSeqr q y).wrS d 1)

def execFork (d a b sc : Nat) (s : State) : Out := runAC (forkM d a b sc) s

/-- The eight words of a message (R333). -/
def State.message (s : State) (a : Nat) : List Word := (List.range 8).map fun i => s.rdS (a + i)

/-- A message arrives in S[a] to S[a+7]. -/
def State.takeMessage (s : State) (a : Nat) (m : List Word) : State :=
  (List.range 8).foldl (fun s i => s.wrS (a + i) (m.getD i 0)) s

/-- A mailbox operation completes: the sequencer's watchdog counts anew (R338). -/
def mailDone (q d : Nat) (moved : Bool) : M Unit :=
  modify fun s => (s.setSeqr q { s.seqrAt q with wd := 0 }).wrS d (if moved then 1 else 0)

/-- `msend` on a core (R333). -/
def msendCore (d a b sc core : Nat) : M Unit := do
  let s ← get
  let q ← seqNamed core (s.rdS b)
  irrevocable core
  release s.req sc
  let s ← get
  if (s.core.outBox.get {} q).msg.isSome then
    if (s.forksOf core).contains q then throw (.pause (.flight q))
    mailDone q d false
  else
    let m := s.message a
    modify fun s => s.updCore core fun c => { c with outBox := c.outBox.set {} q { msg := some m } }
    mailDone q d true

/-- `mrecv` on a core (R333). -/
def mrecvCore (d a b core : Nat) : M Unit := do
  let s ← get
  let q ← seqNamed core (s.rdS b)
  irrevocable core
  let s ← get
  let box := s.core.inBox.get {} q
  match box.msg, box.err with
  | some m, _ =>
    if !box.ready then throw (.pause (.flight q))
    modify fun s => (s.updCore core fun c => { c with inBox := c.inBox.set {} q { box with msg := none, ready := false } }).takeMessage a m
    acquire s.req 4
    mailDone q d true
  | none, some e =>
    modify fun s => s.updCore core fun c => { c with inBox := c.inBox.set {} q {} }
    fail { code := if bf e.1 7 0 = 0x12 then 0x12 else 0x18, e0 := e.1, e1 := e.2 }
  | none, none =>
    if (s.forksOf core).contains q then throw (.pause (.flight q))
    mailDone q d false

/-- A sequencer's stream stalls in a mailbox operation. -/
def seqWaits (q : Nat) : M Unit := do
  modify fun s => s.setSeqr q { s.seqrAt q with waiting := true }
  throw (.pause (.flight q))

/-- `msend` on a sequencer (R333). -/
def msendSeq (d a q : Nat) : M Unit := do
  release (← get).req 4
  let s ← get
  match s.partner? q with
  | none => mailDone q d false
  | some c =>
    if (c.inBox.get {} q).msg.isSome then seqWaits q
    let m := s.message a
    modify fun s => s.updPartner q fun c => { c with inBox := c.inBox.set {} q { c.inBox.get {} q with msg := some m, ready := false } }
    mailDone q d true

/-- `mrecv` on a sequencer (R333). -/
def mrecvSeq (d a q : Nat) : M Unit := do
  let s ← get
  match s.partner? q with
  | none => mailDone q d false
  | some c =>
    let box := c.outBox.get {} q
    match box.msg with
    | none => seqWaits q
    | some m =>
      if !box.ready then seqWaits q
      modify fun s => (s.updPartner q fun c => { c with outBox := c.outBox.set {} q {} }).takeMessage a m
      acquire s.req 4
      mailDone q d true

def msendM (d a b sc : Nat) : M Unit := do
  failIf (decide (a < 1) || decide (56 < a)) { code := 0x01 }
  match (← get).cur with
  | .seqr q =>
    failIf (decide (b ≠ 0) || decide (sc ≠ 0)) { code := 0x01 }
    msendSeq d a q
  | _ => msendCore d a b sc (← get).coreNo

def mrecvM (d a b : Nat) : M Unit := do
  failIf (decide (a < 1) || decide (56 < a)) { code := 0x01 }
  match (← get).cur with
  | .seqr q =>
    failIf (decide (b ≠ 0)) { code := 0x01 }
    mrecvSeq d a q
  | _ => mrecvCore d a b (← get).coreNo

def execMsend (d a b sc : Nat) (s : State) : Out := runA (msendM d a b sc) s
def execMrecv (d a b : Nat) (s : State) : Out := runA (mrecvM d a b) s

/-- A message becomes receivable (R333): in the core's in-mailbox and out-mailbox of the sequencer. -/
def messageReceivableM (core q : Nat) : M Unit := modify fun s => s.updCore core fun c =>
  let mark (b : Mbox) : Mbox := if b.msg.isSome then { b with ready := true } else b
  { c with inBox := c.inBox.set {} q (mark (c.inBox.get {} q)), outBox := c.outBox.set {} q (mark (c.outBox.get {} q)) }

def execMessageReceivable (core seq : Nat) (s : State) : Out := runLive (messageReceivableM core seq) s

/-- A search command's reserved bits and budget (Table 12.5). -/
def searchBad (c : Nat → Word) : Bool :=
  decide (bf (c 1) 63 56 ≠ 0) || decide (bf (c 2) 63 56 ≠ 0) || decide (bf (c 2) 31 24 ≠ 0) || decide (1024 < bf (c 3) 31 0)

/-- `srch` (R334). -/
def srchM (d a b sc core : Nat) : M Unit := do
  let s ← get
  let c := s.core
  let at_ := (s.rdS a).toNat
  failWith (c.spadCheck at_ 64 64)
  let cmd := (List.range 8).map fun i => BitVec.ofNat 64 (leNat (c.sbytes (at_ + 8 * i) 8))
  let w (i : Nat) : Word := cmd.getD i 0
  failIf (searchBad w) { code := 0x05 }
  let h := bf (w 0) 31 0
  match c.regionOf? core (s.coreCtx core) h with
  | none => fail { code := 0x15, det := h }
  | some r =>
    failIf (!bindV r.bind) { code := 0x15, det := h }
    failIf (decide ((s.rdS b).toNat ≠ bindUnit r.bind)) { code := 0x05 }
    failIf (!s.storeOk r.bind) { code := 0x16 }
    failWith (c.spadCheck (bf (w 3) 63 32) (8 + 8 * bf (w 3) 31 0) 8)
    match c.freeSlot? with
    | none => stall (.flight 0)
    | some slot =>
      release s.req sc
      let hd ← takeSlot core slot
        { kind := 5, scope := sc, src := cmd, win := (s.ctxAt (s.coreCtx core)).sr, desc := r.bind, su := bindUnit r.bind }
      modify fun s => s.wrS d hd

def execSrch (d a b sc : Nat) (s : State) : Out := runAC (srchM d a b sc) s

end Sys2Proof.Machine
end

