-- ==== Sys2Proof/Machine/EvMem.lean ====
section
/-! DEFINITION. Events of the memory side and of the engines: accesses that perform (R262 to R266), acknowledgements (R275,
R299), engine commands that go on (R231, R244, R303, R335), frame-table walks (R208, R209), heat and tier moves (R218 to R224),
quarantine (R223), watchdogs (R338), the ends of waits (R255), and trap delivery (R380). -/

namespace Sys2Proof.Machine

/-- An event of a core whose task runs: not while the core is frozen (R375). -/
def runningEvent (core : Nat) (m : M Unit) : M Unit := do
  let c := (← get).coreAt core
  if c.task.isSome && c.frozen.isNone then m

/-- COPY_COMPLETION (R244, R250). -/
def execCopyCompletion (core slot : Nat) (s : State) : Out := runLive (runningEvent core (runCopy core slot)) s

/-- FOLLOW_ON_MMA (R164). -/
def execFollowOnMma (core slot : Nat) (s : State) : Out := runLive (runningEvent core (runFollowOn core slot)) s

/-- SEARCH_SCAN (R303). -/
def execSearchScan (core slot : Nat) (s : State) : Out := runLive (runningEvent core (runScan core slot)) s

/-- SEARCH_COMPLETION (R335). -/
def execSearchCompletion (core slot : Nat) (s : State) : Out := runLive (runningEvent core (runSearch core slot)) s

/-- The oldest entry of a vector queue that waits for its lanes becomes poppable. -/
def fillFirst : List VEntry → List VEntry
  | [] => []
  | e :: es => if e.ready then e :: fillFirst es else { e with ready := true } :: es

/-- VECTOR_QUEUE_ENTRY_FILLED (R231). -/
def execVectorQueueEntryFilled (core q : Nat) (s : State) : Out :=
  runLive (modify fun s => s.updCore core fun c =>
    { c with q := { c.q with qv := c.q.qv.set [] q (fillFirst (c.q.qv.get [] q)) } }) s

/-- STASH_WRITEBACK (R199): a dirty stash line goes back at a time of the device's choosing. -/
def stashWritebackM (core line : Nat) : M Unit := do
  match ((← get).coreAt core).stLine.get none line with
  | some l => if l.dirty then stashClean core line l
  | none => pure ()

def execStashWriteback (core line : Nat) (s : State) : Out := runLive (stashWritebackM core line) s

/-- SPILL_ACKNOWLEDGEMENT (R299): the oldest spill of a region is written and acknowledged, once its unit is out of any reset
(R338). -/
def spillAckM (core ent : Nat) : M Unit := do
  let s ← get
  match s.spills.find? fun p => decide (p.core = core) && decide (p.ent = ent) with
  | some p => if !(s.seqrAt p.su).resetting then ackSpill p
  | none => pure ()

def execSpillAcknowledgement (core ent : Nat) (s : State) : Out := runLive (spillAckM core ent) s

/-- ACCESS_PERFORMED (R262): the k-th waiting store performs, if it may. -/
def execAccessPerformed (k : Nat) (s : State) : Out := runLive (performNth k) s

/-- The k-th write that is not complete beyond the device completes (R275); interrupts that waited for the device's own writes to the
host are raised (R278). -/
def ackRemote (k : Nat) (s : State) : State :=
  let s := { s with remote := s.remote.eraseIdx k }
  if s.deviceOwes then s else s.irqDue.foldl (fun s i => s.raise i.1 i.2) { s with irqDue := [] }

/-- REMOTE_WRITE_ACKNOWLEDGEMENT (R275, R278). -/
def execRemoteWriteAcknowledgement (k : Nat) (s : State) : Out := runLive (modify (ackRemote k)) s

/-- FRAME_WALK (R208, R209, R221): a miss of a context at an address is walked; kind 0 read, 1 write, 2 fetch. A page fault opens
its episode, any other outcome of the context's own page heats it; each requester meets the outcome at its own access. -/
def frameWalkM (ctx ia kind : Nat) : M Unit := do
  let s ← get
  if 2 ^ 48 ≤ ia ∨ (s.peerWin? ctx ia).isSome then return
  let k : AKind := match kind with | 0 => .read | 1 => .write | _ => .fetch
  let q : Req := { kind := 0, agent := 0, ctx := ctx, ag := 4096 }
  match s.walkBad? ia with
  | some a => set (s.logMc ctx a)
  | none =>
  match s.entry? ia with
  | none => set (s.openEpisode q k (ia / 65536 * 65536))
  | some e =>
    if e.absent then set (s.openEpisode q k (e.page ia))
    else if e.ctx = ctx then
      set (if kind = 1 then s.setHeat e e.rh (min 3 (e.wh + 1)) else s.setHeat e (min 3 (e.rh + 1)) e.wh)

def execFrameWalk (ctx ia kind : Nat) (s : State) : Out := runLive (frameWalkM ctx ia kind) s

/-- One page at a sweep (R221): each nonzero heat falls by 1; a page at zero heat counts its sweeps. -/
def State.coolPage (s : State) (p : Nat × Entry) : State :=
  let e := p.2
  let s := { s with cold := s.cold.set 0 p.1 (if e.rh = 0 ∧ e.wh = 0 then s.cold.get 0 p.1 + 1 else 0) }
  if e.rh = 0 ∧ e.wh = 0 then s else s.setHeat e (e.rh - 1) (e.wh - 1)

/-- HEAT_SWEEP (R221): one sweep each 1 ms. -/
def execHeatSweep (s : State) : Out :=
  runLive (modify fun s =>
    if 1000000 * (s.sweeps + 1) ≤ s.dtime then s.pages.foldl State.coolPage { s with sweeps := s.sweeps + 1 } else s) s

/-- TIER_MOVE (R218 to R224): a page moves to the frame numbered `frame` of a tier. -/
def tierMoveM (ia tier frame : Nat) : M Unit := do
  match (← get).entry? ia with
  | none => pure ()
  | some e =>
    let f ← takeFresh
    let s ← get
    if s.movable e tier (frame * 65536) ∧ s.wantsMove ia e tier f then movePage ia e tier (frame * 65536)

def execTierMove (ia tier frame : Nat) (s : State) : Out := runLive (tierMoveM ia tier frame) s

/-- What a die has counted of a reuse range contradicts its hint (R220). -/
def contradicts (hint : Nat) (x : Nat × Nat × Nat × Nat) : Bool :=
  decide (4096 ≤ x.1) && (if hint = 1 then decide (x.2.2.1 < 2 * x.2.2.2) else decide (x.1 < 2 * x.2.1))

/-- HINTREP_REPORT (R220): the range idx of a launch of the context, of which a task runs, contradicts its hint on some die. -/
def hintrepM (ctx lrec idx : Nat) : M Unit := modify fun s =>
  let active := s.cores.any fun c =>
    match c.2.task with
    | some t => decide (t.ctx = ctx) && decide (t.lva = lrec) && decide (t.w (26 + 2 * idx) ≠ 0) && (List.range 12).any fun d =>
        contradicts (bf (t.w (26 + 2 * idx)) 35 32) (s.ranges.get (0, 0, 0, 0) (16 * (3 * t.launch + idx) + d))
    | none => false
  if active ∧ idx < 3 then s.setSr ctx 197 (BitVec.ofNat 64 (2 ^ 63 + idx * 2 ^ 56 + lrec % 2 ^ 56)) else s

def execHintrepReport (ctx lrec idx : Nat) (s : State) : Out := runLive (hintrepM ctx lrec idx) s

/-- QUIESCENCE_EPOCH (R223): the epoch advances every 8 µs. -/
def execQuiescenceEpoch (s : State) : Out :=
  runLive (modify fun s => if 8000 * s.qepoch ≤ s.dtime then { s with qepoch := s.qepoch + 1 } else s) s

/-- The oldest frame of a tier leaves its queue once `qdone` has reached its epoch. -/
def releaseFirst (tier qdone : Nat) : List Quar → List Quar
  | [] => []
  | q :: qs => if q.tier ≠ tier then q :: releaseFirst tier qdone qs else if q.epoch ≤ qdone then qs else q :: qs

/-- QUARANTINE_RELEASE (R223). -/
def execQuarantineRelease (tier : Nat) (s : State) : Out :=
  runLive (modify fun s => { s with quar := releaseFirst tier s.qdone s.quar }) s

/-- REFRESH_DEBT_REPAYMENT (R337). -/
def execRefreshDebtRepayment (dram : Nat) (s : State) : Out :=
  runLive (modify fun s => if s.debt.get 0 dram = 8 then { s with debt := s.debt.set 0 dram 0 } else s) s

/-- The limit of a sequencer's watchdog in ns (R338, Table 14.4). -/
def State.wdLimit (s : State) (q : Nat) : Nat :=
  let w := (s.mgr (0x1B00 + 8 * q)).toNat
  1000 * (if w = 0 then 1000 else w)

/-- WATCHDOG (R338): at its limit, the sequencer and its search unit are reset. -/
def watchdogM (q : Nat) : M Unit := do
  let s ← get
  if s.wdLimit q ≤ (s.seqrAt q).wd ∧ !(s.seqrAt q).resetting then
    seqReset q
    modify fun s => s.setSeqr q { s.seqrAt q with resetting := true, wd := 0 }

def execWatchdog (seq : Nat) (s : State) : Out := runLive (watchdogM seq) s

/-- WATCHDOG_RESET_COMPLETE (R338). -/
def execWatchdogResetComplete (seq : Nat) (s : State) : Out :=
  runLive (modify fun s => s.setSeqr seq { s.seqrAt seq with resetting := false }) s

/-- The A-stream of a core that waits in `waitw`, on its own turn. -/
def State.waiter? (s : State) (core : Nat) : Option (Waitw × State) :=
  let c := s.coreAt core
  match c.waitw with
  | some w => if c.task.isSome && c.frozen.isNone && !s.halted then some (w, { s with cur := .strm core .a }) else none
  | none => none

/-- WAITW_WAKE (R255): the word is read again. -/
def execWaitwWake (core : Nat) (s : State) : Out :=
  match s.waiter? core with
  | some (w, t) => runA (waitwM w.cc w.d w.a w.b core) t
  | none => .next s

/-- WAITW_TIMEOUT (R255): the limit has passed; the word is read again, and its condition comes before the limit. -/
def execWaitwTimeout (core : Nat) (s : State) : Out :=
  match s.waiter? core with
  | some (w, t) => if w.limit ≠ 0 ∧ w.limit ≤ s.dtime - w.since then runA (waitwM w.cc w.d w.a w.b core) t else .next s
  | none => .next s

/-- EVENT_WINDOW (R91): the window of class c of a core's task is started anew when its time has passed. -/
def execEventWindow (core c : Nat) (s : State) : Out :=
  runLive (runningEvent core (modify fun s => s.evRoll core (s.coreCtx core) c)) s

/-- TRAP_DELIVERY (R380): the record latched in a frozen core is delivered. -/
def execTrapDelivery (core : Nat) (s : State) : Out :=
  runLive (do if ((← get).coreAt core).rcdDue then deliver core) s

end Sys2Proof.Machine
end

