-- ==== Sys2Proof/Machine/EvHost.lean ====
section
/-! DEFINITION. What the host, the peers and the host driver do to the device: host and peer requests (R366, R368, R369),
resets of a function (R368), key slots (R365), late-frame pools and requests (R214, R370), queue words (R318), frame-table
updates (R207), and writes of the registers of Tables 14.3, 14.4 and 15.10. -/

namespace Sys2Proof.Machine

/-- A request from outside arrives: the device is in W0 (R371). -/
def hostTouch : M Unit := modify fun s => { s.wake with lastReq := s.dtime }

/-- The 4 KiB pieces of n bytes from a virtual address. -/
def vaPieces (va n : Nat) : List (Nat × Nat) :=
  if n = 0 then [] else
  (List.range ((va + n - 1) / 4096 + 1 - va / 4096)).map fun i =>
    let lo := max va (4096 * (va / 4096 + i))
    (lo, min (va + n) (4096 * (va / 4096 + i + 1)) - lo)

/-- A translation of a request from outside; a fault of it is a violation (R366, R368), logged with an open address, for there
is no intermediate one. -/
def outerXlate (q : Req) (va n : Nat) (p : Perm) : M Nat := do
  match (← get).translate? q va n p with
  | .ok ia => pure ia
  | .error c => do
    let f ← takeFresh
    modify fun s => s.violate q.ctx q.kind q.agent (Config.freeWord f).toNat
    fail { code := c }

/-- Every piece of a request from outside is translated and granted before any is accessed (R366). -/
def outerGrant (q : Req) (va n : Nat) (w : Bool) : M (List (List (Loc × Nat × Nat × Nat) × Nat)) := do
  let p : Perm := if w then { w := true } else { r := true }
  let ias ← (vaPieces va n).mapM fun x => do
    let ia ← outerXlate q x.1 x.2 p
    pure (ia, x)
  let k : AKind := if w then .write else .read
  ias.forM fun x => withVa x.2.1 x.1 (walkAll q x.1 x.2.2 k)
  whole (ias.mapM fun x => do
    let ps ← grantAll q x.2.1 x.1 x.2.2 k
    pure (ps, x.2.1 - va))

/-- n bytes read for a request from outside; they leave the device. -/
def outerRead (q : Req) (va n : Nat) : M Unit := do
  (← outerGrant q va n false).forM fun x => do
    let _ ← readEach q (oneAccess va n) x.1

/-- Bytes written for a request from outside, in order (R278). -/
def outerWrite (q : Req) (va : Nat) (bs : List Byte) : M Unit := do
  (← outerGrant q va bs.length true).forM fun x => writeEach q (oneAccess va bs.length) x.1 (bs.drop x.2)

/-- The virtual address of BAR2 offset o (R368). -/
def State.bar2 (s : State) (f o : Nat) : Nat := bf (s.fr f 0x60) 55 0 + o

/-- There is no such function (R362). -/
def State.noFn (s : State) (f : Nat) : Bool := decide (63 < f) || decide (s.numVfs < f)

/-- HOST_READ (R368): n bytes at a BAR2 offset of a function. -/
def hostReadM (f o n : Nat) : M Unit := do
  let s ← get
  if s.halted ∨ s.noFn f ∨ 2 ^ 36 < o + n then return
  hostTouch
  outerRead (s.hostReq f) (s.bar2 f o) n

/-- HOST_WRITE (R368, R278). -/
def hostWriteM (f o : Nat) (bs : List Byte) : M Unit := do
  let s ← get
  if s.halted ∨ s.noFn f ∨ 2 ^ 36 < o + bs.length then return
  hostTouch
  outerWrite (s.hostReq f) (s.bar2 f o) bs

/-- The request of a host access that the function of a context makes for it (R362). -/
def State.hostReqFor (s : State) (ctx : Nat) : Req := { s.hostReq (s.fnOf ctx) with ctx := ctx, win := (s.ctxAt ctx).sr }

/-- FIN_WRITE (R350): the host posts frames of slot i of a context through the context's function, within its aperture (R362, R368). -/
def finWriteM (ctx i v : Nat) : M Unit := do
  let s ← get
  let va := bf (s.sr ctx 320) 55 7 * 128 + 128 * i + 64
  let lo := s.bar2 (s.fnOf ctx) 0
  if 63 < ctx ∨ va < lo ∨ lo + 2 ^ 36 < va + 4 then return
  hostTouch
  outerWrite (s.hostReqFor ctx) va (leBytes 4 v)

def execFinWrite (ctx i v : Nat) (s : State) : Out := runLive (finWriteM ctx i v) s

def execHostRead (fn off n : Nat) (s : State) : Out := runEvent (hostReadM fn off n) s
def execHostWrite (fn off : Nat) (data : List Byte) (s : State) : Out := runEvent (hostWriteM fn off data) s

/-- The request of a peer behind a port for a function (R369). -/
def State.peerReq (s : State) (port f : Nat) : Req :=
  { kind := 4, agent := port, ctx := f, ag := 2048 + port, win := (s.ctxAt f).sr }

/-- PEER_REQUEST (R369): accepted where `pcfg` of the function's context names the port; a violation otherwise. -/
def peerRequestM (port f va : Nat) (r : PeerReq) : M Unit := do
  let s ← get
  if s.halted ∨ 7 < port ∨ s.noFn f then return
  hostTouch
  let q := s.peerReq port f
  if !bit (s.sr f 389) port then
    let n ← takeFresh
    modify fun s => s.violate f 4 port (Config.freeWord n).toNat
  else
    match r with
    | .rd n => outerRead q va n
    | .wr bs => outerWrite q va bs
    | .amo o w x e =>
      let w := if w = 0 ∧ o < 10 then 64 else 32
      if 12 < o ∨ va % 4 ≠ 0 then return
      let ia ← outerXlate q va (w / 8) { r := true, w := true }
      let _ ← atomicAt q va ia o w (x.toNat % 2 ^ w) (e.toNat % 2 ^ w)

def execPeerRequest (port fn va : Nat) (req : PeerReq) (s : State) : Out := runEvent (peerRequestM port fn va req) s

/-- A management register is written (Tables 14.4 and 15.10). -/
def State.setMg (s : State) (off : Nat) (v : Word) : State := { s with mg := s.mg.set 0 off v }

/-- A write that breaks a check is ignored, and `mgerr` holds a nonzero code, which the spec leaves open (R370). -/
def mgReject : M Unit := do
  let f ← takeFresh
  modify fun s => s.setMg 0x1008 (BitVec.ofNat 64 (1 + Config.freeNat f % (2 ^ 32 - 1)))

/-- `ctxsel` (Table 14.4). -/
def State.ctxSel (s : State) : Nat := bf (s.mgr 0x1000) 5 0

/-- Valid frame-table entries that name a key slot (R365). -/
def State.keyUses (s : State) (k : Nat) : Nat := (s.pages.filter fun p => decide (p.2.key = k)).length

/-- KSLOT_LOAD (R365): the eight words of `kdata` become the slot's key pair, and are cleared. -/
def kslotLoadM (owner slot : Nat) : M Unit := do
  hostTouch
  let s ← get
  if 63 < slot ∨ 63 < owner ∨ s.keyUses slot ≠ 0 then mgReject
  else
    let ws := (List.range 8).map fun i => (s.mgr (0x1018 + 8 * i)).toNat
    let x : KSlot := { loaded := true, owner := owner, key := BitVec.ofNat 512 (packFields 64 ws) }
    set { s with
      kslots := s.kslots.set {} slot x
      mg := (List.range 8).foldl (fun m i => m.set 0 (0x1018 + 8 * i) 0) s.mg }

/-- KSLOT_UNLOAD (R365). -/
def kslotUnloadM (slot : Nat) : M Unit := do
  hostTouch
  let s ← get
  if 63 < slot ∨ s.keyUses slot ≠ 0 then mgReject
  else set { s with kslots := s.kslots.set {} slot {} }

def execKslotLoad (owner slot : Nat) (s : State) : Out := runEvent (kslotLoadM owner slot) s
def execKslotUnload (slot : Nat) (s : State) : Out := runEvent (kslotUnloadM slot) s

/-- LFPUSH (R370): the frame numbered `frame` joins the pool of `ctxsel` of its kind; a frame in quarantine is rejected (R223). -/
def lfpushM (frame kind : Nat) : M Unit := do
  hostTouch
  let s ← get
  let c := s.ctxAt s.ctxSel
  let l := c.lf.get [] (kind % 4)
  let k := kind % 4
  if 65535 ≤ l.length ∨ s.inQuarantine (poolTier k) (frame % 2 ^ 36 * 65536) (poolSize k) then mgReject
  else set (s.setCtx s.ctxSel { c with lf := c.lf.set [] (kind % 4) (l ++ [frame % 2 ^ 36 * 65536]) })

def execLfpush (frame kind : Nat) (s : State) : Out := runEvent (lfpushM frame kind) s

/-- LFREQ (R370, R214): a polder page of `ctxsel` gets a late frame. -/
def lfreqM (ia : Nat) : M Unit := do
  hostTouch
  let s ← get
  match s.entry? ia with
  | none => mgReject
  | some e =>
    if !e.v ∨ !e.isPolder ∨ e.ctx ≠ s.ctxSel ∨ (s.poolFor e false).isNone then mgReject
    else
      settlePage e ia
      match (← get).poolFor e false with
      | some p => lateFrame e ia p
      | none => pure ()

def execLfreq (ia : Nat) (s : State) : Out := runEvent (lfreqM ia) s

/-- The bits of a task-queue word that a write stores (Table 12.1). -/
def queueMask : Nat := 2 ^ 63 + (2 ^ 56 - 2 ^ 50) + (2 ^ 48 - 2 ^ 38)

/-- TASK_QUEUE_WORD_WRITE (R318). -/
def queueWordM (q : Nat) (w : Word) : M Unit := do
  hostTouch
  let s ← get
  let w := w &&& BitVec.ofNat 64 queueMask
  let die := q / 64
  let others := ((List.range 64).map fun i => if 64 * die + i = q then 0 else bf (s.mgr (0x1300 + 8 * (64 * die + i))) 47 41).sum
  if 255 < q ∨ 80 < others + bf w 47 41 ∨ (bf w 55 50 ≠ bf (s.queueWord q) 55 50 ∧ s.pendOf q ≠ 0) then mgReject
  else set (s.setMg (0x1300 + 8 * q) w)

def execTaskQueueWordWrite (q w : Nat) (s : State) : Out := runEvent (queueWordM q (BitVec.ofNat 64 w)) s

/-- MGERR_CLEAR (R370). -/
def mgerrClearM : M Unit := do
  hostTouch
  modify fun s => s.setMg 0x1008 0

def execMgerrClear (s : State) : Out := runEvent mgerrClearM s

/-- LOST_CLEAR (R367, Table 14.3): a write of BAR0, which only the physical function answers while the device is halted (R393). -/
def lostClearM (f : Nat) : M Unit := do
  if (← get).noFn f ∨ ((← get).halted ∧ f ≠ 0) then return
  hostTouch
  modify fun s => s.setFr f 0x68 0

def execLostClear (fn : Nat) (s : State) : Out := runEvent (lostClearM fn) s

/-- FUNCTION_LEVEL_RESET (R368, Table 15.11) of a virtual function: its context's queues are disabled, Table 14.3 is reset. -/
def flrM (f : Nat) : M Unit := do
  if f = 0 ∨ (← get).noFn f then return
  hostTouch
  modify fun s =>
    let s := (List.range 256).foldl (fun s q =>
      let w := s.mgr (0x1300 + 8 * q)
      if bf w 55 50 = f then s.setMg (0x1300 + 8 * q) (setBf w 63 63 0) else s) s
    s.setFn f { s.fnAt f with reg := [] }

def execFunctionLevelReset (fn : Nat) (s : State) : Out := runEvent (flrM fn) s

/-- LINK_INITIALISATION (R369): the port advertises ZEL and 256-byte flits. -/
def execLinkInitialisation (port : Nat) (s : State) : Out :=
  runEvent (modify fun s => { s with zel := s.zel.set false port true }) s

/-- Where a frame-table update goes (R206): a 2 MiB page's entry heads its group; so does the entry that governs the address now,
if it describes one; otherwise the address has its own. None where the level-1 entry is not valid. -/
def State.slotFor (s : State) (ia : Nat) (big : Bool) : Option Entry :=
  match s.entry? (ia / 2 ^ 21 * 2 ^ 21) with
  | none => none
  | some h => if big ∨ h.big then some h else s.entry? ia

/-- The device's own fields of an entry: heats and override; and of its second word (Table 8.3). -/
def keepDevice (e : Entry) (e0 e1 : Word) : Word × Word :=
  if e.v then
    (setBf (setBf e0 46 43 (bf e.e0 46 43)) 36 32 (bf e.e0 36 32), setBf e1 20 0 (bf e.e1 20 0))
  else (e0, e1)

/-- A new entry breaks a constraint of Table 8.3 or of R365, whether it is valid or not. -/
def State.entryBad (s : State) (e0 e1 : Word) : Bool :=
  let n : Entry := ⟨0, e0, e1⟩
  let k := s.kslots.get {} n.key
  decide (n.ord = 3) || (n.pol && decide (n.tier ≠ 3)) || (n.cc && !(n.big && decide (n.tier = 0) && n.pin)) ||
    decide (11 < n.ovr) || decide (bf e0 31 0 ≠ 0) || decide (bf e1 27 21 ≠ 0) || !k.loaded || decide (k.owner ≠ n.ctx)

/-- A change that R207 forbids on the entry of a polder page: it clears `pol`, changes `tier` or sets `frame`, and does so even
where it clears `v` as well. -/
def polderBad (e : Entry) (e0 e1 : Word) : Bool :=
  let n : Entry := ⟨0, e0, e1⟩
  e.v && e.isPolder && (!n.isPolder || decide (n.frame ≠ e.frame))

/-- A page's entry changes owner while it is a polder page: its blocks are its new context's. -/
def State.moveBlocks (s : State) (e : Entry) (ia ctx : Nat) : State :=
  let n := s.pageBlocks e ia
  let a := s.ctxAt e.ctx
  let s := s.setCtx e.ctx { a with blocks := a.blocks - n }
  let b := s.ctxAt ctx
  s.setCtx ctx { b with blocks := b.blocks + n }

/-- The change gives a page a frame that it did not have (R223). -/
def takesFrame (e n : Entry) : Bool :=
  n.v && decide (n.tier < 3) && !(e.v && decide (e.tier = n.tier) && decide (e.frame = n.frame) && e.big == n.big)

/-- FRAME_TABLE_UPDATE (R207): the host driver's change of the entry at an address. A released polder page loses its lines; a
frame that the page gives up goes to quarantine (R223), and the change waits while that queue is full. A frame in quarantine is
not taken. -/
def frameTableM (ia : Nat) (w0 w1 : Word) : M Unit := do
  hostTouch
  let s ← get
  match s.slotFor ia (bit w0 62) with
  | none => mgReject
  | some e =>
    let (e0, e1) := keepDevice e w0 w1
    let n : Entry := ⟨e.addr, e0, e1⟩
    if 2 ^ 48 ≤ ia ∨ s.entryBad e0 e1 ∨ polderBad e e0 e1 ∨ (takesFrame e n ∧ s.inQuarantine n.tier n.frame n.size) then mgReject
    else
      let frees := e.v && decide (e.tier < 3) && (!n.v || decide (n.tier ≠ e.tier) || decide (n.frame ≠ e.frame) || n.big != e.big)
      if frees ∧ 65536 ≤ s.quarLen e.tier then return
      settlePage e ia
      modify fun s =>
        let s := if e.v ∧ e.isPolder then
            if !n.v ∨ n.big != e.big then s.dropPolder e ia
            else if n.ctx ≠ e.ctx then s.moveBlocks e ia n.ctx else s
          else s
        let s := if frees then s.quarantine e else s
        s.putEntry ia e e0 e1

def execFrameTableUpdate (ia e0 e1 : Nat) (s : State) : Out :=
  runEvent (frameTableM ia (BitVec.ofNat 64 e0) (BitVec.ofNat 64 e1)) s

/-- Special registers 192 to 447 that the host may not write (Tables 8.5, 13.1, 14.2; R220, R223). -/
def hostReadOnly (n : Nat) : Bool :=
  !srDefined n || [193, 194, 198, 199, 323, 388, 393, 396, 397].contains n

/-- The host's write of `dike`: units under R210, and the quota, which may not fall below the units in use (R370). -/
def hostDike (ctx : Nat) (v : Word) : M Unit := do
  let s ← get
  let u := bf v 11 0
  let q := bf v 43 32
  if q < bf (s.sr ctx 192) 11 0 then return
  if s.dikeOk ctx u q then set (s.setSr ctx 192 (BitVec.ofNat 64 (q * 2 ^ 32 + u))) else mgReject

/-- The host's write of special register n of `ctxsel` (R370, Table 14.4). -/
def hostSr (ctx n : Nat) (v : Word) : M Unit := do
  let s ← get
  if hostReadOnly n then return
  else if n = 192 then hostDike ctx v
  else if (n = 385 ∧ bf v 23 0 < s.rowsHeld ctx) ∨ (n = 386 ∧ bf v 15 0 < s.slotsUsed ctx) then return
  else if 400 ≤ n ∧ n % 4 = 3 ∧ bf v 60 59 = 3 then mgReject
  else
    tryCatch (writeCtxReg { ctx := ctx } n v) fun e =>
      match e with
      | .fault _ => mgReject
      | e => throw e

/-- The bits of a function register that a write stores; none of a register that only the device writes (Table 14.3). -/
def fnMask (off : Nat) : Nat :=
  match off with
  | 0x00 => 2 ^ 64 - 1
  | 0x08 => 15
  | 0x20 => 2 ^ 64 - 1
  | 0x28 => 15
  | 0x30 => 65535
  | 0x40 => 2 ^ 64 - 1
  | 0x48 => 15
  | 0x50 => 65535
  | 0x60 => 2 ^ 56 - 1
  | _ => 0

/-- A write of a function register that stores its value (Table 14.3). -/
def fnWrite (f off : Nat) (v : Word) : M Unit := do
  if off = 0x10 then doorbellM f (bf v 15 0)
  else if off = 0x68 then lostClearM f
  else if fnMask off ≠ 0 then modify fun s => s.setFr f off (v &&& BitVec.ofNat 64 (fnMask off))

/-- The bits of a management or firmware register that a write stores as it is (Tables 14.4 and 15.10). -/
def mgMask (off : Nat) : Nat :=
  if off = 0x1000 then 63
  else if 0x1018 ≤ off ∧ off ≤ 0x1050 ∧ off % 8 = 0 then 2 ^ 64 - 1
  else if off = 0x1080 then 2 ^ 48 - 2 ^ 12
  else if off = 0x1090 then 2 ^ 32 - 1
  else if off = 0x1098 then 1
  else if 0x1B00 ≤ off ∧ off < 0x1B00 + 8 * 48 ∧ off % 8 = 0 then 2 ^ 20 - 1
  else if off = 0x3000 then 2 ^ 64 - 1
  else if off = 0x3008 then 2 ^ 32 - 1
  else 0

/-- The value breaks the check that the register's table names. -/
def mgBad (off : Nat) (v : Word) : Bool :=
  let x := v.toNat
  if 0x1B00 ≤ off ∧ off < 0x1B00 + 8 * 48 then decide (x < 10) || decide (1000000 < x)
  else if off = 0x3000 then decide (x % 4096 ≠ 0)
  else if off = 0x3008 then decide (x = 0) || decide (64 * 2 ^ 20 < x)
  else false

/-- A write of a management register of the physical function (R370, R392). -/
def mgWrite (off : Nat) (v : Word) : M Unit := do
  if off = 0x1008 then mgerrClearM
  else if off = 0x1010 then
    if bit v 63 then kslotLoadM (bf v 13 8) (bf v 5 0) else kslotUnloadM (bf v 5 0)
  else if off = 0x1088 then lfpushM (bf v 51 16) (bf v 1 0)
  else if off = 0x10A0 then lfreqM (bf v 47 16 * 65536)
  else if 0x1300 ≤ off ∧ off < 0x1300 + 8 * 256 ∧ off % 8 = 0 then queueWordM ((off - 0x1300) / 8) v
  else if 0x2000 + 8 * 192 ≤ off ∧ off < 0x2000 + 8 * 448 ∧ off % 8 = 0 then
    hostSr (← get).ctxSel ((off - 0x2000) / 8) v
  else if mgMask off ≠ 0 then
    if mgBad off v then mgReject
    else
      modify fun s =>
        let s := s.setMg off (v &&& BitVec.ofNat 64 (mgMask off))
        if off = 0x1098 ∧ !bit v 0 then { s with tsync := setBf s.tsync 62 62 0 } else s

/-- REGISTER_WRITE (R367, R370, R392): the host writes a BAR0 register of a function; the management registers are the physical
function's. A write of `fwctl` (0x3010) is FW_RELOAD. -/
def registerWriteM (f off : Nat) (v : Word) : M Unit := do
  if (← get).noFn f ∨ ((← get).halted ∧ f ≠ 0) then return
  hostTouch
  if off < 0x1000 then fnWrite f off v
  else if f = 0 then mgWrite off v

def execRegisterWrite (fn off v : Nat) (s : State) : Out := runEvent (registerWriteM fn off (BitVec.ofNat 64 v)) s

end Sys2Proof.Machine
end

