-- ==== Sys2Proof/Machine/Slots.lean ====
section
/-! DEFINITION. Stream slots (R342 to R360): their fields, the KV slot's descriptors (R287, R288), cuts (R352), the sluice
(R351), the timer (R346), eviction (R359), and the slot instructions (R354 to R358). -/

namespace Sys2Proof.Machine

/-- Field hi:lo of word i of a slot. -/
def slotF (d : SlotDev) (i hi lo : Nat) : M Nat := do pure (bf (← slotWord d i) hi lo)

/-- Field hi:lo of word i of a slot := v. -/
def setSlotF (d : SlotDev) (i hi lo v : Nat) : M Unit := do setSlotWord d i (setBf (← slotWord d i) hi lo v)

/-- A 16-bit count of W13 rises by n, saturating. -/
def slotCount (d : SlotDev) (lo n : Nat) : M Unit := do
  if n ≠ 0 then setSlotF d 13 (lo + 15) lo (satAdd 16 (← slotF d 13 (lo + 15) lo) n)

/-- The request of the sluice and of the slot operations for a context (R351). -/
def slotDevReq (ctx : Nat) : M Req := do pure ((← get).devReq 0 ctx)

/-- A sequence slot's descriptor: `abase`, `maxpos`, `stride`, `pslot`, `plen` (R287, Table 11.1). -/
structure KvDesc where
  abase : Nat
  maxpos : Nat
  stride : Nat
  pslot : Nat
  plen : Nat
  deriving DecidableEq, Repr

/-- The descriptor of sequence slot k of a context. -/
def kvDesc (ctx k : Nat) : M KvDesc := do
  let q ← slotDevReq ctx
  let bs ← readVa q (bf ((← get).sr ctx 322) 55 5 * 32 + 32 * k) 24 { r := true } .read
  let w (i : Nat) : Word := BitVec.ofNat 64 (leNat ((bs.drop (8 * i)).take 8))
  pure ⟨bf (w 0) 55 0, bf (w 1) 63 32, bf (w 1) 31 0, bf (w 2) 63 48, bf (w 2) 31 0⟩

/-- kv_addr of R288. -/
def kvAddr (ctx k p : Nat) : M Nat := do
  let d ← kvDesc ctx k
  let d ← if d.pslot ≠ 0xFFFF ∧ p < d.plen then kvDesc ctx d.pslot else pure d
  pure (d.abase + p * d.stride)

/-- The headers of a slot's checkpoint ring (R344). -/
def slotHeaders (d : SlotDev) : M (List Word) := do
  let at_ ← slotF d 6 55 0
  let q ← slotDevReq d.ctx
  (List.range 4).mapM fun j => do
    pure (BitVec.ofNat 64 (leNat (← readVa q (at_ + 8 * j) 8 { r := true } .read)))

/-- The valid headers: number and position (R344). -/
def validHeaders (hs : List Word) : List (Nat × Nat) :=
  (hs.zipIdx.filter fun h => bit h.1 63 && decide (bf h.1 31 0 % 16 = 0)).map fun h => (h.2, bf h.1 31 0)

/-- cut_ok of R352. -/
def cutOk (plen : Nat) (hs : List Word) (x : Nat) : Bool := decide (plen ≤ x) && (validHeaders hs).any fun h => decide (h.2 ≤ x)

/-- The header that a cut to x restores (R352). -/
def cutHeader (hs : List Word) (x : Nat) : Option (Nat × Nat) :=
  ((validHeaders hs).filter fun h => decide (h.2 ≤ x)).foldl (fun b h =>
    match b with
    | none => some h
    | some c => if c.2 < h.2 then some h else b) none

/-- cut of R352, in the atomic step: G, `rp` and `rck` of a slot; the entry restored, or none where x = G. -/
def cutStep (d : SlotDev) (hs : List Word) (x : Nat) : M (Option Nat) := do
  if x = (← slotF d 0 31 0) then pure none else
  match cutHeader hs x with
  | none => pure none
  | some h => do
    setSlotF d 0 31 0 x
    setSlotF d 11 63 32 h.2
    setSlotF d 12 59 58 h.1
    pure (some h.1)

/-- A slot event of R360. -/
def slotEvent (gnum : Nat) (d : SlotDev) (kind code word : Nat) : M Unit :=
  modify fun s => s.sendEvent d.ctx gnum kind code word

/-- An access of the memory work: one that faults is skipped, with event 3 (R351). -/
def workAccess (gnum : Nat) (d : SlotDev) (frame : Nat) (m : M Unit) : M Unit :=
  tryCatch m fun e =>
    match e with
    | .fault f => slotEvent gnum d 3 f.code frame
    | e => throw e

/-- The region that a handle names for a context, on the handle's own core (R173). -/
def State.regionNamed? (s : State) (ctx h : Nat) : Option Region := (s.coreAt (hCore h)).regionOf? (hCore h) ctx h

/-- The row keys of a region that a cut to page p deletes (R352). -/
def Core.cutRows (c : Core) (r : Region) (seq p : Nat) : List Nat :=
  ((List.range r.rows).map (r.base + ·)).filter fun k => (c.row k).valid && decide ((c.row k).seq = seq) && decide (p ≤ (c.row k).page)

/-- The Z-stream of a core's running task stands inside a word that waits for an acknowledgement (R308, R310, R313). -/
def Core.insideZ (c : Core) : Bool :=
  c.task.isSome && c.frozen.isNone && decide ((c.strmAt .z).st = .running) &&
    (match (c.strmAt .z).wait with | some (.flight _) => true | _ => false)

/-- Deletions in one region and its bound store (R352, R302); it waits for the acknowledgement of a moving row (R300), and for a
boundary of the core's Z-stream (R313). -/
def cutRegion (gnum : Nat) (d : SlotDev) (frame h seq p : Nat) : M Unit := do
  let s ← get
  match s.regionNamed? d.ctx h with
  | none => slotEvent gnum d 3 0 frame
  | some r =>
    let core := hCore h
    if (s.coreAt core).insideZ then stall (.flight 0)
    let ks := (s.coreAt core).cutRows r seq p
    if ks.any fun k => ((s.coreAt core).row k).moving && !s.acked core k then stall (.flight 0)
    modify fun s => s.updCore core fun c => ks.foldl (fun c k => c.setRow k (c.row k).reaped) c
    if bindV r.bind then
      let q ← slotDevReq d.ctx
      (List.range (2 ^ bindCap r.bind)).forM fun i => workAccess gnum d frame do
        let ia := bindBase r.bind + 64 * i + 32
        let ps ← grantAll q ia ia 8 .write
        let w := BitVec.ofNat 64 (leNat (← readAll q ps))
        if bit w 62 ∧ bf w 39 24 = seq ∧ p ≤ bf w 23 0 then writeAll q ps (leBytes 8 (setBf w 62 62 0).toNat)

/-- The memory work of a cut to x with entry j (R352). -/
def cutWork (gnum : Nat) (d : SlotDev) (frame x j : Nat) : M Unit := do
  let q ← slotDevReq d.ctx
  let seq ← slotF d 1 15 0
  let nrl ← slotF d 14 58 56
  let rl ← slotF d 14 55 0
  if rl ≠ 0 then
    (List.range (nrl + 1)).forM fun i => do
      let h ← tryCatch (do pure (some (leNat (← readVa q (rl + 4 * i) 4 { r := true } .read)))) fun e =>
        match e with
        | .fault f => do
          slotEvent gnum d 3 f.code frame
          pure none
        | e => throw e
      match h with
      | some h => cutRegion gnum d frame h seq (x / 16)
      | none => pure ()
  let ck ← slotF d 6 55 0
  let cz := (← slotF d 6 63 56) + 1
  let dst ← slotF d 5 55 0
  (List.range 4).forM fun i => workAccess gnum d frame do
    let w := BitVec.ofNat 64 (leNat (← readVa q (ck + 8 * i) 8 { r := true } .read))
    if bit w 63 ∧ x < bf w 31 0 then writeVa q (ck + 8 * i) (leBytes 8 (setBf w 63 63 0).toNat)
  (List.range (8192 * cz)).forM fun i => workAccess gnum d frame do
    let bs ← readVa q (ck + 65536 * (1 + j * cz) + 8 * i) 8 { r := true } .read
    writeVa q (dst + 8 * i) bs

/-- The memory work of a frame or a truncation, and what completes it (R351, R352, R356). -/
def doWork (gnum : Nat) (d : SlotDev) (w : SlWork) : M Unit := do
  slotHold d
  let q ← slotDevReq d.ctx
  let fdone ← slotF d 8 63 32
  let frame := w.frame.getD fdone
  match w.cut with
  | some (x, j) => cutWork gnum d frame x j
  | none => pure ()
  let k ← slotF d 1 15 0
  w.toks.forM fun t => workAccess gnum d frame do writeVa q (← kvAddr d.ctx k t.1) (leBytes 4 t.2)
  setSlotF d 12 63 63 0
  if w.frame.isSome then
    setSlotF d 8 63 32 (fdone + 1)
    setSlotWord d 10 (BitVec.ofNat 64 (← get).dtime)
  modify fun s => { s with slots := s.slots.set {} gnum { s.slots.get {} gnum with work := (s.slots.get {} gnum).work.filter fun x => decide (x.id ≠ w.id) } }

/-- The slot in use at index i of a context's table, by gnum. -/
def State.slotAt? (s : State) (ctx i : Nat) : Option (Nat × SlotDev) :=
  s.slots.find? fun d => d.2.used && decide (d.2.ctx = ctx) && decide (d.2.idx = i)

/-- A frame completes without effect on the cursors (R351). -/
def skipFrame (d : SlotDev) (f : Nat) : M Unit := do
  setSlotF d 8 63 32 (f + 1)
  setSlotWord d 10 (BitVec.ofNat 64 (← get).dtime)

/-- The atomic step of a frame that has been read: header words and tokens (R351). The checkpoint headers are read only for a barge-in
that may cut; a fault in reading them or the slot's descriptor skips the rest of the frame, with event 3. -/
def sluiceStep (gnum : Nat) (d : SlotDev) (f : Nat) (h0 h1 : Word) (toks : List Nat) : M Unit := do
  let due := bf h0 63 32
  let ck ← slotF d 11 31 0
  let late := decide (due ≠ 0xFFFFFFFF) && decide (due < ck)
  let lfp := decide ((← slotF d 12 60 60) = 1)
  let P ← slotF d 0 63 32
  let G ← slotF d 0 31 0
  let P' := if bit h1 9 then max P (min (bf h0 31 0) G) else P
  let bi := bit h1 8
  if late then
    slotCount d 48 1
    slotEvent gnum d 1 0x0E f
  if late ∧ lfp then skipFrame d f
  else
    setSlotF d 0 63 32 P'
    let look : M (KvDesc × List Word) := do
      let k ← kvDesc d.ctx (← slotF d 1 15 0)
      let hs ← if bi ∧ P' < G then slotHeaders d else pure []
      pure (k, hs)
    match ← tryCatch (do pure (Except.ok (← look))) fun e => match e with | .fault x => pure (.error x.code) | e => throw e with
    | .error code =>
      slotEvent gnum d 3 code f
      skipFrame d f
    | .ok (k, hs) =>
      if bi ∧ P' < G ∧ !cutOk k.plen hs P' then
        slotEvent gnum d 2 0x0F f
        skipFrame d f
      else
        setSlotF d 1 63 32 ((← slotF d 1 63 32) + 1)
        let j ← if bi then cutStep d hs P' else pure none
        let g0 ← slotF d 0 31 0
        let n := min toks.length (k.maxpos - g0)
        slotCount d 16 (toks.length - n)
        setSlotF d 0 31 0 (g0 + n)
        if P' = g0 then setSlotF d 0 63 32 (g0 + n)
        setSlotF d 12 63 63 1
        let id ← takeFresh
        let w : SlWork := ⟨id, some f, (toks.take n).zipIdx.map fun t => (g0 + t.2, t.1), j.map fun j => (P', j)⟩
        modify fun s => { s with slots := s.slots.set {} gnum { s.slots.get {} gnum with work := (s.slots.get {} gnum).work ++ [w] } }

/-- SLUICE (R351): the next posted frame of a slot, once the previous frame's memory work has finished. -/
def sluiceM (ctx i : Nat) : M Unit := do
  match (← get).slotAt? ctx i with
  | none => pure ()
  | some (g, d) =>
    let f ← slotF d 8 63 32
    let fin ← slotF d 8 31 0
    if f = fin ∨ d.work.any (fun w => w.frame.isSome) then return
    slotHold d
    let q ← slotDevReq ctx
    let at_ := (← slotF d 7 55 0) + 256 * (f % 2 ^ (← slotF d 7 63 60))
    match ← tryCatch (do pure (Except.ok (← readVa q at_ 256 { r := true } .read))) fun e => match e with | .fault x => pure (.error x.code) | e => throw e with
    | .error code =>
      slotEvent g d 3 code f
      skipFrame d f
    | .ok bs =>
      let h0 := BitVec.ofNat 64 (leNat (bs.take 8))
      let h1 := BitVec.ofNat 64 (leNat ((bs.drop 8).take 8))
      let n := bf h1 7 0
      if bf h1 63 10 ≠ 0 ∨ 60 < n then
        slotEvent g d 3 0 f
        skipFrame d f
      else sluiceStep g d f h0 h1 ((List.range n).map fun k => leNat ((bs.drop (16 + 4 * k)).take 4))

/-- SLUICE_MEMORY_WORK (R353): the slot's oldest memory work finishes. -/
def sluiceWorkM (ctx i : Nat) : M Unit := do
  match (← get).slotAt? ctx i with
  | none => pure ()
  | some (g, d) =>
    match d.work with
    | [] => pure ()
    | w :: _ => doWork g d w

/-- The periods of a slot's timer that have passed beside the one it acts on (R346). -/
def skipped (time ndl lead period : Nat) : Nat :=
  if period = 0 ∨ time + lead < ndl + period then 0 else (time + lead - (ndl + period)) / period + 1

/-- SLOT_TIMER (R346): the timer of an armed slot acts at `ndl` - `lead`. -/
def slotTimerM (ctx i : Nat) : M Unit := do
  match (← get).slotAt? ctx i with
  | none => pure ()
  | some (g, d) =>
    let st ← slotF d 12 62 61
    let ndl := (← slotWord d 2).toNat
    let lead ← slotF d 3 63 32
    let period ← slotF d 3 31 0
    let s ← get
    if st ≠ 2 ∨ s.dtime + lead < ndl then return
    slotHold d
    modify State.wake
    let overrun : M Unit := do
      slotCount d 32 1
      slotEvent g d 6 0 (← slotF d 11 31 0)
    let reject (r : Nat) : M Unit := do
      setSlotF d 12 62 61 1
      slotEvent g d 7 0 r
    if s.launches.any fun l => d.launch = some l.id && decide (l.next = 0) then overrun
    else
      let q := { (← slotDevReq ctx) with kind := 1, agent := g }
      let lva ← slotF d 4 55 0
      match ← tryCatch (do pure (some (← readVa q lva 256 { r := true } .read))) fun e => match e with | .fault _ => pure none | e => throw e with
      | none => reject 9
      | some bs =>
        let r := recWords bs
        let r := (r.set 0 13 (BitVec.ofNat 64 ndl)).set 0 4 (setBf (r.get 0 4) 19 19 1)
        let s ← get
        if !s.launchRoom r then overrun
        else
          let reason ← tryCatch (submitRec q r lva false true (some g)) fun e => match e with | .fault _ => pure 9 | e => throw e
          if reason = 0 then
            modify fun t => { t with slots := t.slots.set {} g { t.slots.get {} g with launch := some s.accepted } }
          else reject reason
    let k := skipped s.dtime ndl lead period
    setSlotWord d 2 (BitVec.ofNat 64 (ndl + period + k * period))
    slotCount d 32 k
    if period = 0 then setSlotF d 12 62 61 1

/-- A state page of a context gets a late frame from the second tier (R359, step 2): false where the pool has none. A page that is
no polder page of the context any more needs none. -/
def framePage (ctx va : Nat) : M Bool := do
  let s ← get
  match s.translate? (s.devReq 0 ctx) va 1 {} with
  | .error _ => pure true
  | .ok ia =>
    match s.entry? ia with
    | none => pure true
    | some e =>
      if !e.v || !e.isPolder || decide (e.ctx ≠ ctx) then pure true
      else
        match s.poolFor e true with
        | none => pure false
        | some p => do
          settlePage e ia
          lateFrame e ia p
          pure true

/-- A slot's eviction begins, and its state pages receive their frames (R359, steps 1 and 2). -/
def evictSlot (gnum : Nat) (d : SlotDev) : M Unit := do
  setSlotF d 12 62 61 3
  let n := (← slotF d 5 63 56) + 1
  let va ← slotF d 5 55 0
  let oks ← (List.range n).mapM fun k => framePage d.ctx (va + 65536 * k)
  modify fun s => { s with slots := s.slots.set {} gnum { s.slots.get {} gnum with evict := some (oks.all id) } }

/-- SILENCE_EVICTION (R359). -/
def silenceM (ctx i : Nat) : M Unit := do
  match (← get).slotAt? ctx i with
  | none => pure ()
  | some (g, d) =>
    let st ← slotF d 12 62 61
    let sil ← slotF d 9 63 32
    let last := (← slotWord d 10).toNat
    let s ← get
    if (st = 1 ∨ st = 2) ∧ sil ≠ 0 ∧ last + 1000 * sil ≤ s.dtime ∧ d.evict = none then
      slotHold d
      modify State.wake
      evictSlot g d

/-- Steps 3 and 4 of R359, after an eviction in which every state page received its frame (`ok`) or not. -/
def finishEvict (gnum : Nat) (d : SlotDev) (ok : Bool) : M Unit := do
  let dku ← slotF d 9 11 0
  modify fun s =>
    let w := s.sr d.ctx 192
    { s.setSr d.ctx 192 (setBf w 11 0 (bf w 11 0 - dku)) with
      slots := s.slots.set {} gnum { s.slots.get {} gnum with evict := none } }
  setSlotF d 9 11 0 0
  let ck ← slotF d 11 31 0
  if ok then slotEvent gnum d 4 0 ck else slotEvent gnum d 5 0x07 ck

/-- EVICTION_COMPLETE (R359, steps 3 and 4), of a silent slot's eviction. -/
def evictionM (ctx i : Nat) : M Unit := do
  match (← get).slotAt? ctx i with
  | none => pure ()
  | some (g, d) =>
    match d.evict with
    | none => pure ()
    | some ok => finishEvict g d ok

def execSlotTimer (ctx i : Nat) (s : State) : Out := runLive (slotTimerM ctx i) s
def execSluice (ctx i : Nat) (s : State) : Out := runLive (sluiceM ctx i) s
def execSluiceMemoryWork (ctx i : Nat) (s : State) : Out := runLive (sluiceWorkM ctx i) s
def execSilenceEviction (ctx i : Nat) (s : State) : Out := runLive (silenceM ctx i) s
def execEvictionComplete (ctx i : Nat) (s : State) : Out := runLive (evictionM ctx i) s

/-- The slot that a slot instruction names (R354): the address checks; its intermediate address and index, and its record where it
is in use. The core's own waiting stores to it perform first. -/
def slotNamed (core a : Nat) : M (Nat × Nat × Option (Nat × SlotDev)) := do
  let s ← get
  let ctx := s.coreCtx core
  let va := (s.rdS a).toNat
  let base := bf (s.sr ctx 320) 55 7 * 128
  failIf (decide (va % 128 ≠ 0) || decide (va < base) || decide (base + 128 * bf (s.sr ctx 321) 15 0 ≤ va)) { code := 0x05, va := some (va % 2 ^ 56) }
  let q := s.req
  let ia ← translate q va 128 {}
  let _ ← grantAll q va ia 128 .read
  settleBytes q ia 128
  pure (ia, (va - base) / 128, s.slots.find? fun d => d.2.used && decide (d.2.ia = ia))

/-- The slot named is not free, or 0x05 (R354). -/
def slotUsed (r : Option (Nat × SlotDev)) : M (Nat × SlotDev) :=
  match r with
  | some d => pure d
  | none => fail { code := 0x05 }

/-- An irrevocable slot instruction (R354): the flush, the release and the acquire of scope `dev`. -/
def slotOrder (core : Nat) : M Unit := do
  irrevocable core
  let q := (← get).req
  release q 4
  acquire q 4

/-- `scommit` (R355). -/
def scommitM (d a b core : Nat) : M Unit := do
  let p ← slotNamed core a
  let (_, x) ← slotUsed p.2.2
  slotOrder core
  slotHold x
  let cw := (← get).rdS b
  let T ← slotF x 1 63 32
  let G ← slotF x 0 31 0
  if bf cw 63 32 ≠ T then
    slotCount x 0 1
    modify fun s => s.wrS d (-1)
  else
    let k ← slotF x 1 15 0
    let kd ← kvDesc x.ctx k
    if kd.maxpos ≤ G then modify fun s => s.wrS d (-2)
    else
      let q := (← get).req
      writeVa q (← kvAddr x.ctx k G) (leBytes 4 (bf cw 31 0))
      setSlotF x 0 31 0 (G + 1)
      modify fun s => s.wrS d (BitVec.ofNat 64 (G + 1))

/-- The work of this number is still to be done. -/
def State.workWaits (s : State) (id : Nat) : Bool := s.slots.any fun d => d.2.work.any fun w => decide (w.id = id)

/-- `trunc` (R356): the atomic step once, then the wait for its memory work. -/
def truncM (d a b core : Nat) : M Unit := do
  match ((← get).coreAt core).trunc with
  | some (ia, id) =>
    if (← get).workWaits id then throw (.pause (.flight 0))
    let ctx := (← get).coreCtx core
    let rp ← slotF { used := true, ctx := ctx, ia := ia } 11 63 32
    modify fun s => (s.updCore core fun c => { c with trunc := none }).wrS d (BitVec.ofNat 64 rp)
  | none =>
    let p ← slotNamed core a
    let (g, x) ← slotUsed p.2.2
    slotOrder core
    slotHold x
    let v := (← get).rdS b
    let pos := v.toNat
    let P ← slotF x 0 63 32
    let G ← slotF x 0 31 0
    failIf (decide (pos < P) || decide (G < pos)) { code := 0x05 }
    if pos < G then
      let k ← kvDesc x.ctx (← slotF x 1 15 0)
      let hs ← slotHeaders x
      failIf (!cutOk k.plen hs pos) { code := 0x0F }
      setSlotF x 1 63 32 ((← slotF x 1 63 32) + 1)
      let j ← cutStep x hs pos
      setSlotF x 12 63 63 1
      let id ← takeFresh
      let w : SlWork := ⟨id, none, [], j.map fun j => (pos, j)⟩
      modify fun s => { s with slots := s.slots.set {} g { s.slots.get {} g with work := (s.slots.get {} g).work ++ [w] } }
      modify fun s => s.updCore core fun c => { c with trunc := some (x.ia, id) }
      throw (.pause (.flight 0))
    else
      setSlotF x 1 63 32 ((← slotF x 1 63 32) + 1)
      let rp ← slotF x 11 63 32
      modify fun s => s.wrS d (BitVec.ofNat 64 rp)

/-- `sread` (R357). -/
def sreadM (d a b core : Nat) : M Unit := do
  let p ← slotNamed core a
  let i := ((← get).rdS b).toNat
  failIf (decide (15 < i)) { code := 0x05 }
  let (_, x) ← slotUsed p.2.2
  acquire (← get).req 4
  let w ← slotWord x i
  modify fun s => s.wrS d w

/-- What every `sarm` checks first (R354, R358): the privilege, the slot's address, S[b]. -/
def sarmNamed (core a b : Nat) : M (Nat × Nat × Option (Nat × SlotDev)) := do
  needSup core
  let p ← slotNamed core a
  failIf (decide (4 < ((← get).rdS b).toNat)) { code := 0x05 }
  acquire (← get).req 4
  pure p

/-- An operation of `sarm` on a slot in use, in the states it accepts; all ones in another (R358). It waits for an eviction of the
slot that is in progress (R359). -/
def sarmOp (d a b core : Nat) (states : List Nat) (act : Nat → SlotDev → M Unit) : M Unit := do
  let p ← sarmNamed core a b
  let (g, x) ← slotUsed p.2.2
  if x.evict.isSome then stall (.flight 0)
  if states.contains (← slotF x 12 62 61) then
    slotHold x
    act g x
    modify fun s => s.wrS d 0
  else modify fun s => s.wrS d (-1)

/-- The first gnum from k on that no slot has, round the 32,768 of them. -/
def State.freeGnum? (s : State) (k : Nat) : Option Nat :=
  ((List.range 32768).find? fun i => !(s.slots.get {} ((k + i) % 32768)).used).map fun i => (k + i) % 32768

/-- The checks of a slot's creation, in the order listed (R358). -/
def createChecks (x : SlotDev) : M Unit := do
  let w4 ← slotWord x 4
  let w7 ← slotWord x 7
  let w9 ← slotWord x 9
  let w14 ← slotWord x 14
  failIf (decide (bf w4 63 56 ≠ 0) || decide (bf w7 59 56 ≠ 0) || decide (bf w9 15 12 ≠ 0) || decide (bf w14 63 59 ≠ 0)) { code := 0x05 }
  let w0 ← slotWord x 0
  let w5 ← slotWord x 5
  let w6 ← slotWord x 6
  failIf (decide (bf w0 31 0 < bf w0 63 32) || decide (bf w5 63 56 < bf w6 63 56) || decide (8 < bf w7 63 60)) { code := 0x05 }
  let w1 ← slotWord x 1
  failIf (decide (bf w1 15 0 = 0xFFFF)) { code := 0x05 }
  let k ← kvDesc x.ctx (bf w1 15 0)
  failIf (decide (k.pslot ≠ bf w1 31 16)) { code := 0x05 }
  failIf (decide (bf w5 15 0 ≠ 0) || decide (bf w6 15 0 ≠ 0) || decide (bf w7 7 0 ≠ 0)) { code := 0x05 }
  let q ← slotDevReq x.ctx
  (List.range (bf w5 63 56 + 1)).forM fun i => do
    let ia ← translate q (bf w5 55 0 + 65536 * i) 1 {}
    match (← get).entry? ia with
    | some e => failIf (!e.v || !e.isPolder || decide (e.ctx ≠ x.ctx)) { code := 0x05 }
    | none => fail { code := 0x05 }

/-- `sarm` create (R358, Table 13.6). A context under its quota waits while other contexts' slots have every number: only when its
result arrives may depend on them (R372). -/
def sarmCreateM (d a b core : Nat) : M Unit := do
  let p ← sarmNamed core a b
  if p.2.2.isSome then modify fun s => s.wrS d (-1)
  else
    let ctx := (← get).coreCtx core
    let x : SlotDev := { used := true, ctx := ctx, idx := p.2.1, ia := p.1 }
    createChecks x
    slotHold x
    let f ← takeFresh
    let s ← get
    if bf (s.sr ctx 386) 15 0 ≤ s.slotsUsed ctx then modify fun s => s.wrS d (-1)
    else match s.freeGnum? (Config.freeNat f) with
    | none => stall (.flight 0)
    | some g =>
      let fin ← slotF x 8 31 0
      let G ← slotF x 0 31 0
      let lfp ← slotF x 12 60 60
      setSlotWord x 12 (BitVec.ofNat 64 (2 ^ 61 + lfp * 2 ^ 60 + g * 2 ^ 32))
      setSlotWord x 13 0
      setSlotF x 8 63 32 fin
      setSlotWord x 11 (BitVec.ofNat 64 (G * 2 ^ 32))
      setSlotWord x 10 (BitVec.ofNat 64 s.dtime)
      modify fun s => { s with slots := s.slots.set {} g x }.wrS d (BitVec.ofNat 64 g)

/-- `sarm` arm. -/
def sarmArmM (d a b core : Nat) : M Unit := sarmOp d a b core [1, 3] fun _ x => do
  setSlotF x 12 62 61 2
  setSlotWord x 10 (BitVec.ofNat 64 (← get).dtime)

/-- `sarm` disarm. -/
def sarmDisarmM (d a b core : Nat) : M Unit := sarmOp d a b core [2] fun _ x => setSlotF x 12 62 61 1

/-- `sarm` retire: what the slot's frames and truncations still owe memory is done first (R351, R356; log entry 120). -/
def sarmRetireM (d a b core : Nat) : M Unit := sarmOp d a b core [1, 3] fun g x => do
  x.work.forM (doWork g x)
  setSlotF x 12 62 61 0
  modify fun s => { s with slots := s.slots.set {} g {} }

/-- `sarm` evict: the whole of R359, for the word completes after its operation (Table 13.5). -/
def sarmEvictM (d a b core : Nat) : M Unit := sarmOp d a b core [1, 2] fun g x => do
  evictSlot g x
  match ((← get).slots.get {} g).evict with
  | some ok => finishEvict g x ok
  | none => pure ()

def execScommit (d a b : Nat) (s : State) : Out := runAC (scommitM d a b) s
def execTrunc (d a b : Nat) (s : State) : Out := runAC (truncM d a b) s
def execSread (d a b : Nat) (s : State) : Out := runAC (sreadM d a b) s
def execSarmCreate (d a b : Nat) (s : State) : Out := runAC (sarmCreateM d a b) s
def execSarmArm (d a b : Nat) (s : State) : Out := runAC (sarmArmM d a b) s
def execSarmDisarm (d a b : Nat) (s : State) : Out := runAC (sarmDisarmM d a b) s
def execSarmRetire (d a b : Nat) (s : State) : Out := runAC (sarmRetireM d a b) s
def execSarmEvict (d a b : Nat) (s : State) : Out := runAC (sarmEvictM d a b) s

end Sys2Proof.Machine
end

