-- ==== Sys2Proof/Machine/EvDev.lean ====
section
/-! DEFINITION. Events of the device as a whole: power, bring-up, reload and halt (R391 to R394), the arithmetic clock (R3), device
time (R340), and power tiers (R371). -/

namespace Sys2Proof.Machine

/-- `fwst` (Table 15.10): state and reason of the last failed load. -/
def State.setFwst (s : State) (st err : Nat) : State := s.setMg 0x3018 (BitVec.ofNat 64 (err * 256 + st))

/-- The reason of the last failed load. -/
def State.fwErr (s : State) : Nat := bf (s.mgr 0x3018) 15 8

/-- Event kind 18 on the physical function (R367): reduced service begins or ends. -/
def State.serviceEvent (s : State) : State := s.sendEvent 0 0 18 0 0

/-- Reduced service begins (R391): 850 MHz. -/
def State.reducedService (s : State) (err : Nat) : State := { s.setFwst 1 err with mhz := 850 }.serviceEvent

/-- The state that is left without power (R394, Table 15.11): the boot store; the device answers nothing until it has power. -/
def State.powerless (s : State) : State :=
  { (State.reset.setFwst 2 0) with
    boot := s.boot, numVfs := s.numVfs, cur := s.cur, agenda := s.agenda, rot := s.rot, fresh := s.fresh, note := s.note }

/-- POWER_OFF (R394). -/
def execPowerOff (s : State) : Out := runEvent (modify fun s => s.powerless) s

/-- POWER_ON (R391, R393): the boot image passes its check, or the device halts. -/
def execPowerOn (ok : Bool) (s : State) : Out :=
  runEvent (modify fun s => if ok then s.powerless.reducedService 0 else s.powerless.setFwst 2 1) s

/-- The bits of a slot that only the device changes are lost (Table 15.11): open values. -/
def loseSlot (d : SlotDev) : M Unit := do
  let f ← takeFresh
  let s ← get
  match s.locNow? d.ctx d.ia with
  | some (.frame _ k) =>
    set { s with mem := s.mem.splice 0 k 128 fun j =>
      (s.mem.get 0 j &&& ~~~ (slotReq d.ctx).slotDByte (j - k)) ||| (Config.freeByte f (j - k) &&& (slotReq d.ctx).slotDByte (j - k)) }
  | _ => pure ()

/-- The oldest of the granted stores that wait perform as the device stops; the others never do. -/
def stopStores : M Unit := do
  let f ← takeFresh
  let s ← get
  let n := Config.freeNat f % (s.pend.length + 1)
  set { s with pend := [] }
  (s.pend.take n).forM fun p => if p.ord = 3 then pure () else performPend p

/-- Queue words are cleared by a reload; the other management registers stay (Table 15.11). -/
def keptMg (off : Nat) : Bool := !(decide (0x1300 ≤ off) && decide (off < 0x1300 + 8 * 256))

/-- Steps 1 to 3 of R393: tasks stop, dirty lines go back, and the device resets to the scope of Table 15.11. -/
def reloadReset : M Unit := do
  stopStores
  let cores := (← get).cores.map Prod.fst
  cores.forM stashLeave
  let used := (← get).slots.filter fun d => d.2.used
  used.forM fun d => loseSlot d.2
  modify fun s =>
    { State.reset with
      cur := s.cur, agenda := s.agenda, rot := s.rot, fresh := s.fresh, note := s.note
      mhz := s.mhz, boot := s.boot, mem := s.mem, lkey := s.lkey, badWord := s.badWord, remote := s.remote
      peerOut := s.peerOut, irqDue := s.irqDue, numVfs := s.numVfs, ltr := s.ltr, issued := s.issued
      cold := s.cold, zel := s.zel, accepted := s.accepted, gangNo := s.gangNo, dctr := s.dctr, debt := s.debt
      fns := s.fns.map fun f => (f.1, { f.2 with reg := [] })
      mg := s.mg.filter fun e => keptMg e.1 }

/-- FW_RELOAD (R392, R393): `go` is written, with `keep`; ignored while the device reloads. -/
def fwReloadM (keep : Bool) : M Unit := do
  if bf ((← get).mgr 0x3018) 1 0 = 3 then return
  hostTouch
  reloadReset
  modify fun s => (s.setMg 0x3010 (if keep then 2 else 0)).setFwst 3 s.fwErr

def execFwReload (keep : Bool) (s : State) : Out := runEvent (fwReloadM keep) s

/-- FIRMWARE_LOAD_COMPLETE (R393): the host's image is loaded, or after its failure the boot store's, and reduced service begins;
or both have failed, and the device halts. Which of the two images it was, and why a load failed, is open. -/
def loadCompleteM (ok : Bool) : M Unit := do
  let f ← takeFresh
  let s ← get
  if bf (s.mgr 0x3018) 1 0 ≠ 3 then return
  let why := if Config.freeNat f % 2 = 0 then 1 else 2
  if !ok then set (s.setFwst 2 why)
  else if Config.freeBool f then
    let img := s.mem.bytes (physKey 2 (s.mgr 0x3000).toNat) (bf (s.mgr 0x3008) 31 0)
    set ({ s with boot := if bit (s.mgr 0x3010) 1 then img else s.boot }.reducedService 0)
  else set (s.reducedService why)

def execFirmwareLoadComplete (ok : Bool) (s : State) : Out := runEvent (loadCompleteM ok) s

/-- FIRMWARE_STATE_ERROR (R389, R393): the device halts. -/
def execFirmwareStateError (s : State) : Out :=
  runEvent (modify fun s => if s.halted then s else s.setFwst 2 s.fwErr) s

/-- The polder blocks move to the dies that home them (R204, R391). -/
def State.rehome (s : State) : State :=
  { s with blocks := s.blocks.map fun b =>
      match s.entry? (65536 * b.1) with
      | some e => (b.1, s.homeOf e (65536 * b.1) + 1)
      | none => b }

/-- FULL_SERVICE (R391): accesses drain, the lines of cache die 0 move to their homes, and reduced service ends. -/
def fullServiceM : M Unit := do
  if bf ((← get).mgr 0x3018) 1 0 ≠ 1 then return
  let ags := ((← get).pend.map Pend.agent).eraseDups
  ags.forM settleAll
  modify fun s => { s.setFwst 0 s.fwErr with mhz := 1700 }.rehome.serviceEvent

def execFullService (s : State) : Out := runEvent fullServiceM s

/-- ARITHMETIC_CLOCK_CHANGE (R3): the governor keeps the clock between 1.2 and 1.7 GHz; in reduced service it stays (R4). -/
def execArithmeticClockChange (mhz : Nat) (s : State) : Out :=
  runEvent (modify fun s => if s.reduced ∨ mhz < 1200 ∨ 1700 < mhz then s else { s with mhz := mhz }) s

/-- A correction of device time by d nanoseconds (R340): stepped forward above 1 ms, slewed otherwise; `tsync` shows it. -/
def State.correct (s : State) (d : Int) (b : Nat) : State :=
  let off := (d % 2 ^ 32).toNat
  let s := { s with tsync := setBf (setBf s.tsync b b 1) 31 0 off }
  if 1000000 < d then { s with dtime := (s.dtime + d).toNat, slew := 0 } else { s with slew := d }

/-- PTM_CORRECTION (R340): the host clock stands `off` ns ahead. -/
def execPtmCorrection (off : Int) (s : State) : Out := runEvent (modify fun s => s.correct off 63) s

/-- PPS_PULSE (R340): while the input is enabled, the pulse marks a whole second, `off` ns ahead of device time. -/
def execPpsPulse (off : Int) (s : State) : Out :=
  runEvent (modify fun s =>
    if bit (s.mgr 0x1098) 0 ∧ ((s.dtime : Int) + off) % 1000000000 = 0 then s.correct off 62 else s) s

/-- The conditions of W1 (Table 14.5): a spill is an engine command too (Table 10.1). -/
def State.idle (s : State) : Bool :=
  s.cores.all (fun c => (c.2.task.isNone || c.2.frozen.isSome) && c.2.eng.all fun e => decide (e.2.st ≠ .flight)) &&
    s.launches.all (fun l => l.ready.isNone) && s.backTasks.isEmpty && s.spills.isEmpty && s.seqrs.all fun q => !q.2.running

/-- Exit latency of a tier in ns. -/
def exitNs (t : Nat) : Nat := match t with | 0 => 0 | 1 => 1000 | 2 => 50000 | _ => 2000000

/-- The conditions of a tier hold (Table 14.5). -/
def State.tierOk (s : State) (t : Nat) : Bool :=
  match t with
  | 0 => true
  | 1 => s.idle
  | 2 => s.idle && decide (s.lastReq + 100000 ≤ s.dtime)
  | _ => s.idle && decide (s.lastReq + 100000 ≤ s.dtime) && decide (s.lastMem + 1000000 ≤ s.dtime)

/-- The tier's conditions hold, and its exit latency is tolerated (R371). -/
def State.mayEnter (s : State) (t : Nat) : Bool := s.tierOk t && decide (exitNs t ≤ 1000 * bf (s.mgr 0x1090) 31 0)

/-- A timer or eviction instant of a slot is no further away than an exit latency (R346, R359, R371). -/
def State.slotDue (s : State) (lat : Nat) (d : SlotDev) : Bool :=
  let st := bf (s.slotNow d 12) 62 61
  let lead := bf (s.slotNow d 3) 63 32
  let sil := bf (s.slotNow d 9) 63 32
  let t := s.dtime + lat
  (decide (st = 2) && decide ((s.slotNow d 2).toNat ≤ t + lead)) ||
    ((decide (st = 1) || decide (st = 2)) && decide (sil ≠ 0) && decide ((s.slotNow d 10).toNat + 1000 * sil ≤ t))

/-- Some slot's instant is near. -/
def State.anySlotDue (s : State) (lat : Nat) : Bool := s.slots.any fun d => d.2.used && s.slotDue lat d.2

/-- The first of these tiers that may be entered and whose exit would not be due already (R346, R359, R371). -/
def State.tierFor (s : State) (ts : List Nat) : Nat :=
  (ts.find? fun t => s.mayEnter t && !s.anySlotDue (exitNs t)).getD 0

/-- POWER_TIER_ENTRY (R371): the deepest tier allowed; its exit latency is sent to the host. -/
def State.enterTier (s : State) : State :=
  let t := s.tierFor [3, 2, 1]
  if s.tier < t then { s with tier := t, ltr := some (exitNs t) } else s

/-- POWER_TIER_EXIT (R371): work has come, or an instant less the exit latency has. -/
def State.exitTier (s : State) : State := if !s.idle ∨ s.anySlotDue (exitNs s.tier) then s.wake else s

def execPowerTierEntry (s : State) : Out := runEvent (modify State.enterTier) s
def execPowerTierExit (s : State) : Out := runEvent (modify State.exitTier) s

end Sys2Proof.Machine
end

