-- ==== Sys2Proof/Machine/IntA.lean ====
section
/-! DEFINITION. The A-stream's integer operations: register-register (R92 to R95), immediate (R96) and bit-field
(R97) forms. A base-die sequencer executes them with the same effects. -/

namespace Sys2Proof.Machine

/-- A register-register operation of opcode 0x01 (R92): S[d] := f (S[a], S[b]). -/
def aluRR (f : Word → Word → Word) (d a b : Nat) (s : State) : Out := .next ((s.wrS d (f (s.rdS a) (s.rdS b))).step4)

/-- A unary operation (R92): S[d] := f (S[a]). -/
def aluR (f : Word → Word) (d a : Nat) (s : State) : Out := .next ((s.wrS d (f (s.rdS a))).step4)

/-- 1 or 0. -/
def flag (b : Bool) : Word := if b then 1 else 0

/-- The shift count of R92: bits 5:0. -/
def cnt6 (b : Word) : Nat := b.toNat % 64

/-- rotl64 of Table 0.3. -/
def rotl64 (x : Word) (n : Nat) : Word := x.rotateLeft (n % 64)

/-- Bits 127:64 of the signed product (Table 4.1). -/
def mulHigh (a b : Word) : Word := BitVec.ofInt 64 (a.toInt * b.toInt / 2 ^ 64)

/-- Bits 127:64 of the unsigned product (Table 4.1). -/
def mulHighU (a b : Word) : Word := BitVec.ofNat 64 (a.toNat * b.toNat / 2 ^ 64)

/-- `div` (R93): toward zero; -1 for b = 0; the quotient wraps for -2^63 / -1. -/
def divS (a b : Word) : Word := if b = 0 then -1 else BitVec.ofInt 64 (a.toInt.tdiv b.toInt)

/-- `divu` (R93). -/
def divU (a b : Word) : Word := if b = 0 then -1 else BitVec.ofNat 64 (a.toNat / b.toNat)

/-- `rem` (R93): a - b × div (a, b); a for b = 0; 0 for -2^63 and -1. -/
def remS (a b : Word) : Word := if b = 0 then a else BitVec.ofInt 64 (a.toInt.tmod b.toInt)

/-- `remu` (R93). -/
def remU (a b : Word) : Word := if b = 0 then a else BitVec.ofNat 64 (a.toNat % b.toNat)

/-- Number of set bits among the low k. -/
def popcNat (x : Nat) : Nat → Nat
  | 0 => 0
  | k + 1 => popcNat x k + (if x.testBit k then 1 else 0)

/-- Number of leading zeros of the low k bits. -/
def clzNat (x : Nat) : Nat → Nat
  | 0 => 0
  | k + 1 => if x.testBit k then 0 else 1 + clzNat x k

/-- Number of zero bits of x from bit i on, at most k. -/
def ctzNat (x : Nat) : Nat → Nat → Nat
  | _, 0 => 0
  | i, k + 1 => if x.testBit i then 0 else 1 + ctzNat x (i + 1) k

/-- `fsh` (R92): bits 63:0 of ((a << 64) or b) >> n. -/
def funnel (n : Nat) (a b : Word) : Word := BitVec.ofNat 64 ((a.toNat * 2 ^ 64 + b.toNat) >>> n)

/-- `bhash` (R95). -/
def bhash (acc pair : Word) : Word :=
  rotl64 acc 8 ^^^ rotl64 (BitVec.ofNat 64 (pair.toNat / 2 ^ 32)) 4 ^^^ BitVec.ofNat 64 (pair.toNat % 2 ^ 32)

/-- f[start + width - 1 : start] (R97). -/
def bitsOf (x : Word) (start width : Nat) : Nat := x.toNat / 2 ^ start % 2 ^ width

/-- x with its bits start + width - 1 : start replaced by the low bits of f (R97). -/
def insertBits (x f : Word) (start width : Nat) : Word :=
  BitVec.ofNat 64 (x.toNat - bitsOf x start width * 2 ^ start + f.toNat % 2 ^ width * 2 ^ start)

def minS (a b : Word) : Word := if a.slt b then a else b
def maxS (a b : Word) : Word := if a.slt b then b else a
def minU (a b : Word) : Word := if a.ult b then a else b
def maxU (a b : Word) : Word := if a.ult b then b else a

def execAdd (d a b : Nat) (s : State) : Out := aluRR (· + ·) d a b s
def execSub (d a b : Nat) (s : State) : Out := aluRR (· - ·) d a b s
def execAnd (d a b : Nat) (s : State) : Out := aluRR (· &&& ·) d a b s
def execOr (d a b : Nat) (s : State) : Out := aluRR (· ||| ·) d a b s
def execXor (d a b : Nat) (s : State) : Out := aluRR (· ^^^ ·) d a b s
def execAndn (d a b : Nat) (s : State) : Out := aluRR (fun x y => x &&& ~~~y) d a b s
def execSll (d a b : Nat) (s : State) : Out := aluRR (fun x y => x <<< cnt6 y) d a b s
def execSrl (d a b : Nat) (s : State) : Out := aluRR (fun x y => x >>> cnt6 y) d a b s
def execSra (d a b : Nat) (s : State) : Out := aluRR (fun x y => x.sshiftRight (cnt6 y)) d a b s
def execRol (d a b : Nat) (s : State) : Out := aluRR (fun x y => rotl64 x (cnt6 y)) d a b s
def execSlt (d a b : Nat) (s : State) : Out := aluRR (fun x y => flag (x.slt y)) d a b s
def execSltu (d a b : Nat) (s : State) : Out := aluRR (fun x y => flag (x.ult y)) d a b s
def execMin (d a b : Nat) (s : State) : Out := aluRR minS d a b s
def execMax (d a b : Nat) (s : State) : Out := aluRR maxS d a b s
def execMinu (d a b : Nat) (s : State) : Out := aluRR minU d a b s
def execMaxu (d a b : Nat) (s : State) : Out := aluRR maxU d a b s
def execMul (d a b : Nat) (s : State) : Out := aluRR (· * ·) d a b s
def execMulh (d a b : Nat) (s : State) : Out := aluRR mulHigh d a b s
def execMulhu (d a b : Nat) (s : State) : Out := aluRR mulHighU d a b s
def execDiv (d a b : Nat) (s : State) : Out := aluRR divS d a b s
def execDivu (d a b : Nat) (s : State) : Out := aluRR divU d a b s
def execRem (d a b : Nat) (s : State) : Out := aluRR remS d a b s
def execRemu (d a b : Nat) (s : State) : Out := aluRR remU d a b s
def execPopc (d a : Nat) (s : State) : Out := aluR (fun x => BitVec.ofNat 64 (popcNat x.toNat 64)) d a s
def execClz (d a : Nat) (s : State) : Out := aluR (fun x => BitVec.ofNat 64 (clzNat x.toNat 64)) d a s
def execCtz (d a : Nat) (s : State) : Out := aluR (fun x => BitVec.ofNat 64 (ctzNat x.toNat 0 64)) d a s
def execSextB (d a : Nat) (s : State) : Out := aluR (fun x => sext 8 x.toNat) d a s
def execSextH (d a : Nat) (s : State) : Out := aluR (fun x => sext 16 x.toNat) d a s
def execSextW (d a : Nat) (s : State) : Out := aluR (fun x => sext 32 x.toNat) d a s
def execBhash (d a b : Nat) (s : State) : Out := aluRR bhash d a b s
def execFsh (d a b n : Nat) (s : State) : Out := aluRR (funnel n) d a b s

/-- `addi` (R96): the 14-bit immediate is sign-extended. -/
def execAddi (d a i : Nat) (s : State) : Out := aluR (fun x => x + sext 14 i) d a s
/-- `andi` (R96): the immediate is zero-extended. -/
def execAndi (d a i : Nat) (s : State) : Out := aluR (fun x => x &&& BitVec.ofNat 64 i) d a s
def execOri (d a i : Nat) (s : State) : Out := aluR (fun x => x ||| BitVec.ofNat 64 i) d a s
def execXori (d a i : Nat) (s : State) : Out := aluR (fun x => x ^^^ BitVec.ofNat 64 i) d a s
def execSlti (d a i : Nat) (s : State) : Out := aluR (fun x => flag (x.slt (sext 14 i))) d a s
/-- `sltiu` (R96): the sign-extended immediate is compared unsigned. -/
def execSltiu (d a i : Nat) (s : State) : Out := aluR (fun x => flag (x.ult (sext 14 i))) d a s
def execSlli (d a n : Nat) (s : State) : Out := aluR (fun x => x <<< n) d a s
def execSrli (d a n : Nat) (s : State) : Out := aluR (fun x => x >>> n) d a s
def execSrai (d a n : Nat) (s : State) : Out := aluR (fun x => x.sshiftRight n) d a s
def execRoli (d a n : Nat) (s : State) : Out := aluR (fun x => rotl64 x n) d a s
/-- `li` (R96). -/
def execLi (d i : Nat) (s : State) : Out := .next ((s.wrS d (sext 20 i)).step4)
/-- `lsi` (R96): reads the register it writes. -/
def execLsi (d i : Nat) (s : State) : Out := .next ((s.wrS d (s.rdS d <<< 20 ||| BitVec.ofNat 64 i)).step4)
/-- `bfx` (R97); w is width - 1. -/
def execBfx (d a w st : Nat) (s : State) : Out := aluR (fun x => BitVec.ofNat 64 (bitsOf x st (w + 1))) d a s
/-- `bfx.s` (R97). -/
def execBfxS (d a w st : Nat) (s : State) : Out := aluR (fun x => sext (w + 1) (bitsOf x st (w + 1))) d a s
/-- `bfi` (R97): reads the register it writes. -/
def execBfi (d a w st : Nat) (s : State) : Out := .next ((s.wrS d (insertBits (s.rdS d) (s.rdS a) st (w + 1))).step4)

end Sys2Proof.Machine
end

