-- ==== Sys2Proof/WellFormed.lean ====
section
/-! DEFINITION. The instructions whose words pass check 1 of R42 on their own bits: operand ranges, permitted
operand kinds, format codes, and the field limits of the encoding chapters. -/

namespace Sys2Proof

open Sys2Proof.Machine

/-- What check 1 of R42 asks of an instruction's own fields. Device events have no word and no field limits. -/
def Instr.wellFormed : Instr → Bool
  | .add d a b => decide (d < 64) && decide (a < 64) && decide (b < 64)
  | .sub d a b => decide (d < 64) && decide (a < 64) && decide (b < 64)
  | .and d a b => decide (d < 64) && decide (a < 64) && decide (b < 64)
  | .or d a b => decide (d < 64) && decide (a < 64) && decide (b < 64)
  | .xor d a b => decide (d < 64) && decide (a < 64) && decide (b < 64)
  | .andn d a b => decide (d < 64) && decide (a < 64) && decide (b < 64)
  | .sll d a b => decide (d < 64) && decide (a < 64) && decide (b < 64)
  | .srl d a b => decide (d < 64) && decide (a < 64) && decide (b < 64)
  | .sra d a b => decide (d < 64) && decide (a < 64) && decide (b < 64)
  | .rol d a b => decide (d < 64) && decide (a < 64) && decide (b < 64)
  | .slt d a b => decide (d < 64) && decide (a < 64) && decide (b < 64)
  | .sltu d a b => decide (d < 64) && decide (a < 64) && decide (b < 64)
  | .min d a b => decide (d < 64) && decide (a < 64) && decide (b < 64)
  | .max d a b => decide (d < 64) && decide (a < 64) && decide (b < 64)
  | .minu d a b => decide (d < 64) && decide (a < 64) && decide (b < 64)
  | .maxu d a b => decide (d < 64) && decide (a < 64) && decide (b < 64)
  | .mul d a b => decide (d < 64) && decide (a < 64) && decide (b < 64)
  | .mulh d a b => decide (d < 64) && decide (a < 64) && decide (b < 64)
  | .mulhu d a b => decide (d < 64) && decide (a < 64) && decide (b < 64)
  | .div d a b => decide (d < 64) && decide (a < 64) && decide (b < 64)
  | .divu d a b => decide (d < 64) && decide (a < 64) && decide (b < 64)
  | .rem d a b => decide (d < 64) && decide (a < 64) && decide (b < 64)
  | .remu d a b => decide (d < 64) && decide (a < 64) && decide (b < 64)
  | .popc d a => decide (d < 64) && decide (a < 64)
  | .clz d a => decide (d < 64) && decide (a < 64)
  | .ctz d a => decide (d < 64) && decide (a < 64)
  | .bhash d a b => decide (d < 64) && decide (a < 64) && decide (b < 64)
  | .sextB d a => decide (d < 64) && decide (a < 64)
  | .sextH d a => decide (d < 64) && decide (a < 64)
  | .sextW d a => decide (d < 64) && decide (a < 64)
  | .fsh d a b n => decide (d < 64) && decide (a < 64) && decide (b < 64) && decide (n < 64)
  | .addi d a i => decide (d < 64) && decide (a < 64) && decide (i < 16384)
  | .andi d a i => decide (d < 64) && decide (a < 64) && decide (i < 16384)
  | .ori d a i => decide (d < 64) && decide (a < 64) && decide (i < 16384)
  | .xori d a i => decide (d < 64) && decide (a < 64) && decide (i < 16384)
  | .slti d a i => decide (d < 64) && decide (a < 64) && decide (i < 16384)
  | .sltiu d a i => decide (d < 64) && decide (a < 64) && decide (i < 16384)
  | .slli d a n => decide (d < 64) && decide (a < 64) && decide (n < 64)
  | .srli d a n => decide (d < 64) && decide (a < 64) && decide (n < 64)
  | .srai d a n => decide (d < 64) && decide (a < 64) && decide (n < 64)
  | .roli d a n => decide (d < 64) && decide (a < 64) && decide (n < 64)
  | .li d i => decide (d < 64) && decide (i < 1048576)
  | .lsi d i => decide (d < 64) && decide (i < 1048576)
  | .bfx d a w st => decide (d < 64) && decide (a < 64) && decide (w < 64) && decide (st < 64) && decide (st + w + 1 ≤ 64)
  | .bfxS d a w st => decide (d < 64) && decide (a < 64) && decide (w < 64) && decide (st < 64) && decide (st + w + 1 ≤ 64)
  | .bfi d a w st => decide (d < 64) && decide (a < 64) && decide (w < 64) && decide (st < 64) && decide (st + w + 1 ≤ 64)
  | .ldB d a m o => decide (d < 64) && decide (a < 64) && decide (m < 4) && decide (o < 1024) && decide (m < 3) && (decide (m = 0) || (decide (a ≠ 0) && decide (a ≠ d)))
  | .ldH d a m o => decide (d < 64) && decide (a < 64) && decide (m < 4) && decide (o < 1024) && decide (m < 3) && (decide (m = 0) || (decide (a ≠ 0) && decide (a ≠ d)))
  | .ldW d a m o => decide (d < 64) && decide (a < 64) && decide (m < 4) && decide (o < 1024) && decide (m < 3) && (decide (m = 0) || (decide (a ≠ 0) && decide (a ≠ d)))
  | .ldD d a m o => decide (d < 64) && decide (a < 64) && decide (m < 4) && decide (o < 1024) && decide (m < 3) && (decide (m = 0) || (decide (a ≠ 0) && decide (a ≠ d)))
  | .ldBs d a m o => decide (d < 64) && decide (a < 64) && decide (m < 4) && decide (o < 1024) && decide (m < 3) && (decide (m = 0) || (decide (a ≠ 0) && decide (a ≠ d)))
  | .ldHs d a m o => decide (d < 64) && decide (a < 64) && decide (m < 4) && decide (o < 1024) && decide (m < 3) && (decide (m = 0) || (decide (a ≠ 0) && decide (a ≠ d)))
  | .ldWs d a m o => decide (d < 64) && decide (a < 64) && decide (m < 4) && decide (o < 1024) && decide (m < 3) && (decide (m = 0) || (decide (a ≠ 0) && decide (a ≠ d)))
  | .stB d a m o => decide (d < 64) && decide (a < 64) && decide (m < 4) && decide (o < 1024) && decide (m < 3) && (decide (m = 0) || decide (a ≠ 0))
  | .stH d a m o => decide (d < 64) && decide (a < 64) && decide (m < 4) && decide (o < 1024) && decide (m < 3) && (decide (m = 0) || decide (a ≠ 0))
  | .stW d a m o => decide (d < 64) && decide (a < 64) && decide (m < 4) && decide (o < 1024) && decide (m < 3) && (decide (m = 0) || decide (a ≠ 0))
  | .stD d a m o => decide (d < 64) && decide (a < 64) && decide (m < 4) && decide (o < 1024) && decide (m < 3) && (decide (m = 0) || decide (a ≠ 0))
  | .vld q a => decide (q < 4) && decide (a < 64)
  | .vldS q a b => decide (q < 4) && decide (a < 64) && decide (b < 64)
  | .vldBc q a => decide (q < 4) && decide (a < 64)
  | .qpush q a => decide (q < 4) && decide (a < 64) && decide (q < 3)
  | .qpop d q => decide (d < 64) && decide (q < 4) && decide (q < 3)
  | .wlc n a => decide (n < 8) && decide (a < 64)
  | .copy d a b y x sc => decide (d < 64) && decide (a < 64) && decide (b < 64) && decide (y < 2) && decide (x < 2) && decide (sc < 8) && (decide (x = 1) || (decide (1 ≤ a) && decide (a ≤ 52))) && (decide (y = 1) || decide (b ≤ 52))
  | .gather d a b y x sc => decide (d < 64) && decide (a < 64) && decide (b < 64) && decide (y < 2) && decide (x < 2) && decide (sc < 8) && (decide (x = 1) || (decide (1 ≤ a) && decide (a ≤ 52))) && (decide (y = 1) || decide (b ≤ 52))
  | .scatter d a b y x sc => decide (d < 64) && decide (a < 64) && decide (b < 64) && decide (y < 2) && decide (x < 2) && decide (sc < 8) && (decide (x = 1) || (decide (1 ≤ a) && decide (a ≤ 52))) && (decide (y = 1) || decide (b ≤ 52))
  | .rcopy d a b y x sc => decide (d < 64) && decide (a < 64) && decide (b < 64) && decide (y < 2) && decide (x < 2) && decide (sc < 8) && (decide (x = 1) || (decide (1 ≤ a) && decide (a ≤ 52))) && (decide (y = 1) || decide (b ≤ 52))
  | .copyMma d a b y x sc => decide (d < 64) && decide (a < 64) && decide (b < 64) && decide (y < 2) && decide (x < 2) && decide (sc < 8) && (decide (x = 1) || (decide (1 ≤ a) && decide (a ≤ 52))) && (decide (y = 1) || decide (b ≤ 52))
  | .cancel a => decide (a < 64)
  | .hwait a => decide (a < 64)
  | .htest d a => decide (d < 64) && decide (a < 64)
  | .amoAddRlx d a b w sc => decide (d < 64) && decide (a < 64) && decide (b < 64) && decide (w < 2) && decide (sc < 8)
  | .amoAndRlx d a b w sc => decide (d < 64) && decide (a < 64) && decide (b < 64) && decide (w < 2) && decide (sc < 8)
  | .amoOrRlx d a b w sc => decide (d < 64) && decide (a < 64) && decide (b < 64) && decide (w < 2) && decide (sc < 8)
  | .amoXorRlx d a b w sc => decide (d < 64) && decide (a < 64) && decide (b < 64) && decide (w < 2) && decide (sc < 8)
  | .amoMinRlx d a b w sc => decide (d < 64) && decide (a < 64) && decide (b < 64) && decide (w < 2) && decide (sc < 8)
  | .amoMaxRlx d a b w sc => decide (d < 64) && decide (a < 64) && decide (b < 64) && decide (w < 2) && decide (sc < 8)
  | .amoMinuRlx d a b w sc => decide (d < 64) && decide (a < 64) && decide (b < 64) && decide (w < 2) && decide (sc < 8)
  | .amoMaxuRlx d a b w sc => decide (d < 64) && decide (a < 64) && decide (b < 64) && decide (w < 2) && decide (sc < 8)
  | .amoSwapRlx d a b w sc => decide (d < 64) && decide (a < 64) && decide (b < 64) && decide (w < 2) && decide (sc < 8)
  | .amoCasRlx d a b w sc => decide (d < 64) && decide (a < 64) && decide (b < 64) && decide (w < 2) && decide (sc < 8)
  | .amoFaddRlx d a b sc => decide (d < 64) && decide (a < 64) && decide (b < 64) && decide (sc < 8)
  | .amoFmaxRlx d a b sc => decide (d < 64) && decide (a < 64) && decide (b < 64) && decide (sc < 8)
  | .amoFminRlx d a b sc => decide (d < 64) && decide (a < 64) && decide (b < 64) && decide (sc < 8)
  | .amoAddAcq d a b w sc => decide (d < 64) && decide (a < 64) && decide (b < 64) && decide (w < 2) && decide (sc < 8)
  | .amoAndAcq d a b w sc => decide (d < 64) && decide (a < 64) && decide (b < 64) && decide (w < 2) && decide (sc < 8)
  | .amoOrAcq d a b w sc => decide (d < 64) && decide (a < 64) && decide (b < 64) && decide (w < 2) && decide (sc < 8)
  | .amoXorAcq d a b w sc => decide (d < 64) && decide (a < 64) && decide (b < 64) && decide (w < 2) && decide (sc < 8)
  | .amoMinAcq d a b w sc => decide (d < 64) && decide (a < 64) && decide (b < 64) && decide (w < 2) && decide (sc < 8)
  | .amoMaxAcq d a b w sc => decide (d < 64) && decide (a < 64) && decide (b < 64) && decide (w < 2) && decide (sc < 8)
  | .amoMinuAcq d a b w sc => decide (d < 64) && decide (a < 64) && decide (b < 64) && decide (w < 2) && decide (sc < 8)
  | .amoMaxuAcq d a b w sc => decide (d < 64) && decide (a < 64) && decide (b < 64) && decide (w < 2) && decide (sc < 8)
  | .amoSwapAcq d a b w sc => decide (d < 64) && decide (a < 64) && decide (b < 64) && decide (w < 2) && decide (sc < 8)
  | .amoCasAcq d a b w sc => decide (d < 64) && decide (a < 64) && decide (b < 64) && decide (w < 2) && decide (sc < 8)
  | .amoFaddAcq d a b sc => decide (d < 64) && decide (a < 64) && decide (b < 64) && decide (sc < 8)
  | .amoFmaxAcq d a b sc => decide (d < 64) && decide (a < 64) && decide (b < 64) && decide (sc < 8)
  | .amoFminAcq d a b sc => decide (d < 64) && decide (a < 64) && decide (b < 64) && decide (sc < 8)
  | .amoAddRel d a b w sc => decide (d < 64) && decide (a < 64) && decide (b < 64) && decide (w < 2) && decide (sc < 8)
  | .amoAndRel d a b w sc => decide (d < 64) && decide (a < 64) && decide (b < 64) && decide (w < 2) && decide (sc < 8)
  | .amoOrRel d a b w sc => decide (d < 64) && decide (a < 64) && decide (b < 64) && decide (w < 2) && decide (sc < 8)
  | .amoXorRel d a b w sc => decide (d < 64) && decide (a < 64) && decide (b < 64) && decide (w < 2) && decide (sc < 8)
  | .amoMinRel d a b w sc => decide (d < 64) && decide (a < 64) && decide (b < 64) && decide (w < 2) && decide (sc < 8)
  | .amoMaxRel d a b w sc => decide (d < 64) && decide (a < 64) && decide (b < 64) && decide (w < 2) && decide (sc < 8)
  | .amoMinuRel d a b w sc => decide (d < 64) && decide (a < 64) && decide (b < 64) && decide (w < 2) && decide (sc < 8)
  | .amoMaxuRel d a b w sc => decide (d < 64) && decide (a < 64) && decide (b < 64) && decide (w < 2) && decide (sc < 8)
  | .amoSwapRel d a b w sc => decide (d < 64) && decide (a < 64) && decide (b < 64) && decide (w < 2) && decide (sc < 8)
  | .amoCasRel d a b w sc => decide (d < 64) && decide (a < 64) && decide (b < 64) && decide (w < 2) && decide (sc < 8)
  | .amoFaddRel d a b sc => decide (d < 64) && decide (a < 64) && decide (b < 64) && decide (sc < 8)
  | .amoFmaxRel d a b sc => decide (d < 64) && decide (a < 64) && decide (b < 64) && decide (sc < 8)
  | .amoFminRel d a b sc => decide (d < 64) && decide (a < 64) && decide (b < 64) && decide (sc < 8)
  | .amoAddRc d a b w sc => decide (d < 64) && decide (a < 64) && decide (b < 64) && decide (w < 2) && decide (sc < 8)
  | .amoAndRc d a b w sc => decide (d < 64) && decide (a < 64) && decide (b < 64) && decide (w < 2) && decide (sc < 8)
  | .amoOrRc d a b w sc => decide (d < 64) && decide (a < 64) && decide (b < 64) && decide (w < 2) && decide (sc < 8)
  | .amoXorRc d a b w sc => decide (d < 64) && decide (a < 64) && decide (b < 64) && decide (w < 2) && decide (sc < 8)
  | .amoMinRc d a b w sc => decide (d < 64) && decide (a < 64) && decide (b < 64) && decide (w < 2) && decide (sc < 8)
  | .amoMaxRc d a b w sc => decide (d < 64) && decide (a < 64) && decide (b < 64) && decide (w < 2) && decide (sc < 8)
  | .amoMinuRc d a b w sc => decide (d < 64) && decide (a < 64) && decide (b < 64) && decide (w < 2) && decide (sc < 8)
  | .amoMaxuRc d a b w sc => decide (d < 64) && decide (a < 64) && decide (b < 64) && decide (w < 2) && decide (sc < 8)
  | .amoSwapRc d a b w sc => decide (d < 64) && decide (a < 64) && decide (b < 64) && decide (w < 2) && decide (sc < 8)
  | .amoCasRc d a b w sc => decide (d < 64) && decide (a < 64) && decide (b < 64) && decide (w < 2) && decide (sc < 8)
  | .amoFaddRc d a b sc => decide (d < 64) && decide (a < 64) && decide (b < 64) && decide (sc < 8)
  | .amoFmaxRc d a b sc => decide (d < 64) && decide (a < 64) && decide (b < 64) && decide (sc < 8)
  | .amoFminRc d a b sc => decide (d < 64) && decide (a < 64) && decide (b < 64) && decide (sc < 8)
  | .fenceAcq sc => decide (sc < 8)
  | .fenceRel sc => decide (sc < 8)
  | .fenceAr sc => decide (sc < 8)
  | .fenceDrain sc => decide (sc < 8)
  | .waitwEq d a b => decide (d < 64) && decide (a < 64) && decide (b < 64)
  | .waitwNe d a b => decide (d < 64) && decide (a < 64) && decide (b < 64)
  | .waitwGeu d a b => decide (d < 64) && decide (a < 64) && decide (b < 64)
  | .waitwLtu d a b => decide (d < 64) && decide (a < 64) && decide (b < 64)
  | .resv d a b => decide (d < 64) && decide (a < 64) && decide (b < 64)
  | .disc d a b sc => decide (d < 64) && decide (a < 64) && decide (b < 64) && decide (sc < 8)
  | .migr d a b sc => decide (d < 64) && decide (a < 64) && decide (b < 64) && decide (sc < 8)
  | .pin d a b => decide (d < 64) && decide (a < 64) && decide (b < 64)
  | .unpin d a b => decide (d < 64) && decide (a < 64) && decide (b < 64)
  | .launch a => decide (a < 64)
  | .irv => true
  | .endA => true
  | .barArr n sc => decide (n < 8) && decide (sc < 8) && decide (2 ≤ sc) && decide (sc ≤ 4)
  | .barWait n sc => decide (n < 8) && decide (sc < 8) && decide (2 ≤ sc) && decide (sc ≤ 4)
  | .barSync n sc => decide (n < 8) && decide (sc < 8) && decide (2 ≤ sc) && decide (sc ≤ 4)
  | .fork d a b sc => decide (d < 64) && decide (a < 64) && decide (b < 64) && decide (sc < 8)
  | .msend d a b sc => decide (d < 64) && decide (a < 64) && decide (b < 64) && decide (sc < 8) && decide (1 ≤ a) && decide (a ≤ 56)
  | .mrecv d a b => decide (d < 64) && decide (a < 64) && decide (b < 64) && decide (1 ≤ a) && decide (a ≤ 56)
  | .srch d a b sc => decide (d < 64) && decide (a < 64) && decide (b < 64) && decide (sc < 8)
  | .scommit d a b => decide (d < 64) && decide (a < 64) && decide (b < 64)
  | .trunc d a b => decide (d < 64) && decide (a < 64) && decide (b < 64)
  | .sread d a b => decide (d < 64) && decide (a < 64) && decide (b < 64)
  | .sarmCreate d a b => decide (d < 64) && decide (a < 64) && decide (b < 64)
  | .sarmArm d a b => decide (d < 64) && decide (a < 64) && decide (b < 64)
  | .sarmDisarm d a b => decide (d < 64) && decide (a < 64) && decide (b < 64)
  | .sarmRetire d a b => decide (d < 64) && decide (a < 64) && decide (b < 64)
  | .sarmEvict d a b => decide (d < 64) && decide (a < 64) && decide (b < 64)
  | .nop => true
  | .mfs d n m => decide (d < 64) && decide (n < 64) && decide (m < 8) && srDefined (n * 8 + m)
  | .mts a n m => decide (a < 64) && decide (n < 64) && decide (m < 8) && srDefined (n * 8 + m) && !srReadOnly (n * 8 + m)
  | .ecall n m => decide (n < 64) && decide (m < 8)
  | .eret => true
  | .trap n m => decide (n < 64) && decide (m < 8)
  | .brk n m => decide (n < 64) && decide (m < 8)
  | .bez a o => decide (a < 64) && decide (o < 65536)
  | .bnz a o => decide (a < 64) && decide (o < 65536)
  | .bltz a o => decide (a < 64) && decide (o < 65536)
  | .bgez a o => decide (a < 64) && decide (o < 65536)
  | .bgtz a o => decide (a < 64) && decide (o < 65536)
  | .blez a o => decide (a < 64) && decide (o < 65536)
  | .br o => decide (o < 65536)
  | .beq a b o => decide (a < 64) && decide (b < 64) && decide (o < 1024)
  | .bne a b o => decide (a < 64) && decide (b < 64) && decide (o < 1024)
  | .blt a b o => decide (a < 64) && decide (b < 64) && decide (o < 1024)
  | .bge a b o => decide (a < 64) && decide (b < 64) && decide (o < 1024)
  | .bltu a b o => decide (a < 64) && decide (b < 64) && decide (o < 1024)
  | .bgeu a b o => decide (a < 64) && decide (b < 64) && decide (o < 1024)
  | .call d i => decide (d < 64) && decide (i < 1048576)
  | .jr a => decide (a < 64)
  | .jalr d a => decide (d < 64) && decide (a < 64)
  | .vnop g => g.ok
  | .fadd g rm d a b => g.ok && decide (rm < 5) && decide (d < 60) && a.ok && b.ok
  | .fsub g rm d a b => g.ok && decide (rm < 5) && decide (d < 60) && a.ok && b.ok
  | .fmul g rm d a b => g.ok && decide (rm < 5) && decide (d < 60) && a.ok && b.ok
  | .fma g rm d a b => g.ok && decide (rm < 5) && decide (d < 60) && a.ok && b.ok
  | .fms g rm d a b => g.ok && decide (rm < 5) && decide (d < 60) && a.ok && b.ok
  | .fnma g rm d a b => g.ok && decide (rm < 5) && decide (d < 60) && a.ok && b.ok
  | .fmin g d a b => g.ok && decide (d < 60) && a.ok && b.ok
  | .fmax g d a b => g.ok && decide (d < 60) && a.ok && b.ok
  | .fabs g d a => g.ok && decide (d < 60) && a.ok
  | .fneg g d a => g.ok && decide (d < 60) && a.ok
  | .rcp g rm d a => g.ok && decide (rm < 5) && decide (d < 60) && a.ok
  | .rsqrt g rm d a => g.ok && decide (rm < 5) && decide (d < 60) && a.ok
  | .exp2 g rm d a => g.ok && decide (rm < 5) && decide (d < 60) && a.ok
  | .log2 g rm d a => g.ok && decide (rm < 5) && decide (d < 60) && a.ok
  | .hadd g f rm d a b => g.ok && decide (f < 2) && decide (rm < 5) && decide (d < 60) && a.ok && b.ok
  | .hsub g f rm d a b => g.ok && decide (f < 2) && decide (rm < 5) && decide (d < 60) && a.ok && b.ok
  | .hmul g f rm d a b => g.ok && decide (f < 2) && decide (rm < 5) && decide (d < 60) && a.ok && b.ok
  | .hfma g f rm d a b => g.ok && decide (f < 2) && decide (rm < 5) && decide (d < 60) && a.ok && b.ok
  | .hmin g f d a b => g.ok && decide (f < 2) && decide (d < 60) && a.ok && b.ok
  | .hmax g f d a b => g.ok && decide (f < 2) && decide (d < 60) && a.ok && b.ok
  | .iadd g iw d a b => g.ok && decide (iw < 3) && decide (d < 60) && a.ok && b.ok
  | .isub g iw d a b => g.ok && decide (iw < 3) && decide (d < 60) && a.ok && b.ok
  | .imul g iw d a b => g.ok && decide (iw < 3) && decide (d < 60) && a.ok && b.ok
  | .imulh g iw d a b => g.ok && decide (iw < 3) && decide (d < 60) && a.ok && b.ok
  | .imulhu g iw d a b => g.ok && decide (iw < 3) && decide (d < 60) && a.ok && b.ok
  | .iand g iw d a b => g.ok && decide (iw < 3) && decide (d < 60) && a.ok && b.ok
  | .ior g iw d a b => g.ok && decide (iw < 3) && decide (d < 60) && a.ok && b.ok
  | .ixor g iw d a b => g.ok && decide (iw < 3) && decide (d < 60) && a.ok && b.ok
  | .iandn g iw d a b => g.ok && decide (iw < 3) && decide (d < 60) && a.ok && b.ok
  | .isll g iw d a b => g.ok && decide (iw < 3) && decide (d < 60) && a.ok && b.ok
  | .isrl g iw d a b => g.ok && decide (iw < 3) && decide (d < 60) && a.ok && b.ok
  | .isra g iw d a b => g.ok && decide (iw < 3) && decide (d < 60) && a.ok && b.ok
  | .imin g iw d a b => g.ok && decide (iw < 3) && decide (d < 60) && a.ok && b.ok
  | .imax g iw d a b => g.ok && decide (iw < 3) && decide (d < 60) && a.ok && b.ok
  | .iminu g iw d a b => g.ok && decide (iw < 3) && decide (d < 60) && a.ok && b.ok
  | .imaxu g iw d a b => g.ok && decide (iw < 3) && decide (d < 60) && a.ok && b.ok
  | .iadds g iw d a b => g.ok && decide (iw < 3) && decide (d < 60) && a.ok && b.ok
  | .iaddus g iw d a b => g.ok && decide (iw < 3) && decide (d < 60) && a.ok && b.ok
  | .isubs g iw d a b => g.ok && decide (iw < 3) && decide (d < 60) && a.ok && b.ok
  | .isubus g iw d a b => g.ok && decide (iw < 3) && decide (d < 60) && a.ok && b.ok
  | .iabs g iw d a => g.ok && decide (iw < 3) && decide (d < 60) && a.ok
  | .fcmp g cc pd a b => g.ok && decide (cc < 8) && decide (pd < 96) && a.ok && b.ok
  | .icmp g cc pd a b => g.ok && decide (cc < 10) && decide (pd < 96) && a.ok && b.ok
  | .sel g p d a b => g.ok && decide (p < 64) && decide (d < 60) && a.ok && b.ok
  | .pand g pd pa pb => g.ok && decide (pd < 96) && decide (pa < 96) && decide (pb < 96)
  | .por g pd pa pb => g.ok && decide (pd < 96) && decide (pa < 96) && decide (pb < 96)
  | .pxor g pd pa pb => g.ok && decide (pd < 96) && decide (pa < 96) && decide (pb < 96)
  | .pandn g pd pa pb => g.ok && decide (pd < 96) && decide (pa < 96) && decide (pb < 96)
  | .porn g pd pa pb => g.ok && decide (pd < 96) && decide (pa < 96) && decide (pb < 96)
  | .pnot g pd pa => g.ok && decide (pd < 96) && decide (pa < 96)
  | .pset g pd => g.ok && decide (pd < 96)
  | .pclr g pd => g.ok && decide (pd < 96)
  | .cvt g rm fmt d a => g.ok && decide (rm < 5) && isPlainFmt fmt && decide (d < 60) && a.ok
  | .cvtF32 g rm fmt d a => g.ok && decide (rm < 5) && isPlainFmt fmt && decide (d < 60) && a.ok
  | .mxq g rm fmt d a sd => g.ok && decide (rm < 5) && isMxFmt fmt && decide (d < 60) && a.ok && !a.isLit && decide (sd < 60) && decide (sd ≠ d)
  | .mxdq g fmt d a b => g.ok && isMxFmt fmt && decide (d < 60) && a.ok && b.ok
  | .tsqTsf8a g rm d a sd => g.ok && decide (rm < 5) && decide (d < 60) && a.ok && !a.isLit && decide (sd < 60) && decide (sd ≠ d)
  | .tsqTsf8w g rm d a b => g.ok && decide (rm < 5) && decide (d < 60) && a.ok && b.ok
  | .tsdq g fmt d a b => g.ok && (decide (fmt = 24) || decide (fmt = 25)) && decide (d < 60) && a.ok && b.ok
  | .fredsum g rm all d a => g.ok && decide (rm < 4) && decide (all < 2) && decide (d < 60) && a.ok && a.isVec
  | .fredmax g all d a => g.ok && decide (all < 2) && decide (d < 60) && a.ok && a.isVec
  | .fredmin g all d a => g.ok && decide (all < 2) && decide (d < 60) && a.ok && a.isVec
  | .iredsum g all d a => g.ok && decide (all < 2) && decide (d < 60) && a.ok && a.isVec
  | .iredmax g all d a => g.ok && decide (all < 2) && decide (d < 60) && a.ok && a.isVec
  | .iredmin g all d a => g.ok && decide (all < 2) && decide (d < 60) && a.ok && a.isVec
  | .iredmaxu g all d a => g.ok && decide (all < 2) && decide (d < 60) && a.ok && a.isVec
  | .iredminu g all d a => g.ok && decide (all < 2) && decide (d < 60) && a.ok && a.isVec
  | .vperm g d a b => g.ok && decide (d < 60) && a.ok && a.isVec && b.ok && b.isVec
  | .vbcast g d a b => g.ok && decide (d < 60) && a.ok && a.isVec && b.ok && !b.isVec
  | .vrot g d a b => g.ok && decide (d < 60) && a.ok && a.isVec && b.ok && !b.isVec
  | .vshl g d a b => g.ok && decide (d < 60) && a.ok && a.isVec && b.ok && !b.isVec
  | .vshr g d a b => g.ok && decide (d < 60) && a.ok && a.isVec && b.ok && !b.isVec
  | .vzip g d a b => g.ok && decide (d < 60) && a.ok && a.isVec && b.ok && b.isVec
  | .vunzip g d a b => g.ok && decide (d < 60) && a.ok && a.isVec && b.ok && b.isVec
  | .vcomp g d a p => g.ok && decide (d < 60) && a.ok && a.isVec && decide (p < 64)
  | .vbfx g st d a b => g.ok && decide (st < 32) && decide (d < 60) && a.ok && b.ok
  | .vbfxS g st d a b => g.ok && decide (st < 32) && decide (d < 60) && a.ok && b.ok
  | .vfsh g st d a b => g.ok && decide (st < 32) && decide (d < 60) && a.ok && b.ok
  | .lgth g sz d a b => g.ok && decide (sz < 3) && decide (d < 60) && a.ok && b.ok
  | .lsct g sz d a b => g.ok && decide (sz < 3) && decide (d < 60) && a.ok && b.ok
  | .lld g sz d a b => g.ok && decide (sz < 3) && decide (d < 60) && a.ok && b.ok
  | .lst g sz d a b => g.ok && decide (sz < 3) && decide (d < 60) && a.ok && b.ok
  | .zpush a => a.ok && a.isVec
  | .tld t a b => decide (t < 16) && a.ok && a.isK && b.ok && (b.isK || decide (b = .lit 0))
  | .tfree t => decide (t < 16)
  | .mma fmt h t a b => isMmaFmt fmt && decide (h < 2) && decide (t < 16) && a.ok && a.isK && b.ok && b.isK
  | .mmaTs t a b => decide (t < 16) && a.ok && a.isK && b.ok && b.isK
  | .mmaMx fmt h t a b => isMxFmt fmt && decide (h < 2) && (decide (h = 0) || decide (fmt = 16) || decide (fmt = 17) || decide (fmt = 21)) && decide (t < 16) && a.ok && a.isK && b.ok && b.isK
  | .accrd rm fmt d a => decide (rm < 5) && isAccFmt fmt && decide (d < 60) && a.ok && a.isK
  | .acczero a n => a.ok && a.isK && decide (1 ≤ n) && decide (n ≤ 16)
  | .balloc d n => decide (d < 32) && (decide (n = 1) || decide (n = 2) || decide (n = 4) || decide (n = 8) || decide (n = 16))
  | .bfree a n => a.ok && a.isK && decide (1 ≤ n) && decide (n ≤ 16)
  | .msig d a b => decide (d < 60) && a.ok && a.isVec && b.ok && b.isK
  | .loop lc inc ki ks n => decide (lc < 8) && decide (inc < 2) && decide (ki < 32) && decide (ks < 32) && decide (1 ≤ n) && decide (n < 256) && (decide (inc = 1) || (decide (ki = 0) && decide (ks = 0)))
  | .rep src inc ki ks c => decide (src < 2) && decide (inc < 2) && decide (ki < 32) && decide (ks < 32) && decide (c < 1024) && (decide (src = 0) || decide (c < 8)) && (decide (inc = 1) || (decide (ki = 0) && decide (ks = 0)))
  | .forkx o1 o2 o3 => decide (o1 < 128) && decide (o2 < 128) && decide (o3 < 128)
  | .joinx => true
  | .sbset set clr => decide (set < 256) && decide (clr < 256) && decide (set &&& clr = 0)
  | .sbwaitSet m => decide (1 ≤ m) && decide (m < 256)
  | .sbwaitClr m => decide (1 ≤ m) && decide (m < 256)
  | .sbwaitTake m => decide (1 ≤ m) && decide (m < 256)
  | .endX => true
  | .knop g => g.ok
  | .kadd g d a b => g.ok && decide (d < 32) && decide (a < 32) && decide (b < 32)
  | .kaddi g d a n => g.ok && decide (d < 32) && decide (a < 32) && decide (n < 32)
  | .ksub g d a b => g.ok && decide (d < 32) && decide (a < 32) && decide (b < 32)
  | .kand g d a b => g.ok && decide (d < 32) && decide (a < 32) && decide (b < 32)
  | .kor g d a b => g.ok && decide (d < 32) && decide (a < 32) && decide (b < 32)
  | .kxor g d a b => g.ok && decide (d < 32) && decide (a < 32) && decide (b < 32)
  | .ksll g d a b => g.ok && decide (d < 32) && decide (a < 32) && decide (b < 32)
  | .kslli g d a n => g.ok && decide (d < 32) && decide (a < 32) && decide (n < 32)
  | .ksrl g d a b => g.ok && decide (d < 32) && decide (a < 32) && decide (b < 32)
  | .ksrli g d a n => g.ok && decide (d < 32) && decide (a < 32) && decide (n < 32)
  | .ksra g d a b => g.ok && decide (d < 32) && decide (a < 32) && decide (b < 32)
  | .ksrai g d a n => g.ok && decide (d < 32) && decide (a < 32) && decide (n < 32)
  | .kmul g d a b => g.ok && decide (d < 32) && decide (a < 32) && decide (b < 32)
  | .kmin g d a b => g.ok && decide (d < 32) && decide (a < 32) && decide (b < 32)
  | .kmax g d a b => g.ok && decide (d < 32) && decide (a < 32) && decide (b < 32)
  | .kminu g d a b => g.ok && decide (d < 32) && decide (a < 32) && decide (b < 32)
  | .kmaxu g d a b => g.ok && decide (d < 32) && decide (a < 32) && decide (b < 32)
  | .kslt g d a b => g.ok && decide (d < 32) && decide (a < 32) && decide (b < 32)
  | .ksltu g d a b => g.ok && decide (d < 32) && decide (a < 32) && decide (b < 32)
  | .kli g d n => g.ok && decide (d < 32) && decide (n < 1024)
  | .klsh g d n => g.ok && decide (d < 32) && decide (n < 1024)
  | .kbfx g d a b => g.ok && decide (d < 32) && decide (a < 32) && decide (b < 32)
  | .kpop g d q => g.ok && decide (d < 32) && decide (q < 2)
  | .kpush g a q => g.ok && decide (a < 32) && decide (q < 2)
  | .kcpg g n => g.ok && decide (n < 4)
  | .kfadd g d a b => g.ok && decide (d < 32) && decide (a < 32) && decide (b < 32)
  | .kfmul g d a b => g.ok && decide (d < 32) && decide (a < 32) && decide (b < 32)
  | .kfmax g d a b => g.ok && decide (d < 32) && decide (a < 32) && decide (b < 32)
  | .znop => true
  | .zreg a => decide (a < 16)
  | .zcmpEq a d c w => decide (a < 4) && decide (d < 8) && decide (c < 512) && decide (w < 512) && decide (c + w + 1 ≤ 320)
  | .zcmpEqAnd a d e c w => decide (a < 4) && decide (d < 8) && decide (e < 8) && decide (c < 512) && decide (w < 512) && decide (c + w + 1 ≤ 320)
  | .zcmpEqOr a d e c w => decide (a < 4) && decide (d < 8) && decide (e < 8) && decide (c < 512) && decide (w < 512) && decide (c + w + 1 ≤ 320)
  | .zcmpNe a d c w => decide (a < 4) && decide (d < 8) && decide (c < 512) && decide (w < 512) && decide (c + w + 1 ≤ 320)
  | .zcmpNeAnd a d e c w => decide (a < 4) && decide (d < 8) && decide (e < 8) && decide (c < 512) && decide (w < 512) && decide (c + w + 1 ≤ 320)
  | .zcmpNeOr a d e c w => decide (a < 4) && decide (d < 8) && decide (e < 8) && decide (c < 512) && decide (w < 512) && decide (c + w + 1 ≤ 320)
  | .zwr a d c w => decide (a < 4) && decide (d < 8) && decide (c < 512) && decide (w < 512) && decide (c + w + 1 ≤ 320)
  | .zwrc a d c w => decide (a < 4) && decide (d < 8) && decide (c < 512) && decide (w < 512) && decide (c + w + 1 ≤ 320)
  | .zwrs a d c w => decide (a < 4) && decide (d < 8) && decide (c < 512) && decide (w < 512) && decide (c + w + 1 ≤ 320)
  | .zfld c w => decide (c < 512) && decide (w < 512) && decide (c + w + 1 ≤ 320)
  | .zadd a d e c w => decide (a < 4) && decide (d < 8) && decide (e < 8) && decide (c < 512) && decide (w < 512) && decide (c + w + 1 ≤ 320) && decide (d < 6) && decide (e < 6)
  | .zsub a d e c w => decide (a < 4) && decide (d < 8) && decide (e < 8) && decide (c < 512) && decide (w < 512) && decide (c + w + 1 ≤ 320) && decide (d < 6) && decide (e < 6)
  | .zaddk a d e c w => decide (a < 4) && decide (d < 8) && decide (e < 8) && decide (c < 512) && decide (w < 512) && decide (c + w + 1 ≤ 320) && decide (d < 6) && decide (e < 6)
  | .zsubk a d e c w => decide (a < 4) && decide (d < 8) && decide (e < 8) && decide (c < 512) && decide (w < 512) && decide (c + w + 1 ≤ 320) && decide (d < 6) && decide (e < 6)
  | .zgt a d e c w => decide (a < 4) && decide (d < 8) && decide (e < 8) && decide (c < 512) && decide (w < 512) && decide (c + w + 1 ≤ 320) && decide (d < 6) && decide (e < 6)
  | .zlt a d e c w => decide (a < 4) && decide (d < 8) && decide (e < 8) && decide (c < 512) && decide (w < 512) && decide (c + w + 1 ≤ 320) && decide (d < 6) && decide (e < 6)
  | .zeqf a d e c w => decide (a < 4) && decide (d < 8) && decide (e < 8) && decide (c < 512) && decide (w < 512) && decide (c + w + 1 ≤ 320) && decide (d < 6) && decide (e < 6)
  | .zgtk a d e c w => decide (a < 4) && decide (d < 8) && decide (e < 8) && decide (c < 512) && decide (w < 512) && decide (c + w + 1 ≤ 320) && decide (d < 6) && decide (e < 6)
  | .zltk a d e c w => decide (a < 4) && decide (d < 8) && decide (e < 8) && decide (c < 512) && decide (w < 512) && decide (c + w + 1 ≤ 320) && decide (d < 6) && decide (e < 6)
  | .zmul a e c w => decide (a < 4) && decide (e < 8) && decide (c < 512) && decide (w < 512) && decide ((w + 1) % 2 = 0) && decide (w + 1 ≤ 64) && decide (c + 3 * ((w + 1) / 2) ≤ 320) && decide (e < 6)
  | .zmov a d c w => decide (a < 4) && decide (d < 8) && decide (c < 512) && decide (w < 512) && decide (c + w + 1 ≤ 320) && decide (d < 6)
  | .zcnt a e y => decide (a < 4) && decide (e < 8) && decide (y < 16)
  | .zfirst a e y => decide (a < 4) && decide (e < 8) && decide (y < 16)
  | .ztagAnd a d c e => decide (a < 4) && decide (d < 8) && decide (c < 8) && decide (e < 8)
  | .ztagOr a d c e => decide (a < 4) && decide (d < 8) && decide (c < 8) && decide (e < 8)
  | .ztagXor a d c e => decide (a < 4) && decide (d < 8) && decide (c < 8) && decide (e < 8)
  | .ztagAndn a d c e => decide (a < 4) && decide (d < 8) && decide (c < 8) && decide (e < 8)
  | .ztagMov a d c => decide (a < 4) && decide (d < 8) && decide (c < 8)
  | .ztagNot a d c => decide (a < 4) && decide (d < 8) && decide (c < 8)
  | .ztagSet a d => decide (a < 4) && decide (d < 8)
  | .ztagClr a d => decide (a < 4) && decide (d < 8)
  | .zscore a c => decide (a < 4) && decide (c < 8)
  | .zsel d a n => decide (d < 16) && decide (a < 16) && decide (n < 4) && decide (a ≤ 8)
  | .zins d n => decide (d < 16) && decide (n < 4)
  | .zage c n => decide (c < 8) && decide (n < 4)
  | .zageClr c n => decide (c < 8) && decide (n < 4)
  | .zdel d c n => decide (d < 16) && decide (c < 8) && decide (n < 4)
  | .zspill d c n => decide (d < 16) && decide (c < 8) && decide (n < 4)
  | .zspillCnt d n => decide (d < 16) && decide (n < 4)
  | .zkld => true
  | .zkset y c w => decide (y < 16) && decide (c < 512) && decide (w < 512) && decide (c + w + 1 ≤ 320) && decide (w < 32)
  | .zkget y c w => decide (y < 16) && decide (c < 512) && decide (w < 512) && decide (c + w + 1 ≤ 320) && decide (w < 32)
  | .yadd d a b => decide (d < 16) && decide (a < 16) && decide (b < 16)
  | .yaddi d a i => decide (d < 16) && decide (a < 16) && decide (i < 262144)
  | .ysub d a b => decide (d < 16) && decide (a < 16) && decide (b < 16)
  | .yli d i => decide (d < 16) && decide (i < 262144)
  | .yand d a b => decide (d < 16) && decide (a < 16) && decide (b < 16)
  | .yor d a b => decide (d < 16) && decide (a < 16) && decide (b < 16)
  | .ypush a => decide (a < 16)
  | .ypop d => decide (d < 16)
  | .zbr i => decide (i < 262144)
  | .zbeq d a i => decide (d < 16) && decide (a < 16) && decide (i < 262144)
  | .zbne d a i => decide (d < 16) && decide (a < 16) && decide (i < 262144)
  | .zloop d i => decide (d < 16) && decide (i < 262144)
  | .zend => true
  | .powerOn _ => true
  | .fullService => true
  | .fwReload _ => true
  | .functionLevelReset _ => true
  | .linkInitialisation _ => true
  | .ptmCorrection _ => true
  | .ppsPulse _ => true
  | .hostRead _ _ _ => true
  | .hostWrite _ _ _ => true
  | .peerRequest _ _ _ _ => true
  | .sqtDoorbell _ _ => true
  | .submissionEntry _ => true
  | .kslotLoad _ _ => true
  | .kslotUnload _ => true
  | .lfpush _ _ => true
  | .lfreq _ => true
  | .taskQueueWordWrite _ _ => true
  | .mgerrClear => true
  | .lostClear _ => true
  | .frameTableUpdate _ _ _ => true
  | .registerWrite _ _ _ => true
  | .launchReady _ => true
  | .deadlineReached _ => true
  | .dispatch _ => true
  | .taskEnd _ => true
  | .streamDeadlock _ => true
  | .tileFull _ _ => true
  | .vectorQueueEntryFilled _ _ => true
  | .copyCompletion _ _ => true
  | .followOnMma _ _ => true
  | .mmaExecution _ => true
  | .tfreeEffect _ => true
  | .accrdExecution _ => true
  | .acczeroExecution _ => true
  | .frameWalk _ _ _ => true
  | .tierMove _ _ _ => true
  | .heatSweep => true
  | .hintrepReport _ _ _ => true
  | .quiescenceEpoch => true
  | .quarantineRelease _ => true
  | .stashWriteback _ _ => true
  | .spillAcknowledgement _ _ => true
  | .searchScan _ _ => true
  | .searchCompletion _ _ => true
  | .refreshDebtRepayment _ => true
  | .watchdog _ => true
  | .watchdogResetComplete _ => true
  | .messageReceivable _ _ => true
  | .barrierRelease _ _ => true
  | .waitwWake _ => true
  | .waitwTimeout _ => true
  | .eventWindow _ _ => true
  | .slotTimer _ _ => true
  | .finWrite _ _ _ => true
  | .sluice _ _ => true
  | .sluiceMemoryWork _ _ => true
  | .silenceEviction _ _ => true
  | .evictionComplete _ _ => true
  | .powerTierEntry => true
  | .powerTierExit => true
  | .trapDelivery _ => true
  | .pmreqWrite _ _ => true
  | .regionCreate _ _ => true
  | .regionRelease _ _ => true
  | .regionBind _ _ => true
  | .tqselWrite _ _ => true
  | .dikeWrite _ _ => true
  | .ftopWrite _ _ => true
  | .bfmtWrite _ _ _ => true
  | .windowWrite _ _ _ => true
  | .stbaseWrite _ _ _ => true
  | .trbaseWrite _ _ => true
  | .svbaseWrite _ _ _ => true
  | .evtotClear _ _ => true
  | .replcClear _ => true
  | .zslogClear _ => true
  | .vlogClear _ => true
  | .mclogClear _ => true
  | .hintrepClear _ => true
  | .powerOff => true
  | .accessPerformed _ => true
  | .remoteWriteAcknowledgement _ => true
  | .firmwareStateError => true
  | .firmwareLoadComplete _ => true
  | .arithmeticClockChange _ => true

end Sys2Proof
end

