-- ==== Sys2Proof/Decode.lean ====
section
/-! DEFINITION. The decoder: total on any bits, rejecting by name what check 1 of R42 rejects; and after it the
encoder, written from the same encoding tables. -/

namespace Sys2Proof

open Sys2Proof.Machine

/-- Why a word is no instruction. Each raises the illegal-encoding fault 0x01 when a stream reaches the word (R42). -/
inductive Reject where
  /-- the opcode is unassigned -/
  | opcode
  /-- a sub-operation or function code is unassigned, or a field the instruction does not use is not zero -/
  | subOperation
  /-- a field the instruction does not use is not zero -/
  | reservedField
  /-- the guard field holds a reserved value -/
  | guardField
  /-- an operand, format code or special-register number breaks a limit of the encoding chapters -/
  | limit
  deriving DecidableEq, Repr

/-- Bits hi:lo of w. -/
def fld (w hi lo : Nat) : Nat := w / 2 ^ lo % 2 ^ (hi - lo + 1)

/-- An instruction read from its fields stands if its fields keep their limits. -/
def accept (i : Instr) : Except Reject Instr := if i.wellFormed then .ok i else .error .limit

/-- The vector operand of an eight-bit kind and field (Table 2.7). -/
def VOp.dec (x : Nat) : VOp :=
  match x / 64 with
  | 0 => .vec (x % 64)
  | 1 => .k (x % 64)
  | 2 => .const (x % 64)
  | _ => .lit (x % 64)

/-- A-stream opcode 0x01: ADD, SUB, AND, OR, XOR, ANDN, SLL, SRL and so on. -/
def decodeA01 (w : Nat) : Except Reject Instr :=
  if fld w 7 0 = 0 then accept (.add (fld w 25 20) (fld w 19 14) (fld w 13 8)) else
  if fld w 7 0 = 1 then accept (.sub (fld w 25 20) (fld w 19 14) (fld w 13 8)) else
  if fld w 7 0 = 2 then accept (.and (fld w 25 20) (fld w 19 14) (fld w 13 8)) else
  if fld w 7 0 = 3 then accept (.or (fld w 25 20) (fld w 19 14) (fld w 13 8)) else
  if fld w 7 0 = 4 then accept (.xor (fld w 25 20) (fld w 19 14) (fld w 13 8)) else
  if fld w 7 0 = 5 then accept (.andn (fld w 25 20) (fld w 19 14) (fld w 13 8)) else
  if fld w 7 0 = 6 then accept (.sll (fld w 25 20) (fld w 19 14) (fld w 13 8)) else
  if fld w 7 0 = 7 then accept (.srl (fld w 25 20) (fld w 19 14) (fld w 13 8)) else
  if fld w 7 0 = 8 then accept (.sra (fld w 25 20) (fld w 19 14) (fld w 13 8)) else
  if fld w 7 0 = 9 then accept (.rol (fld w 25 20) (fld w 19 14) (fld w 13 8)) else
  if fld w 7 0 = 10 then accept (.slt (fld w 25 20) (fld w 19 14) (fld w 13 8)) else
  if fld w 7 0 = 11 then accept (.sltu (fld w 25 20) (fld w 19 14) (fld w 13 8)) else
  if fld w 7 0 = 12 then accept (.min (fld w 25 20) (fld w 19 14) (fld w 13 8)) else
  if fld w 7 0 = 13 then accept (.max (fld w 25 20) (fld w 19 14) (fld w 13 8)) else
  if fld w 7 0 = 14 then accept (.minu (fld w 25 20) (fld w 19 14) (fld w 13 8)) else
  if fld w 7 0 = 15 then accept (.maxu (fld w 25 20) (fld w 19 14) (fld w 13 8)) else
  if fld w 7 0 = 16 then accept (.mul (fld w 25 20) (fld w 19 14) (fld w 13 8)) else
  if fld w 7 0 = 17 then accept (.mulh (fld w 25 20) (fld w 19 14) (fld w 13 8)) else
  if fld w 7 0 = 18 then accept (.mulhu (fld w 25 20) (fld w 19 14) (fld w 13 8)) else
  if fld w 7 0 = 19 then accept (.div (fld w 25 20) (fld w 19 14) (fld w 13 8)) else
  if fld w 7 0 = 20 then accept (.divu (fld w 25 20) (fld w 19 14) (fld w 13 8)) else
  if fld w 7 0 = 21 then accept (.rem (fld w 25 20) (fld w 19 14) (fld w 13 8)) else
  if fld w 7 0 = 22 then accept (.remu (fld w 25 20) (fld w 19 14) (fld w 13 8)) else
  if fld w 13 0 = 24 then accept (.popc (fld w 25 20) (fld w 19 14)) else
  if fld w 13 0 = 25 then accept (.clz (fld w 25 20) (fld w 19 14)) else
  if fld w 13 0 = 26 then accept (.ctz (fld w 25 20) (fld w 19 14)) else
  if fld w 7 0 = 27 then accept (.bhash (fld w 25 20) (fld w 19 14) (fld w 13 8)) else
  if fld w 13 0 = 28 then accept (.sextB (fld w 25 20) (fld w 19 14)) else
  if fld w 13 0 = 29 then accept (.sextH (fld w 25 20) (fld w 19 14)) else
  if fld w 13 0 = 30 then accept (.sextW (fld w 25 20) (fld w 19 14)) else
  if fld w 7 6 = 1 then accept (.fsh (fld w 25 20) (fld w 19 14) (fld w 13 8) (fld w 5 0)) else
  .error .subOperation

/-- A-stream opcode 0x02: ADDI. -/
def decodeA02 (w : Nat) : Except Reject Instr :=
  accept (.addi (fld w 25 20) (fld w 19 14) (fld w 13 0))

/-- A-stream opcode 0x03: ANDI. -/
def decodeA03 (w : Nat) : Except Reject Instr :=
  accept (.andi (fld w 25 20) (fld w 19 14) (fld w 13 0))

/-- A-stream opcode 0x04: ORI. -/
def decodeA04 (w : Nat) : Except Reject Instr :=
  accept (.ori (fld w 25 20) (fld w 19 14) (fld w 13 0))

/-- A-stream opcode 0x05: XORI. -/
def decodeA05 (w : Nat) : Except Reject Instr :=
  accept (.xori (fld w 25 20) (fld w 19 14) (fld w 13 0))

/-- A-stream opcode 0x06: SLTI. -/
def decodeA06 (w : Nat) : Except Reject Instr :=
  accept (.slti (fld w 25 20) (fld w 19 14) (fld w 13 0))

/-- A-stream opcode 0x07: SLTIU. -/
def decodeA07 (w : Nat) : Except Reject Instr :=
  accept (.sltiu (fld w 25 20) (fld w 19 14) (fld w 13 0))

/-- A-stream opcode 0x08: SLLI, SRLI, SRAI, ROLI. -/
def decodeA08 (w : Nat) : Except Reject Instr :=
  if fld w 13 6 = 0 then accept (.slli (fld w 25 20) (fld w 19 14) (fld w 5 0)) else
  if fld w 13 6 = 1 then accept (.srli (fld w 25 20) (fld w 19 14) (fld w 5 0)) else
  if fld w 13 6 = 2 then accept (.srai (fld w 25 20) (fld w 19 14) (fld w 5 0)) else
  if fld w 13 6 = 3 then accept (.roli (fld w 25 20) (fld w 19 14) (fld w 5 0)) else
  .error .subOperation

/-- A-stream opcode 0x09: LI. -/
def decodeA09 (w : Nat) : Except Reject Instr :=
  accept (.li (fld w 25 20) (fld w 19 0))

/-- A-stream opcode 0x0A: LSI. -/
def decodeA0a (w : Nat) : Except Reject Instr :=
  accept (.lsi (fld w 25 20) (fld w 19 0))

/-- A-stream opcode 0x0B: BFX, BFX_S. -/
def decodeA0b (w : Nat) : Except Reject Instr :=
  if fld w 13 12 = 0 then accept (.bfx (fld w 25 20) (fld w 19 14) (fld w 11 6) (fld w 5 0)) else
  if fld w 13 12 = 2 then accept (.bfxS (fld w 25 20) (fld w 19 14) (fld w 11 6) (fld w 5 0)) else
  .error .subOperation

/-- A-stream opcode 0x0C: BFI. -/
def decodeA0c (w : Nat) : Except Reject Instr :=
  if fld w 13 12 = 0 then accept (.bfi (fld w 25 20) (fld w 19 14) (fld w 11 6) (fld w 5 0)) else
  .error .subOperation

/-- A-stream opcode 0x10: LD_B, LD_H, LD_W, LD_D. -/
def decodeA10 (w : Nat) : Except Reject Instr :=
  if fld w 13 12 = 0 then accept (.ldB (fld w 25 20) (fld w 19 14) (fld w 11 10) (fld w 9 0)) else
  if fld w 13 12 = 1 then accept (.ldH (fld w 25 20) (fld w 19 14) (fld w 11 10) (fld w 9 0)) else
  if fld w 13 12 = 2 then accept (.ldW (fld w 25 20) (fld w 19 14) (fld w 11 10) (fld w 9 0)) else
  if fld w 13 12 = 3 then accept (.ldD (fld w 25 20) (fld w 19 14) (fld w 11 10) (fld w 9 0)) else
  .error .subOperation

/-- A-stream opcode 0x11: LD_BS, LD_HS, LD_WS. -/
def decodeA11 (w : Nat) : Except Reject Instr :=
  if fld w 13 12 = 0 then accept (.ldBs (fld w 25 20) (fld w 19 14) (fld w 11 10) (fld w 9 0)) else
  if fld w 13 12 = 1 then accept (.ldHs (fld w 25 20) (fld w 19 14) (fld w 11 10) (fld w 9 0)) else
  if fld w 13 12 = 2 then accept (.ldWs (fld w 25 20) (fld w 19 14) (fld w 11 10) (fld w 9 0)) else
  .error .subOperation

/-- A-stream opcode 0x12: ST_B, ST_H, ST_W, ST_D. -/
def decodeA12 (w : Nat) : Except Reject Instr :=
  if fld w 13 12 = 0 then accept (.stB (fld w 25 20) (fld w 19 14) (fld w 11 10) (fld w 9 0)) else
  if fld w 13 12 = 1 then accept (.stH (fld w 25 20) (fld w 19 14) (fld w 11 10) (fld w 9 0)) else
  if fld w 13 12 = 2 then accept (.stW (fld w 25 20) (fld w 19 14) (fld w 11 10) (fld w 9 0)) else
  if fld w 13 12 = 3 then accept (.stD (fld w 25 20) (fld w 19 14) (fld w 11 10) (fld w 9 0)) else
  .error .subOperation

/-- A-stream opcode 0x13: VLD, VLD_S, VLD_BC. -/
def decodeA13 (w : Nat) : Except Reject Instr :=
  if fld w 25 22 = 0 ∧ fld w 13 0 = 0 then accept (.vld (fld w 21 20) (fld w 19 14)) else
  if fld w 25 22 = 0 ∧ fld w 7 0 = 8 then accept (.vldS (fld w 21 20) (fld w 19 14) (fld w 13 8)) else
  if fld w 25 22 = 0 ∧ fld w 13 0 = 16 then accept (.vldBc (fld w 21 20) (fld w 19 14)) else
  .error .subOperation

/-- A-stream opcode 0x14: QPUSH, QPOP. -/
def decodeA14 (w : Nat) : Except Reject Instr :=
  if fld w 25 22 = 0 ∧ fld w 13 0 = 0 then accept (.qpush (fld w 21 20) (fld w 19 14)) else
  if fld w 19 16 = 0 ∧ fld w 13 0 = 1 then accept (.qpop (fld w 25 20) (fld w 15 14)) else
  .error .subOperation

/-- A-stream opcode 0x15: WLC. -/
def decodeA15 (w : Nat) : Except Reject Instr :=
  if fld w 25 23 = 0 ∧ fld w 13 0 = 0 then accept (.wlc (fld w 22 20) (fld w 19 14)) else
  .error .subOperation

/-- A-stream opcode 0x18: COPY, GATHER, SCATTER, RCOPY, COPY_MMA. -/
def decodeA18 (w : Nat) : Except Reject Instr :=
  if fld w 5 3 = 0 then accept (.copy (fld w 25 20) (fld w 19 14) (fld w 13 8) (fld w 7 7) (fld w 6 6) (fld w 2 0)) else
  if fld w 5 3 = 1 then accept (.gather (fld w 25 20) (fld w 19 14) (fld w 13 8) (fld w 7 7) (fld w 6 6) (fld w 2 0)) else
  if fld w 5 3 = 2 then accept (.scatter (fld w 25 20) (fld w 19 14) (fld w 13 8) (fld w 7 7) (fld w 6 6) (fld w 2 0)) else
  if fld w 5 3 = 3 then accept (.rcopy (fld w 25 20) (fld w 19 14) (fld w 13 8) (fld w 7 7) (fld w 6 6) (fld w 2 0)) else
  if fld w 5 3 = 4 then accept (.copyMma (fld w 25 20) (fld w 19 14) (fld w 13 8) (fld w 7 7) (fld w 6 6) (fld w 2 0)) else
  .error .subOperation

/-- A-stream opcode 0x19: CANCEL, HWAIT, HTEST. -/
def decodeA19 (w : Nat) : Except Reject Instr :=
  if fld w 25 20 = 0 ∧ fld w 13 0 = 0 then accept (.cancel (fld w 19 14)) else
  if fld w 25 20 = 0 ∧ fld w 13 0 = 8 then accept (.hwait (fld w 19 14)) else
  if fld w 13 0 = 16 then accept (.htest (fld w 25 20) (fld w 19 14)) else
  .error .subOperation

/-- A-stream opcode 0x1A: AMO_ADD_RLX, AMO_AND_RLX, AMO_OR_RLX, AMO_XOR_RLX, AMO_MIN_RLX, AMO_MAX_RLX, AMO_MINU_RLX, AMO_MAXU_RLX and so on. -/
def decodeA1a (w : Nat) : Except Reject Instr :=
  if fld w 6 3 = 0 then accept (.amoAddRlx (fld w 25 20) (fld w 19 14) (fld w 13 8) (fld w 7 7) (fld w 2 0)) else
  if fld w 6 3 = 1 then accept (.amoAndRlx (fld w 25 20) (fld w 19 14) (fld w 13 8) (fld w 7 7) (fld w 2 0)) else
  if fld w 6 3 = 2 then accept (.amoOrRlx (fld w 25 20) (fld w 19 14) (fld w 13 8) (fld w 7 7) (fld w 2 0)) else
  if fld w 6 3 = 3 then accept (.amoXorRlx (fld w 25 20) (fld w 19 14) (fld w 13 8) (fld w 7 7) (fld w 2 0)) else
  if fld w 6 3 = 4 then accept (.amoMinRlx (fld w 25 20) (fld w 19 14) (fld w 13 8) (fld w 7 7) (fld w 2 0)) else
  if fld w 6 3 = 5 then accept (.amoMaxRlx (fld w 25 20) (fld w 19 14) (fld w 13 8) (fld w 7 7) (fld w 2 0)) else
  if fld w 6 3 = 6 then accept (.amoMinuRlx (fld w 25 20) (fld w 19 14) (fld w 13 8) (fld w 7 7) (fld w 2 0)) else
  if fld w 6 3 = 7 then accept (.amoMaxuRlx (fld w 25 20) (fld w 19 14) (fld w 13 8) (fld w 7 7) (fld w 2 0)) else
  if fld w 6 3 = 8 then accept (.amoSwapRlx (fld w 25 20) (fld w 19 14) (fld w 13 8) (fld w 7 7) (fld w 2 0)) else
  if fld w 6 3 = 9 then accept (.amoCasRlx (fld w 25 20) (fld w 19 14) (fld w 13 8) (fld w 7 7) (fld w 2 0)) else
  if fld w 7 3 = 26 then accept (.amoFaddRlx (fld w 25 20) (fld w 19 14) (fld w 13 8) (fld w 2 0)) else
  if fld w 7 3 = 27 then accept (.amoFmaxRlx (fld w 25 20) (fld w 19 14) (fld w 13 8) (fld w 2 0)) else
  if fld w 7 3 = 28 then accept (.amoFminRlx (fld w 25 20) (fld w 19 14) (fld w 13 8) (fld w 2 0)) else
  .error .subOperation

/-- A-stream opcode 0x1B: AMO_ADD_ACQ, AMO_AND_ACQ, AMO_OR_ACQ, AMO_XOR_ACQ, AMO_MIN_ACQ, AMO_MAX_ACQ, AMO_MINU_ACQ, AMO_MAXU_ACQ and so on. -/
def decodeA1b (w : Nat) : Except Reject Instr :=
  if fld w 6 3 = 0 then accept (.amoAddAcq (fld w 25 20) (fld w 19 14) (fld w 13 8) (fld w 7 7) (fld w 2 0)) else
  if fld w 6 3 = 1 then accept (.amoAndAcq (fld w 25 20) (fld w 19 14) (fld w 13 8) (fld w 7 7) (fld w 2 0)) else
  if fld w 6 3 = 2 then accept (.amoOrAcq (fld w 25 20) (fld w 19 14) (fld w 13 8) (fld w 7 7) (fld w 2 0)) else
  if fld w 6 3 = 3 then accept (.amoXorAcq (fld w 25 20) (fld w 19 14) (fld w 13 8) (fld w 7 7) (fld w 2 0)) else
  if fld w 6 3 = 4 then accept (.amoMinAcq (fld w 25 20) (fld w 19 14) (fld w 13 8) (fld w 7 7) (fld w 2 0)) else
  if fld w 6 3 = 5 then accept (.amoMaxAcq (fld w 25 20) (fld w 19 14) (fld w 13 8) (fld w 7 7) (fld w 2 0)) else
  if fld w 6 3 = 6 then accept (.amoMinuAcq (fld w 25 20) (fld w 19 14) (fld w 13 8) (fld w 7 7) (fld w 2 0)) else
  if fld w 6 3 = 7 then accept (.amoMaxuAcq (fld w 25 20) (fld w 19 14) (fld w 13 8) (fld w 7 7) (fld w 2 0)) else
  if fld w 6 3 = 8 then accept (.amoSwapAcq (fld w 25 20) (fld w 19 14) (fld w 13 8) (fld w 7 7) (fld w 2 0)) else
  if fld w 6 3 = 9 then accept (.amoCasAcq (fld w 25 20) (fld w 19 14) (fld w 13 8) (fld w 7 7) (fld w 2 0)) else
  if fld w 7 3 = 26 then accept (.amoFaddAcq (fld w 25 20) (fld w 19 14) (fld w 13 8) (fld w 2 0)) else
  if fld w 7 3 = 27 then accept (.amoFmaxAcq (fld w 25 20) (fld w 19 14) (fld w 13 8) (fld w 2 0)) else
  if fld w 7 3 = 28 then accept (.amoFminAcq (fld w 25 20) (fld w 19 14) (fld w 13 8) (fld w 2 0)) else
  .error .subOperation

/-- A-stream opcode 0x1C: AMO_ADD_REL, AMO_AND_REL, AMO_OR_REL, AMO_XOR_REL, AMO_MIN_REL, AMO_MAX_REL, AMO_MINU_REL, AMO_MAXU_REL and so on. -/
def decodeA1c (w : Nat) : Except Reject Instr :=
  if fld w 6 3 = 0 then accept (.amoAddRel (fld w 25 20) (fld w 19 14) (fld w 13 8) (fld w 7 7) (fld w 2 0)) else
  if fld w 6 3 = 1 then accept (.amoAndRel (fld w 25 20) (fld w 19 14) (fld w 13 8) (fld w 7 7) (fld w 2 0)) else
  if fld w 6 3 = 2 then accept (.amoOrRel (fld w 25 20) (fld w 19 14) (fld w 13 8) (fld w 7 7) (fld w 2 0)) else
  if fld w 6 3 = 3 then accept (.amoXorRel (fld w 25 20) (fld w 19 14) (fld w 13 8) (fld w 7 7) (fld w 2 0)) else
  if fld w 6 3 = 4 then accept (.amoMinRel (fld w 25 20) (fld w 19 14) (fld w 13 8) (fld w 7 7) (fld w 2 0)) else
  if fld w 6 3 = 5 then accept (.amoMaxRel (fld w 25 20) (fld w 19 14) (fld w 13 8) (fld w 7 7) (fld w 2 0)) else
  if fld w 6 3 = 6 then accept (.amoMinuRel (fld w 25 20) (fld w 19 14) (fld w 13 8) (fld w 7 7) (fld w 2 0)) else
  if fld w 6 3 = 7 then accept (.amoMaxuRel (fld w 25 20) (fld w 19 14) (fld w 13 8) (fld w 7 7) (fld w 2 0)) else
  if fld w 6 3 = 8 then accept (.amoSwapRel (fld w 25 20) (fld w 19 14) (fld w 13 8) (fld w 7 7) (fld w 2 0)) else
  if fld w 6 3 = 9 then accept (.amoCasRel (fld w 25 20) (fld w 19 14) (fld w 13 8) (fld w 7 7) (fld w 2 0)) else
  if fld w 7 3 = 26 then accept (.amoFaddRel (fld w 25 20) (fld w 19 14) (fld w 13 8) (fld w 2 0)) else
  if fld w 7 3 = 27 then accept (.amoFmaxRel (fld w 25 20) (fld w 19 14) (fld w 13 8) (fld w 2 0)) else
  if fld w 7 3 = 28 then accept (.amoFminRel (fld w 25 20) (fld w 19 14) (fld w 13 8) (fld w 2 0)) else
  .error .subOperation

/-- A-stream opcode 0x1D: AMO_ADD_RC, AMO_AND_RC, AMO_OR_RC, AMO_XOR_RC, AMO_MIN_RC, AMO_MAX_RC, AMO_MINU_RC, AMO_MAXU_RC and so on. -/
def decodeA1d (w : Nat) : Except Reject Instr :=
  if fld w 6 3 = 0 then accept (.amoAddRc (fld w 25 20) (fld w 19 14) (fld w 13 8) (fld w 7 7) (fld w 2 0)) else
  if fld w 6 3 = 1 then accept (.amoAndRc (fld w 25 20) (fld w 19 14) (fld w 13 8) (fld w 7 7) (fld w 2 0)) else
  if fld w 6 3 = 2 then accept (.amoOrRc (fld w 25 20) (fld w 19 14) (fld w 13 8) (fld w 7 7) (fld w 2 0)) else
  if fld w 6 3 = 3 then accept (.amoXorRc (fld w 25 20) (fld w 19 14) (fld w 13 8) (fld w 7 7) (fld w 2 0)) else
  if fld w 6 3 = 4 then accept (.amoMinRc (fld w 25 20) (fld w 19 14) (fld w 13 8) (fld w 7 7) (fld w 2 0)) else
  if fld w 6 3 = 5 then accept (.amoMaxRc (fld w 25 20) (fld w 19 14) (fld w 13 8) (fld w 7 7) (fld w 2 0)) else
  if fld w 6 3 = 6 then accept (.amoMinuRc (fld w 25 20) (fld w 19 14) (fld w 13 8) (fld w 7 7) (fld w 2 0)) else
  if fld w 6 3 = 7 then accept (.amoMaxuRc (fld w 25 20) (fld w 19 14) (fld w 13 8) (fld w 7 7) (fld w 2 0)) else
  if fld w 6 3 = 8 then accept (.amoSwapRc (fld w 25 20) (fld w 19 14) (fld w 13 8) (fld w 7 7) (fld w 2 0)) else
  if fld w 6 3 = 9 then accept (.amoCasRc (fld w 25 20) (fld w 19 14) (fld w 13 8) (fld w 7 7) (fld w 2 0)) else
  if fld w 7 3 = 26 then accept (.amoFaddRc (fld w 25 20) (fld w 19 14) (fld w 13 8) (fld w 2 0)) else
  if fld w 7 3 = 27 then accept (.amoFmaxRc (fld w 25 20) (fld w 19 14) (fld w 13 8) (fld w 2 0)) else
  if fld w 7 3 = 28 then accept (.amoFminRc (fld w 25 20) (fld w 19 14) (fld w 13 8) (fld w 2 0)) else
  .error .subOperation

/-- A-stream opcode 0x1E: FENCE_ACQ, FENCE_REL, FENCE_AR, FENCE_DRAIN. -/
def decodeA1e (w : Nat) : Except Reject Instr :=
  if fld w 25 3 = 0 then accept (.fenceAcq (fld w 2 0)) else
  if fld w 25 3 = 1 then accept (.fenceRel (fld w 2 0)) else
  if fld w 25 3 = 2 then accept (.fenceAr (fld w 2 0)) else
  if fld w 25 3 = 3 then accept (.fenceDrain (fld w 2 0)) else
  .error .subOperation

/-- A-stream opcode 0x1F: WAITW_EQ, WAITW_NE, WAITW_GEU, WAITW_LTU. -/
def decodeA1f (w : Nat) : Except Reject Instr :=
  if fld w 7 0 = 0 then accept (.waitwEq (fld w 25 20) (fld w 19 14) (fld w 13 8)) else
  if fld w 7 0 = 8 then accept (.waitwNe (fld w 25 20) (fld w 19 14) (fld w 13 8)) else
  if fld w 7 0 = 16 then accept (.waitwGeu (fld w 25 20) (fld w 19 14) (fld w 13 8)) else
  if fld w 7 0 = 24 then accept (.waitwLtu (fld w 25 20) (fld w 19 14) (fld w 13 8)) else
  .error .subOperation

/-- A-stream opcode 0x20: RESV, DISC, MIGR, PIN, UNPIN. -/
def decodeA20 (w : Nat) : Except Reject Instr :=
  if fld w 7 0 = 0 then accept (.resv (fld w 25 20) (fld w 19 14) (fld w 13 8)) else
  if fld w 7 3 = 1 then accept (.disc (fld w 25 20) (fld w 19 14) (fld w 13 8) (fld w 2 0)) else
  if fld w 7 3 = 2 then accept (.migr (fld w 25 20) (fld w 19 14) (fld w 13 8) (fld w 2 0)) else
  if fld w 7 0 = 24 then accept (.pin (fld w 25 20) (fld w 19 14) (fld w 13 8)) else
  if fld w 7 0 = 32 then accept (.unpin (fld w 25 20) (fld w 19 14) (fld w 13 8)) else
  .error .subOperation

/-- A-stream opcode 0x21: LAUNCH, IRV, END. -/
def decodeA21 (w : Nat) : Except Reject Instr :=
  if fld w 25 20 = 0 ∧ fld w 13 0 = 0 then accept (.launch (fld w 19 14)) else
  if fld w 25 0 = 8 then accept (.irv) else
  if fld w 25 0 = 16 then accept (.endA) else
  .error .subOperation

/-- A-stream opcode 0x22: BAR_ARR, BAR_WAIT, BAR_SYNC. -/
def decodeA22 (w : Nat) : Except Reject Instr :=
  if fld w 25 11 = 0 ∧ fld w 7 3 = 0 then accept (.barArr (fld w 10 8) (fld w 2 0)) else
  if fld w 25 11 = 0 ∧ fld w 7 3 = 1 then accept (.barWait (fld w 10 8) (fld w 2 0)) else
  if fld w 25 11 = 0 ∧ fld w 7 3 = 2 then accept (.barSync (fld w 10 8) (fld w 2 0)) else
  .error .subOperation

/-- A-stream opcode 0x23: FORK, MSEND, MRECV, SRCH. -/
def decodeA23 (w : Nat) : Except Reject Instr :=
  if fld w 7 3 = 0 then accept (.fork (fld w 25 20) (fld w 19 14) (fld w 13 8) (fld w 2 0)) else
  if fld w 7 3 = 1 then accept (.msend (fld w 25 20) (fld w 19 14) (fld w 13 8) (fld w 2 0)) else
  if fld w 7 0 = 16 then accept (.mrecv (fld w 25 20) (fld w 19 14) (fld w 13 8)) else
  if fld w 7 3 = 3 then accept (.srch (fld w 25 20) (fld w 19 14) (fld w 13 8) (fld w 2 0)) else
  .error .subOperation

/-- A-stream opcode 0x24: SCOMMIT, TRUNC, SREAD, SARM_CREATE, SARM_ARM, SARM_DISARM, SARM_RETIRE, SARM_EVICT. -/
def decodeA24 (w : Nat) : Except Reject Instr :=
  if fld w 7 0 = 0 then accept (.scommit (fld w 25 20) (fld w 19 14) (fld w 13 8)) else
  if fld w 7 0 = 8 then accept (.trunc (fld w 25 20) (fld w 19 14) (fld w 13 8)) else
  if fld w 7 0 = 16 then accept (.sread (fld w 25 20) (fld w 19 14) (fld w 13 8)) else
  if fld w 7 0 = 24 then accept (.sarmCreate (fld w 25 20) (fld w 19 14) (fld w 13 8)) else
  .error .subOperation

/-- A-stream opcode 0x25: NOP, MFS, MTS, ECALL, ERET, TRAP, BRK. -/
def decodeA25 (w : Nat) : Except Reject Instr :=
  if fld w 25 0 = 0 then accept (.nop) else
  if fld w 19 14 = 0 ∧ fld w 7 3 = 1 then accept (.mfs (fld w 25 20) (fld w 13 8) (fld w 2 0)) else
  if fld w 25 20 = 0 ∧ fld w 7 3 = 2 then accept (.mts (fld w 19 14) (fld w 13 8) (fld w 2 0)) else
  if fld w 25 14 = 0 ∧ fld w 7 3 = 3 then accept (.ecall (fld w 13 8) (fld w 2 0)) else
  if fld w 25 0 = 32 then accept (.eret) else
  if fld w 25 14 = 0 ∧ fld w 7 3 = 5 then accept (.trap (fld w 13 8) (fld w 2 0)) else
  if fld w 25 14 = 0 ∧ fld w 7 3 = 6 then accept (.brk (fld w 13 8) (fld w 2 0)) else
  .error .subOperation

/-- A-stream opcode 0x28: BEZ, BNZ, BLTZ, BGEZ, BGTZ, BLEZ, BR. -/
def decodeA28 (w : Nat) : Except Reject Instr :=
  if fld w 25 22 = 0 then accept (.bez (fld w 21 16) (fld w 15 0)) else
  if fld w 25 22 = 1 then accept (.bnz (fld w 21 16) (fld w 15 0)) else
  if fld w 25 22 = 2 then accept (.bltz (fld w 21 16) (fld w 15 0)) else
  if fld w 25 22 = 3 then accept (.bgez (fld w 21 16) (fld w 15 0)) else
  if fld w 25 22 = 4 then accept (.bgtz (fld w 21 16) (fld w 15 0)) else
  if fld w 25 22 = 5 then accept (.blez (fld w 21 16) (fld w 15 0)) else
  if fld w 25 16 = 384 then accept (.br (fld w 15 0)) else
  .error .subOperation

/-- A-stream opcode 0x29: BEQ, BNE, BLT, BGE, BLTU, BGEU. -/
def decodeA29 (w : Nat) : Except Reject Instr :=
  if fld w 25 22 = 0 then accept (.beq (fld w 21 16) (fld w 15 10) (fld w 9 0)) else
  if fld w 25 22 = 1 then accept (.bne (fld w 21 16) (fld w 15 10) (fld w 9 0)) else
  if fld w 25 22 = 2 then accept (.blt (fld w 21 16) (fld w 15 10) (fld w 9 0)) else
  if fld w 25 22 = 3 then accept (.bge (fld w 21 16) (fld w 15 10) (fld w 9 0)) else
  if fld w 25 22 = 4 then accept (.bltu (fld w 21 16) (fld w 15 10) (fld w 9 0)) else
  if fld w 25 22 = 5 then accept (.bgeu (fld w 21 16) (fld w 15 10) (fld w 9 0)) else
  .error .subOperation

/-- A-stream opcode 0x2A: CALL. -/
def decodeA2a (w : Nat) : Except Reject Instr :=
  accept (.call (fld w 25 20) (fld w 19 0))

/-- A-stream opcode 0x2B: JR, JALR. -/
def decodeA2b (w : Nat) : Except Reject Instr :=
  if fld w 25 20 = 0 ∧ fld w 13 0 = 0 then accept (.jr (fld w 19 14)) else
  if fld w 13 0 = 1 then accept (.jalr (fld w 25 20) (fld w 19 14)) else
  .error .subOperation

/-- The A-stream word w (R43 to R48, R54, R55): its instruction, or why check 1 of R42 rejects it. -/
def decodeA (w : Nat) : Except Reject Instr :=
  match w / 2 ^ 26 with
  | 1 => decodeA01 w
  | 2 => decodeA02 w
  | 3 => decodeA03 w
  | 4 => decodeA04 w
  | 5 => decodeA05 w
  | 6 => decodeA06 w
  | 7 => decodeA07 w
  | 8 => decodeA08 w
  | 9 => decodeA09 w
  | 10 => decodeA0a w
  | 11 => decodeA0b w
  | 12 => decodeA0c w
  | 16 => decodeA10 w
  | 17 => decodeA11 w
  | 18 => decodeA12 w
  | 19 => decodeA13 w
  | 20 => decodeA14 w
  | 21 => decodeA15 w
  | 24 => decodeA18 w
  | 25 => decodeA19 w
  | 26 => decodeA1a w
  | 27 => decodeA1b w
  | 28 => decodeA1c w
  | 29 => decodeA1d w
  | 30 => decodeA1e w
  | 31 => decodeA1f w
  | 32 => decodeA20 w
  | 33 => decodeA21 w
  | 34 => decodeA22 w
  | 35 => decodeA23 w
  | 36 => decodeA24 w
  | 37 => decodeA25 w
  | 40 => decodeA28 w
  | 41 => decodeA29 w
  | 42 => decodeA2a w
  | 43 => decodeA2b w
  | _ => .error .opcode

/-- Z-stream opcode 0x01: ZNOP. -/
noncomputable def decodeZ01 (w : Nat) : Except Reject Instr :=
  if fld w 25 0 = 0 then accept (.znop) else
  .error .subOperation

/-- Z-stream opcode 0x02: ZREG. -/
noncomputable def decodeZ02 (w : Nat) : Except Reject Instr :=
  if fld w 25 22 = 0 ∧ fld w 17 0 = 0 then accept (.zreg (fld w 21 18)) else
  .error .subOperation

/-- Z-stream opcode 0x04: ZCMP_EQ. -/
noncomputable def decodeZ04 (w : Nat) : Except Reject Instr :=
  if fld w 20 18 = 0 then accept (.zcmpEq (fld w 25 24) (fld w 23 21) (fld w 17 9) (fld w 8 0)) else
  .error .subOperation

/-- Z-stream opcode 0x05: ZCMP_EQ_AND. -/
noncomputable def decodeZ05 (w : Nat) : Except Reject Instr :=
  accept (.zcmpEqAnd (fld w 25 24) (fld w 23 21) (fld w 20 18) (fld w 17 9) (fld w 8 0))

/-- Z-stream opcode 0x06: ZCMP_EQ_OR. -/
noncomputable def decodeZ06 (w : Nat) : Except Reject Instr :=
  accept (.zcmpEqOr (fld w 25 24) (fld w 23 21) (fld w 20 18) (fld w 17 9) (fld w 8 0))

/-- Z-stream opcode 0x07: ZCMP_NE. -/
noncomputable def decodeZ07 (w : Nat) : Except Reject Instr :=
  if fld w 20 18 = 0 then accept (.zcmpNe (fld w 25 24) (fld w 23 21) (fld w 17 9) (fld w 8 0)) else
  .error .subOperation

/-- Z-stream opcode 0x08: ZCMP_NE_AND. -/
noncomputable def decodeZ08 (w : Nat) : Except Reject Instr :=
  accept (.zcmpNeAnd (fld w 25 24) (fld w 23 21) (fld w 20 18) (fld w 17 9) (fld w 8 0))

/-- Z-stream opcode 0x09: ZCMP_NE_OR. -/
noncomputable def decodeZ09 (w : Nat) : Except Reject Instr :=
  accept (.zcmpNeOr (fld w 25 24) (fld w 23 21) (fld w 20 18) (fld w 17 9) (fld w 8 0))

/-- Z-stream opcode 0x0A: ZWR. -/
noncomputable def decodeZ0a (w : Nat) : Except Reject Instr :=
  if fld w 20 18 = 0 then accept (.zwr (fld w 25 24) (fld w 23 21) (fld w 17 9) (fld w 8 0)) else
  .error .subOperation

/-- Z-stream opcode 0x0B: ZWRC. -/
noncomputable def decodeZ0b (w : Nat) : Except Reject Instr :=
  if fld w 20 18 = 0 then accept (.zwrc (fld w 25 24) (fld w 23 21) (fld w 17 9) (fld w 8 0)) else
  .error .subOperation

/-- Z-stream opcode 0x0C: ZWRS. -/
noncomputable def decodeZ0c (w : Nat) : Except Reject Instr :=
  if fld w 20 18 = 0 then accept (.zwrs (fld w 25 24) (fld w 23 21) (fld w 17 9) (fld w 8 0)) else
  .error .subOperation

/-- Z-stream opcode 0x0D: ZFLD. -/
noncomputable def decodeZ0d (w : Nat) : Except Reject Instr :=
  if fld w 25 18 = 0 then accept (.zfld (fld w 17 9) (fld w 8 0)) else
  .error .subOperation

/-- Z-stream opcode 0x10: ZADD. -/
noncomputable def decodeZ10 (w : Nat) : Except Reject Instr :=
  accept (.zadd (fld w 25 24) (fld w 23 21) (fld w 20 18) (fld w 17 9) (fld w 8 0))

/-- Z-stream opcode 0x11: ZSUB. -/
noncomputable def decodeZ11 (w : Nat) : Except Reject Instr :=
  accept (.zsub (fld w 25 24) (fld w 23 21) (fld w 20 18) (fld w 17 9) (fld w 8 0))

/-- Z-stream opcode 0x12: ZADDK. -/
noncomputable def decodeZ12 (w : Nat) : Except Reject Instr :=
  accept (.zaddk (fld w 25 24) (fld w 23 21) (fld w 20 18) (fld w 17 9) (fld w 8 0))

/-- Z-stream opcode 0x13: ZSUBK. -/
noncomputable def decodeZ13 (w : Nat) : Except Reject Instr :=
  accept (.zsubk (fld w 25 24) (fld w 23 21) (fld w 20 18) (fld w 17 9) (fld w 8 0))

/-- Z-stream opcode 0x14: ZGT. -/
noncomputable def decodeZ14 (w : Nat) : Except Reject Instr :=
  accept (.zgt (fld w 25 24) (fld w 23 21) (fld w 20 18) (fld w 17 9) (fld w 8 0))

/-- Z-stream opcode 0x15: ZLT. -/
noncomputable def decodeZ15 (w : Nat) : Except Reject Instr :=
  accept (.zlt (fld w 25 24) (fld w 23 21) (fld w 20 18) (fld w 17 9) (fld w 8 0))

/-- Z-stream opcode 0x16: ZEQF. -/
noncomputable def decodeZ16 (w : Nat) : Except Reject Instr :=
  accept (.zeqf (fld w 25 24) (fld w 23 21) (fld w 20 18) (fld w 17 9) (fld w 8 0))

/-- Z-stream opcode 0x17: ZGTK. -/
noncomputable def decodeZ17 (w : Nat) : Except Reject Instr :=
  accept (.zgtk (fld w 25 24) (fld w 23 21) (fld w 20 18) (fld w 17 9) (fld w 8 0))

/-- Z-stream opcode 0x18: ZLTK. -/
noncomputable def decodeZ18 (w : Nat) : Except Reject Instr :=
  accept (.zltk (fld w 25 24) (fld w 23 21) (fld w 20 18) (fld w 17 9) (fld w 8 0))

/-- Z-stream opcode 0x19: ZMUL. -/
noncomputable def decodeZ19 (w : Nat) : Except Reject Instr :=
  if fld w 23 21 = 0 then accept (.zmul (fld w 25 24) (fld w 20 18) (fld w 17 9) (fld w 8 0)) else
  .error .subOperation

/-- Z-stream opcode 0x1A: ZMOV. -/
noncomputable def decodeZ1a (w : Nat) : Except Reject Instr :=
  if fld w 20 18 = 0 then accept (.zmov (fld w 25 24) (fld w 23 21) (fld w 17 9) (fld w 8 0)) else
  .error .subOperation

/-- Z-stream opcode 0x1C: ZCNT. -/
noncomputable def decodeZ1c (w : Nat) : Except Reject Instr :=
  if fld w 23 21 = 0 ∧ fld w 17 13 = 0 ∧ fld w 8 0 = 0 then accept (.zcnt (fld w 25 24) (fld w 20 18) (fld w 12 9)) else
  .error .subOperation

/-- Z-stream opcode 0x1D: ZFIRST. -/
noncomputable def decodeZ1d (w : Nat) : Except Reject Instr :=
  if fld w 23 21 = 0 ∧ fld w 17 13 = 0 ∧ fld w 8 0 = 0 then accept (.zfirst (fld w 25 24) (fld w 20 18) (fld w 12 9)) else
  .error .subOperation

/-- Z-stream opcode 0x1E: ZTAG_AND, ZTAG_OR, ZTAG_XOR, ZTAG_ANDN, ZTAG_MOV, ZTAG_NOT, ZTAG_SET, ZTAG_CLR. -/
noncomputable def decodeZ1e (w : Nat) : Except Reject Instr :=
  if fld w 17 15 = 0 ∧ fld w 11 0 = 0 then accept (.ztagAnd (fld w 25 24) (fld w 23 21) (fld w 20 18) (fld w 14 12)) else
  if fld w 17 15 = 0 ∧ fld w 11 0 = 512 then accept (.ztagOr (fld w 25 24) (fld w 23 21) (fld w 20 18) (fld w 14 12)) else
  if fld w 17 15 = 0 ∧ fld w 11 0 = 1024 then accept (.ztagXor (fld w 25 24) (fld w 23 21) (fld w 20 18) (fld w 14 12)) else
  if fld w 17 15 = 0 ∧ fld w 11 0 = 1536 then accept (.ztagAndn (fld w 25 24) (fld w 23 21) (fld w 20 18) (fld w 14 12)) else
  if fld w 17 0 = 2048 then accept (.ztagMov (fld w 25 24) (fld w 23 21) (fld w 20 18)) else
  if fld w 17 0 = 2560 then accept (.ztagNot (fld w 25 24) (fld w 23 21) (fld w 20 18)) else
  if fld w 20 0 = 3072 then accept (.ztagSet (fld w 25 24) (fld w 23 21)) else
  if fld w 20 0 = 3584 then accept (.ztagClr (fld w 25 24) (fld w 23 21)) else
  .error .subOperation

/-- Z-stream opcode 0x20: ZSCORE. -/
noncomputable def decodeZ20 (w : Nat) : Except Reject Instr :=
  if fld w 23 21 = 0 ∧ fld w 17 0 = 255 then accept (.zscore (fld w 25 24) (fld w 20 18)) else
  .error .subOperation

/-- Z-stream opcode 0x21: ZSEL. -/
noncomputable def decodeZ21 (w : Nat) : Except Reject Instr :=
  if fld w 17 2 = 0 then accept (.zsel (fld w 25 22) (fld w 21 18) (fld w 1 0)) else
  .error .subOperation

/-- Z-stream opcode 0x22: ZINS. -/
noncomputable def decodeZ22 (w : Nat) : Except Reject Instr :=
  if fld w 21 2 = 0 then accept (.zins (fld w 25 22) (fld w 1 0)) else
  .error .subOperation

/-- Z-stream opcode 0x23: ZAGE, ZAGE_CLR. -/
noncomputable def decodeZ23 (w : Nat) : Except Reject Instr :=
  if fld w 25 5 = 0 then accept (.zage (fld w 4 2) (fld w 1 0)) else
  if fld w 25 5 = 1 then accept (.zageClr (fld w 4 2) (fld w 1 0)) else
  .error .subOperation

/-- Z-stream opcode 0x24: ZDEL. -/
noncomputable def decodeZ24 (w : Nat) : Except Reject Instr :=
  if fld w 21 5 = 0 then accept (.zdel (fld w 25 22) (fld w 4 2) (fld w 1 0)) else
  .error .subOperation

/-- Z-stream opcode 0x25: ZSPILL, ZSPILL_CNT. -/
noncomputable def decodeZ25 (w : Nat) : Except Reject Instr :=
  if fld w 21 5 = 0 then accept (.zspill (fld w 25 22) (fld w 4 2) (fld w 1 0)) else
  if fld w 21 2 = 8 then accept (.zspillCnt (fld w 25 22) (fld w 1 0)) else
  .error .subOperation

/-- Z-stream opcode 0x28: ZKLD. -/
noncomputable def decodeZ28 (w : Nat) : Except Reject Instr :=
  if fld w 25 0 = 0 then accept (.zkld) else
  .error .subOperation

/-- Z-stream opcode 0x29: ZKSET. -/
noncomputable def decodeZ29 (w : Nat) : Except Reject Instr :=
  if fld w 25 22 = 0 then accept (.zkset (fld w 21 18) (fld w 17 9) (fld w 8 0)) else
  .error .subOperation

/-- Z-stream opcode 0x2A: ZKGET. -/
noncomputable def decodeZ2a (w : Nat) : Except Reject Instr :=
  if fld w 25 22 = 0 then accept (.zkget (fld w 21 18) (fld w 17 9) (fld w 8 0)) else
  .error .subOperation

/-- Z-stream opcode 0x30: YADD. -/
noncomputable def decodeZ30 (w : Nat) : Except Reject Instr :=
  if fld w 17 4 = 0 then accept (.yadd (fld w 25 22) (fld w 21 18) (fld w 3 0)) else
  .error .subOperation

/-- Z-stream opcode 0x31: YADDI. -/
noncomputable def decodeZ31 (w : Nat) : Except Reject Instr :=
  accept (.yaddi (fld w 25 22) (fld w 21 18) (fld w 17 0))

/-- Z-stream opcode 0x32: YSUB. -/
noncomputable def decodeZ32 (w : Nat) : Except Reject Instr :=
  if fld w 17 4 = 0 then accept (.ysub (fld w 25 22) (fld w 21 18) (fld w 3 0)) else
  .error .subOperation

/-- Z-stream opcode 0x33: YLI. -/
noncomputable def decodeZ33 (w : Nat) : Except Reject Instr :=
  if fld w 21 18 = 0 then accept (.yli (fld w 25 22) (fld w 17 0)) else
  .error .subOperation

/-- Z-stream opcode 0x34: YAND. -/
noncomputable def decodeZ34 (w : Nat) : Except Reject Instr :=
  if fld w 17 4 = 0 then accept (.yand (fld w 25 22) (fld w 21 18) (fld w 3 0)) else
  .error .subOperation

/-- Z-stream opcode 0x35: YOR. -/
noncomputable def decodeZ35 (w : Nat) : Except Reject Instr :=
  if fld w 17 4 = 0 then accept (.yor (fld w 25 22) (fld w 21 18) (fld w 3 0)) else
  .error .subOperation

/-- Z-stream opcode 0x36: YPUSH. -/
noncomputable def decodeZ36 (w : Nat) : Except Reject Instr :=
  if fld w 25 22 = 0 ∧ fld w 17 0 = 0 then accept (.ypush (fld w 21 18)) else
  .error .subOperation

/-- Z-stream opcode 0x37: YPOP. -/
noncomputable def decodeZ37 (w : Nat) : Except Reject Instr :=
  if fld w 21 0 = 0 then accept (.ypop (fld w 25 22)) else
  .error .subOperation

/-- Z-stream opcode 0x3B: ZBR. -/
noncomputable def decodeZ3b (w : Nat) : Except Reject Instr :=
  if fld w 25 18 = 0 then accept (.zbr (fld w 17 0)) else
  .error .subOperation

/-- Z-stream opcode 0x3C: ZBEQ. -/
noncomputable def decodeZ3c (w : Nat) : Except Reject Instr :=
  accept (.zbeq (fld w 25 22) (fld w 21 18) (fld w 17 0))

/-- Z-stream opcode 0x3D: ZBNE. -/
noncomputable def decodeZ3d (w : Nat) : Except Reject Instr :=
  accept (.zbne (fld w 25 22) (fld w 21 18) (fld w 17 0))

/-- Z-stream opcode 0x3E: ZLOOP. -/
noncomputable def decodeZ3e (w : Nat) : Except Reject Instr :=
  if fld w 21 18 = 0 then accept (.zloop (fld w 25 22) (fld w 17 0)) else
  .error .subOperation

/-- Z-stream opcode 0x3F: ZEND. -/
noncomputable def decodeZ3f (w : Nat) : Except Reject Instr :=
  if fld w 25 0 = 0 then accept (.zend) else
  .error .subOperation

/-- The Z-stream word w (R43 to R48, R54, R55): its instruction, or why check 1 of R42 rejects it. -/
noncomputable def decodeZ (w : Nat) : Except Reject Instr :=
  match w / 2 ^ 26 with
  | 1 => decodeZ01 w
  | 2 => decodeZ02 w
  | 4 => decodeZ04 w
  | 5 => decodeZ05 w
  | 6 => decodeZ06 w
  | 7 => decodeZ07 w
  | 8 => decodeZ08 w
  | 9 => decodeZ09 w
  | 10 => decodeZ0a w
  | 11 => decodeZ0b w
  | 12 => decodeZ0c w
  | 13 => decodeZ0d w
  | 16 => decodeZ10 w
  | 17 => decodeZ11 w
  | 18 => decodeZ12 w
  | 19 => decodeZ13 w
  | 20 => decodeZ14 w
  | 21 => decodeZ15 w
  | 22 => decodeZ16 w
  | 23 => decodeZ17 w
  | 24 => decodeZ18 w
  | 25 => decodeZ19 w
  | 26 => decodeZ1a w
  | 28 => decodeZ1c w
  | 29 => decodeZ1d w
  | 30 => decodeZ1e w
  | 32 => decodeZ20 w
  | 33 => decodeZ21 w
  | 34 => decodeZ22 w
  | 35 => decodeZ23 w
  | 36 => decodeZ24 w
  | 37 => decodeZ25 w
  | 40 => decodeZ28 w
  | 41 => decodeZ29 w
  | 42 => decodeZ2a w
  | 48 => decodeZ30 w
  | 49 => decodeZ31 w
  | 50 => decodeZ32 w
  | 51 => decodeZ33 w
  | 52 => decodeZ34 w
  | 53 => decodeZ35 w
  | 54 => decodeZ36 w
  | 55 => decodeZ37 w
  | 59 => decodeZ3b w
  | 60 => decodeZ3c w
  | 61 => decodeZ3d w
  | 62 => decodeZ3e w
  | 63 => decodeZ3f w
  | _ => .error .opcode

/-- Vector-slot op 0x01: FADD. -/
noncomputable def decodeV01 (g : XGuard) (_ d a b fn : Nat) : Except Reject Instr :=
  if fn / 8 = 0 then accept (.fadd g (fn % 8) d (VOp.dec a) (VOp.dec b)) else
  .error .reservedField

/-- Vector-slot op 0x02: FSUB. -/
noncomputable def decodeV02 (g : XGuard) (_ d a b fn : Nat) : Except Reject Instr :=
  if fn / 8 = 0 then accept (.fsub g (fn % 8) d (VOp.dec a) (VOp.dec b)) else
  .error .reservedField

/-- Vector-slot op 0x03: FMUL. -/
noncomputable def decodeV03 (g : XGuard) (_ d a b fn : Nat) : Except Reject Instr :=
  if fn / 8 = 0 then accept (.fmul g (fn % 8) d (VOp.dec a) (VOp.dec b)) else
  .error .reservedField

/-- Vector-slot op 0x04: FMA. -/
noncomputable def decodeV04 (g : XGuard) (_ d a b fn : Nat) : Except Reject Instr :=
  if fn / 8 = 0 then accept (.fma g (fn % 8) d (VOp.dec a) (VOp.dec b)) else
  .error .reservedField

/-- Vector-slot op 0x05: FMS. -/
noncomputable def decodeV05 (g : XGuard) (_ d a b fn : Nat) : Except Reject Instr :=
  if fn / 8 = 0 then accept (.fms g (fn % 8) d (VOp.dec a) (VOp.dec b)) else
  .error .reservedField

/-- Vector-slot op 0x06: FNMA. -/
noncomputable def decodeV06 (g : XGuard) (_ d a b fn : Nat) : Except Reject Instr :=
  if fn / 8 = 0 then accept (.fnma g (fn % 8) d (VOp.dec a) (VOp.dec b)) else
  .error .reservedField

/-- Vector-slot op 0x07: FMIN. -/
noncomputable def decodeV07 (g : XGuard) (_ d a b fn : Nat) : Except Reject Instr :=
  if fn = 0 then accept (.fmin g d (VOp.dec a) (VOp.dec b)) else
  .error .reservedField

/-- Vector-slot op 0x08: FMAX. -/
noncomputable def decodeV08 (g : XGuard) (_ d a b fn : Nat) : Except Reject Instr :=
  if fn = 0 then accept (.fmax g d (VOp.dec a) (VOp.dec b)) else
  .error .reservedField

/-- Vector-slot op 0x09: FABS. -/
noncomputable def decodeV09 (g : XGuard) (_ d a b fn : Nat) : Except Reject Instr :=
  if fn = 0 ∧ b = 192 then accept (.fabs g d (VOp.dec a)) else
  .error .reservedField

/-- Vector-slot op 0x0A: FNEG. -/
noncomputable def decodeV0a (g : XGuard) (_ d a b fn : Nat) : Except Reject Instr :=
  if fn = 0 ∧ b = 192 then accept (.fneg g d (VOp.dec a)) else
  .error .reservedField

/-- Vector-slot op 0x0B: RCP. -/
noncomputable def decodeV0b (g : XGuard) (_ d a b fn : Nat) : Except Reject Instr :=
  if fn / 8 = 0 ∧ b = 192 then accept (.rcp g (fn % 8) d (VOp.dec a)) else
  .error .reservedField

/-- Vector-slot op 0x0C: RSQRT. -/
noncomputable def decodeV0c (g : XGuard) (_ d a b fn : Nat) : Except Reject Instr :=
  if fn / 8 = 0 ∧ b = 192 then accept (.rsqrt g (fn % 8) d (VOp.dec a)) else
  .error .reservedField

/-- Vector-slot op 0x0D: EXP2. -/
noncomputable def decodeV0d (g : XGuard) (_ d a b fn : Nat) : Except Reject Instr :=
  if fn / 8 = 0 ∧ b = 192 then accept (.exp2 g (fn % 8) d (VOp.dec a)) else
  .error .reservedField

/-- Vector-slot op 0x0E: LOG2. -/
noncomputable def decodeV0e (g : XGuard) (_ d a b fn : Nat) : Except Reject Instr :=
  if fn / 8 = 0 ∧ b = 192 then accept (.log2 g (fn % 8) d (VOp.dec a)) else
  .error .reservedField

/-- Vector-slot op 0x10: HADD. -/
noncomputable def decodeV10 (g : XGuard) (_ d a b fn : Nat) : Except Reject Instr :=
  if fn / 16 = 0 then accept (.hadd g (fn / 8) (fn % 8) d (VOp.dec a) (VOp.dec b)) else
  .error .reservedField

/-- Vector-slot op 0x11: HSUB. -/
noncomputable def decodeV11 (g : XGuard) (_ d a b fn : Nat) : Except Reject Instr :=
  if fn / 16 = 0 then accept (.hsub g (fn / 8) (fn % 8) d (VOp.dec a) (VOp.dec b)) else
  .error .reservedField

/-- Vector-slot op 0x12: HMUL. -/
noncomputable def decodeV12 (g : XGuard) (_ d a b fn : Nat) : Except Reject Instr :=
  if fn / 16 = 0 then accept (.hmul g (fn / 8) (fn % 8) d (VOp.dec a) (VOp.dec b)) else
  .error .reservedField

/-- Vector-slot op 0x13: HFMA. -/
noncomputable def decodeV13 (g : XGuard) (_ d a b fn : Nat) : Except Reject Instr :=
  if fn / 16 = 0 then accept (.hfma g (fn / 8) (fn % 8) d (VOp.dec a) (VOp.dec b)) else
  .error .reservedField

/-- Vector-slot op 0x14: HMIN. -/
noncomputable def decodeV14 (g : XGuard) (_ d a b fn : Nat) : Except Reject Instr :=
  if fn % 8 = 0 ∧ fn / 16 = 0 then accept (.hmin g (fn / 8) d (VOp.dec a) (VOp.dec b)) else
  .error .reservedField

/-- Vector-slot op 0x15: HMAX. -/
noncomputable def decodeV15 (g : XGuard) (_ d a b fn : Nat) : Except Reject Instr :=
  if fn % 8 = 0 ∧ fn / 16 = 0 then accept (.hmax g (fn / 8) d (VOp.dec a) (VOp.dec b)) else
  .error .reservedField

/-- Vector-slot op 0x20: IADD. -/
noncomputable def decodeV20 (g : XGuard) (_ d a b fn : Nat) : Except Reject Instr :=
  if fn / 4 = 0 then accept (.iadd g fn d (VOp.dec a) (VOp.dec b)) else
  .error .reservedField

/-- Vector-slot op 0x21: ISUB. -/
noncomputable def decodeV21 (g : XGuard) (_ d a b fn : Nat) : Except Reject Instr :=
  if fn / 4 = 0 then accept (.isub g fn d (VOp.dec a) (VOp.dec b)) else
  .error .reservedField

/-- Vector-slot op 0x22: IMUL. -/
noncomputable def decodeV22 (g : XGuard) (_ d a b fn : Nat) : Except Reject Instr :=
  if fn / 4 = 0 then accept (.imul g fn d (VOp.dec a) (VOp.dec b)) else
  .error .reservedField

/-- Vector-slot op 0x23: IMULH. -/
noncomputable def decodeV23 (g : XGuard) (_ d a b fn : Nat) : Except Reject Instr :=
  if fn / 4 = 0 then accept (.imulh g fn d (VOp.dec a) (VOp.dec b)) else
  .error .reservedField

/-- Vector-slot op 0x24: IMULHU. -/
noncomputable def decodeV24 (g : XGuard) (_ d a b fn : Nat) : Except Reject Instr :=
  if fn / 4 = 0 then accept (.imulhu g fn d (VOp.dec a) (VOp.dec b)) else
  .error .reservedField

/-- Vector-slot op 0x25: IAND. -/
noncomputable def decodeV25 (g : XGuard) (_ d a b fn : Nat) : Except Reject Instr :=
  if fn / 4 = 0 then accept (.iand g fn d (VOp.dec a) (VOp.dec b)) else
  .error .reservedField

/-- Vector-slot op 0x26: IOR. -/
noncomputable def decodeV26 (g : XGuard) (_ d a b fn : Nat) : Except Reject Instr :=
  if fn / 4 = 0 then accept (.ior g fn d (VOp.dec a) (VOp.dec b)) else
  .error .reservedField

/-- Vector-slot op 0x27: IXOR. -/
noncomputable def decodeV27 (g : XGuard) (_ d a b fn : Nat) : Except Reject Instr :=
  if fn / 4 = 0 then accept (.ixor g fn d (VOp.dec a) (VOp.dec b)) else
  .error .reservedField

/-- Vector-slot op 0x28: IANDN. -/
noncomputable def decodeV28 (g : XGuard) (_ d a b fn : Nat) : Except Reject Instr :=
  if fn / 4 = 0 then accept (.iandn g fn d (VOp.dec a) (VOp.dec b)) else
  .error .reservedField

/-- Vector-slot op 0x29: ISLL. -/
noncomputable def decodeV29 (g : XGuard) (_ d a b fn : Nat) : Except Reject Instr :=
  if fn / 4 = 0 then accept (.isll g fn d (VOp.dec a) (VOp.dec b)) else
  .error .reservedField

/-- Vector-slot op 0x2A: ISRL. -/
noncomputable def decodeV2a (g : XGuard) (_ d a b fn : Nat) : Except Reject Instr :=
  if fn / 4 = 0 then accept (.isrl g fn d (VOp.dec a) (VOp.dec b)) else
  .error .reservedField

/-- Vector-slot op 0x2B: ISRA. -/
noncomputable def decodeV2b (g : XGuard) (_ d a b fn : Nat) : Except Reject Instr :=
  if fn / 4 = 0 then accept (.isra g fn d (VOp.dec a) (VOp.dec b)) else
  .error .reservedField

/-- Vector-slot op 0x2C: IMIN. -/
noncomputable def decodeV2c (g : XGuard) (_ d a b fn : Nat) : Except Reject Instr :=
  if fn / 4 = 0 then accept (.imin g fn d (VOp.dec a) (VOp.dec b)) else
  .error .reservedField

/-- Vector-slot op 0x2D: IMAX. -/
noncomputable def decodeV2d (g : XGuard) (_ d a b fn : Nat) : Except Reject Instr :=
  if fn / 4 = 0 then accept (.imax g fn d (VOp.dec a) (VOp.dec b)) else
  .error .reservedField

/-- Vector-slot op 0x2E: IMINU. -/
noncomputable def decodeV2e (g : XGuard) (_ d a b fn : Nat) : Except Reject Instr :=
  if fn / 4 = 0 then accept (.iminu g fn d (VOp.dec a) (VOp.dec b)) else
  .error .reservedField

/-- Vector-slot op 0x2F: IMAXU. -/
noncomputable def decodeV2f (g : XGuard) (_ d a b fn : Nat) : Except Reject Instr :=
  if fn / 4 = 0 then accept (.imaxu g fn d (VOp.dec a) (VOp.dec b)) else
  .error .reservedField

/-- Vector-slot op 0x30: IADDS. -/
noncomputable def decodeV30 (g : XGuard) (_ d a b fn : Nat) : Except Reject Instr :=
  if fn / 4 = 0 then accept (.iadds g fn d (VOp.dec a) (VOp.dec b)) else
  .error .reservedField

/-- Vector-slot op 0x31: IADDUS. -/
noncomputable def decodeV31 (g : XGuard) (_ d a b fn : Nat) : Except Reject Instr :=
  if fn / 4 = 0 then accept (.iaddus g fn d (VOp.dec a) (VOp.dec b)) else
  .error .reservedField

/-- Vector-slot op 0x32: ISUBS. -/
noncomputable def decodeV32 (g : XGuard) (_ d a b fn : Nat) : Except Reject Instr :=
  if fn / 4 = 0 then accept (.isubs g fn d (VOp.dec a) (VOp.dec b)) else
  .error .reservedField

/-- Vector-slot op 0x33: ISUBUS. -/
noncomputable def decodeV33 (g : XGuard) (_ d a b fn : Nat) : Except Reject Instr :=
  if fn / 4 = 0 then accept (.isubus g fn d (VOp.dec a) (VOp.dec b)) else
  .error .reservedField

/-- Vector-slot op 0x34: IABS. -/
noncomputable def decodeV34 (g : XGuard) (_ d a b fn : Nat) : Except Reject Instr :=
  if fn / 4 = 0 ∧ b = 192 then accept (.iabs g fn d (VOp.dec a)) else
  .error .reservedField

/-- Vector-slot op 0x38: FCMP. -/
noncomputable def decodeV38 (g : XGuard) (_ d a b fn : Nat) : Except Reject Instr :=
  if fn / 16 % 2 = 0 then accept (.fcmp g (fn % 16) (d + 64 * (fn / 32)) (VOp.dec a) (VOp.dec b)) else
  .error .reservedField

/-- Vector-slot op 0x39: ICMP. -/
noncomputable def decodeV39 (g : XGuard) (_ d a b fn : Nat) : Except Reject Instr :=
  if fn / 16 % 2 = 0 then accept (.icmp g (fn % 16) (d + 64 * (fn / 32)) (VOp.dec a) (VOp.dec b)) else
  .error .reservedField

/-- Vector-slot op 0x3C: SEL. -/
noncomputable def decodeV3c (g : XGuard) (_ d a b fn : Nat) : Except Reject Instr :=
  accept (.sel g fn d (VOp.dec a) (VOp.dec b))

/-- Vector-slot op 0x3D: PAND, POR, PXOR, PANDN, PORN, PNOT, PSET, PCLR. -/
noncomputable def decodeV3d (g : XGuard) (_ d a b fn : Nat) : Except Reject Instr :=
  if fn % 8 = 0 ∧ a / 64 = 0 ∧ b / 64 = 0 then accept (.pand g (d + 64 * (fn / 32)) (a + 64 * (fn / 16 % 2)) (b + 64 * (fn / 8 % 2))) else
  if fn % 8 = 1 ∧ a / 64 = 0 ∧ b / 64 = 0 then accept (.por g (d + 64 * (fn / 32)) (a + 64 * (fn / 16 % 2)) (b + 64 * (fn / 8 % 2))) else
  if fn % 8 = 2 ∧ a / 64 = 0 ∧ b / 64 = 0 then accept (.pxor g (d + 64 * (fn / 32)) (a + 64 * (fn / 16 % 2)) (b + 64 * (fn / 8 % 2))) else
  if fn % 8 = 3 ∧ a / 64 = 0 ∧ b / 64 = 0 then accept (.pandn g (d + 64 * (fn / 32)) (a + 64 * (fn / 16 % 2)) (b + 64 * (fn / 8 % 2))) else
  if fn % 8 = 4 ∧ a / 64 = 0 ∧ b / 64 = 0 then accept (.porn g (d + 64 * (fn / 32)) (a + 64 * (fn / 16 % 2)) (b + 64 * (fn / 8 % 2))) else
  if fn % 8 = 5 ∧ fn / 8 % 2 = 0 ∧ a / 64 = 0 ∧ b = 0 then accept (.pnot g (d + 64 * (fn / 32)) (a + 64 * (fn / 16 % 2))) else
  if fn % 8 = 6 ∧ fn / 16 % 2 = 0 ∧ fn / 8 % 2 = 0 ∧ a = 0 ∧ b = 0 then accept (.pset g (d + 64 * (fn / 32))) else
  if fn % 8 = 7 ∧ fn / 16 % 2 = 0 ∧ fn / 8 % 2 = 0 ∧ a = 0 ∧ b = 0 then accept (.pclr g (d + 64 * (fn / 32))) else
  .error .reservedField

/-- Vector-slot op 0x40 to 0x44: CVT. -/
noncomputable def decodeV40 (g : XGuard) (op d a b fn : Nat) : Except Reject Instr :=
  if b = 192 then accept (.cvt g (op - 64) fn d (VOp.dec a)) else
  .error .reservedField

/-- Vector-slot op 0x48 to 0x4C: CVT_F32. -/
noncomputable def decodeV48 (g : XGuard) (op d a b fn : Nat) : Except Reject Instr :=
  if b = 192 then accept (.cvtF32 g (op - 72) fn d (VOp.dec a)) else
  .error .reservedField

/-- Vector-slot op 0x50 to 0x54: MXQ. -/
noncomputable def decodeV50 (g : XGuard) (op d a b fn : Nat) : Except Reject Instr :=
  accept (.mxq g (op - 80) fn d (VOp.dec a) b)

/-- Vector-slot op 0x55: MXDQ. -/
noncomputable def decodeV55 (g : XGuard) (_ d a b fn : Nat) : Except Reject Instr :=
  accept (.mxdq g fn d (VOp.dec a) (VOp.dec b))

/-- Vector-slot op 0x58 to 0x5C: TSQ_TSF8A, TSQ_TSF8W. -/
noncomputable def decodeV58 (g : XGuard) (op d a b fn : Nat) : Except Reject Instr :=
  if fn = 24 then accept (.tsqTsf8a g (op - 88) d (VOp.dec a) b) else
  if fn = 25 then accept (.tsqTsf8w g (op - 88) d (VOp.dec a) (VOp.dec b)) else
  .error .reservedField

/-- Vector-slot op 0x5D: TSDQ. -/
noncomputable def decodeV5d (g : XGuard) (_ d a b fn : Nat) : Except Reject Instr :=
  accept (.tsdq g fn d (VOp.dec a) (VOp.dec b))

/-- Vector-slot op 0x60: FREDSUM. -/
noncomputable def decodeV60 (g : XGuard) (_ d a b fn : Nat) : Except Reject Instr :=
  if fn / 16 = 0 ∧ b = 192 then accept (.fredsum g (fn % 8) (fn / 8) d (VOp.dec a)) else
  .error .reservedField

/-- Vector-slot op 0x61: FREDMAX. -/
noncomputable def decodeV61 (g : XGuard) (_ d a b fn : Nat) : Except Reject Instr :=
  if fn % 8 = 0 ∧ fn / 16 = 0 ∧ b = 192 then accept (.fredmax g (fn / 8) d (VOp.dec a)) else
  .error .reservedField

/-- Vector-slot op 0x62: FREDMIN. -/
noncomputable def decodeV62 (g : XGuard) (_ d a b fn : Nat) : Except Reject Instr :=
  if fn % 8 = 0 ∧ fn / 16 = 0 ∧ b = 192 then accept (.fredmin g (fn / 8) d (VOp.dec a)) else
  .error .reservedField

/-- Vector-slot op 0x63: IREDSUM. -/
noncomputable def decodeV63 (g : XGuard) (_ d a b fn : Nat) : Except Reject Instr :=
  if fn % 8 = 0 ∧ fn / 16 = 0 ∧ b = 192 then accept (.iredsum g (fn / 8) d (VOp.dec a)) else
  .error .reservedField

/-- Vector-slot op 0x64: IREDMAX. -/
noncomputable def decodeV64 (g : XGuard) (_ d a b fn : Nat) : Except Reject Instr :=
  if fn % 8 = 0 ∧ fn / 16 = 0 ∧ b = 192 then accept (.iredmax g (fn / 8) d (VOp.dec a)) else
  .error .reservedField

/-- Vector-slot op 0x65: IREDMIN. -/
noncomputable def decodeV65 (g : XGuard) (_ d a b fn : Nat) : Except Reject Instr :=
  if fn % 8 = 0 ∧ fn / 16 = 0 ∧ b = 192 then accept (.iredmin g (fn / 8) d (VOp.dec a)) else
  .error .reservedField

/-- Vector-slot op 0x66: IREDMAXU. -/
noncomputable def decodeV66 (g : XGuard) (_ d a b fn : Nat) : Except Reject Instr :=
  if fn % 8 = 0 ∧ fn / 16 = 0 ∧ b = 192 then accept (.iredmaxu g (fn / 8) d (VOp.dec a)) else
  .error .reservedField

/-- Vector-slot op 0x67: IREDMINU. -/
noncomputable def decodeV67 (g : XGuard) (_ d a b fn : Nat) : Except Reject Instr :=
  if fn % 8 = 0 ∧ fn / 16 = 0 ∧ b = 192 then accept (.iredminu g (fn / 8) d (VOp.dec a)) else
  .error .reservedField

/-- Vector-slot op 0x68: VPERM. -/
noncomputable def decodeV68 (g : XGuard) (_ d a b fn : Nat) : Except Reject Instr :=
  if fn = 0 then accept (.vperm g d (VOp.dec a) (VOp.dec b)) else
  .error .reservedField

/-- Vector-slot op 0x69: VBCAST. -/
noncomputable def decodeV69 (g : XGuard) (_ d a b fn : Nat) : Except Reject Instr :=
  if fn = 0 then accept (.vbcast g d (VOp.dec a) (VOp.dec b)) else
  .error .reservedField

/-- Vector-slot op 0x6A: VROT. -/
noncomputable def decodeV6a (g : XGuard) (_ d a b fn : Nat) : Except Reject Instr :=
  if fn = 0 then accept (.vrot g d (VOp.dec a) (VOp.dec b)) else
  .error .reservedField

/-- Vector-slot op 0x6B: VSHL. -/
noncomputable def decodeV6b (g : XGuard) (_ d a b fn : Nat) : Except Reject Instr :=
  if fn = 0 then accept (.vshl g d (VOp.dec a) (VOp.dec b)) else
  .error .reservedField

/-- Vector-slot op 0x6C: VSHR. -/
noncomputable def decodeV6c (g : XGuard) (_ d a b fn : Nat) : Except Reject Instr :=
  if fn = 0 then accept (.vshr g d (VOp.dec a) (VOp.dec b)) else
  .error .reservedField

/-- Vector-slot op 0x6D: VZIP. -/
noncomputable def decodeV6d (g : XGuard) (_ d a b fn : Nat) : Except Reject Instr :=
  if fn = 0 then accept (.vzip g d (VOp.dec a) (VOp.dec b)) else
  .error .reservedField

/-- Vector-slot op 0x6E: VUNZIP. -/
noncomputable def decodeV6e (g : XGuard) (_ d a b fn : Nat) : Except Reject Instr :=
  if fn = 0 then accept (.vunzip g d (VOp.dec a) (VOp.dec b)) else
  .error .reservedField

/-- Vector-slot op 0x6F: VCOMP. -/
noncomputable def decodeV6f (g : XGuard) (_ d a b fn : Nat) : Except Reject Instr :=
  if fn = 0 then accept (.vcomp g d (VOp.dec a) b) else
  .error .reservedField

/-- Vector-slot op 0x70: VBFX. -/
noncomputable def decodeV70 (g : XGuard) (_ d a b fn : Nat) : Except Reject Instr :=
  if fn / 32 = 0 then accept (.vbfx g fn d (VOp.dec a) (VOp.dec b)) else
  .error .reservedField

/-- Vector-slot op 0x71: VBFX_S. -/
noncomputable def decodeV71 (g : XGuard) (_ d a b fn : Nat) : Except Reject Instr :=
  if fn / 32 = 0 then accept (.vbfxS g fn d (VOp.dec a) (VOp.dec b)) else
  .error .reservedField

/-- Vector-slot op 0x72: VFSH. -/
noncomputable def decodeV72 (g : XGuard) (_ d a b fn : Nat) : Except Reject Instr :=
  if fn / 32 = 0 then accept (.vfsh g fn d (VOp.dec a) (VOp.dec b)) else
  .error .reservedField

/-- Vector-slot op 0x78: LGTH. -/
noncomputable def decodeV78 (g : XGuard) (_ d a b fn : Nat) : Except Reject Instr :=
  if fn / 4 = 0 then accept (.lgth g fn d (VOp.dec a) (VOp.dec b)) else
  .error .reservedField

/-- Vector-slot op 0x79: LSCT. -/
noncomputable def decodeV79 (g : XGuard) (_ d a b fn : Nat) : Except Reject Instr :=
  if fn / 4 = 0 then accept (.lsct g fn d (VOp.dec a) (VOp.dec b)) else
  .error .reservedField

/-- Vector-slot op 0x7A: LLD. -/
noncomputable def decodeV7a (g : XGuard) (_ d a b fn : Nat) : Except Reject Instr :=
  if fn / 4 = 0 then accept (.lld g fn d (VOp.dec a) (VOp.dec b)) else
  .error .reservedField

/-- Vector-slot op 0x7B: LST. -/
noncomputable def decodeV7b (g : XGuard) (_ d a b fn : Nat) : Except Reject Instr :=
  if fn / 4 = 0 then accept (.lst g fn d (VOp.dec a) (VOp.dec b)) else
  .error .reservedField

/-- Vector-slot op 0x7C: ZPUSH. -/
noncomputable def decodeV7c (g : XGuard) (_ d a b fn : Nat) : Except Reject Instr :=
  if g = XGuard.none ∧ fn = 0 ∧ b = 192 ∧ d = 0 then accept (.zpush (VOp.dec a)) else
  .error .reservedField

/-- Vector-slot op 0x80: TLD. -/
noncomputable def decodeV80 (g : XGuard) (_ d a b fn : Nat) : Except Reject Instr :=
  if g = XGuard.none ∧ fn = 0 then accept (.tld d (VOp.dec a) (VOp.dec b)) else
  .error .reservedField

/-- Vector-slot op 0x81: TFREE. -/
noncomputable def decodeV81 (g : XGuard) (_ d a b fn : Nat) : Except Reject Instr :=
  if g = XGuard.none ∧ fn = 0 ∧ a = 192 ∧ b = 192 then accept (.tfree d) else
  .error .reservedField

/-- Vector-slot op 0x82: MMA. -/
noncomputable def decodeV82 (g : XGuard) (_ d a b fn : Nat) : Except Reject Instr :=
  if g = XGuard.none then accept (.mma fn (d / 16) (d % 16) (VOp.dec a) (VOp.dec b)) else
  .error .reservedField

/-- Vector-slot op 0x83: MMA_TS. -/
noncomputable def decodeV83 (g : XGuard) (_ d a b fn : Nat) : Except Reject Instr :=
  if g = XGuard.none ∧ fn = 24 then accept (.mmaTs d (VOp.dec a) (VOp.dec b)) else
  .error .reservedField

/-- Vector-slot op 0x84: MMA_MX. -/
noncomputable def decodeV84 (g : XGuard) (_ d a b fn : Nat) : Except Reject Instr :=
  if g = XGuard.none then accept (.mmaMx fn (d / 16) (d % 16) (VOp.dec a) (VOp.dec b)) else
  .error .reservedField

/-- Vector-slot op 0x85: ACCRD. -/
noncomputable def decodeV85 (g : XGuard) (_ d a b fn : Nat) : Except Reject Instr :=
  if g = XGuard.none ∧ b / 64 = 3 then accept (.accrd (b % 64) fn d (VOp.dec a)) else
  .error .reservedField

/-- Vector-slot op 0x86: ACCZERO. -/
noncomputable def decodeV86 (g : XGuard) (_ d a b fn : Nat) : Except Reject Instr :=
  if g = XGuard.none ∧ fn = 0 ∧ b / 64 = 3 ∧ d = 0 then accept (.acczero (VOp.dec a) (b % 64)) else
  .error .reservedField

/-- Vector-slot op 0x87: BALLOC. -/
noncomputable def decodeV87 (g : XGuard) (_ d a b fn : Nat) : Except Reject Instr :=
  if g = XGuard.none ∧ fn = 0 ∧ a = 192 ∧ b / 64 = 3 then accept (.balloc d (b % 64)) else
  .error .reservedField

/-- Vector-slot op 0x88: BFREE. -/
noncomputable def decodeV88 (g : XGuard) (_ d a b fn : Nat) : Except Reject Instr :=
  if g = XGuard.none ∧ fn = 0 ∧ b / 64 = 3 ∧ d = 0 then accept (.bfree (VOp.dec a) (b % 64)) else
  .error .reservedField

/-- Vector-slot op 0x89: MSIG. -/
noncomputable def decodeV89 (g : XGuard) (_ d a b fn : Nat) : Except Reject Instr :=
  if g = XGuard.none ∧ fn = 0 then accept (.msig d (VOp.dec a) (VOp.dec b)) else
  .error .reservedField

/-- The X control words (R136 to R145): `imm` is bits 21:0. -/
noncomputable def decodeC (op imm : Nat) : Except Reject Instr :=
  match op with
  | 240 => accept (.loop (fld imm 21 19) (fld imm 18 18) (fld imm 17 13) (fld imm 12 8) (fld imm 7 0))
  | 241 => accept (.rep (fld imm 21 21) (fld imm 20 20) (fld imm 19 15) (fld imm 14 10) (fld imm 9 0))
  | 242 => if fld imm 21 21 = 0 then accept (.forkx (fld imm 6 0) (fld imm 13 7) (fld imm 20 14)) else .error .reservedField
  | 243 => if imm = 0 then accept .joinx else .error .reservedField
  | 244 => if fld imm 21 16 = 0 then accept (.sbset (fld imm 7 0) (fld imm 15 8)) else .error .reservedField
  | 245 =>
    if fld imm 21 10 ≠ 0 then .error .reservedField else
    if fld imm 9 8 = 1 then accept (.sbwaitSet (fld imm 7 0)) else
    if fld imm 9 8 = 0 then accept (.sbwaitClr (fld imm 7 0)) else
    if fld imm 9 8 = 3 then accept (.sbwaitTake (fld imm 7 0)) else .error .reservedField
  | 255 => if imm = 0 then accept .endX else .error .reservedField
  | _ => .error .opcode

/-- The vector slot or control word of an X pair word (R49 to R53, Table 2.9). -/
noncomputable def decodeV (g : XGuard) (w : Nat) : Except Reject Instr :=
  let d := fld w 27 22
  let a := fld w 21 14
  let b := fld w 13 6
  let fn := fld w 5 0
  if fld w 35 0 = 0 then accept (.vnop g) else
  if 240 ≤ fld w 35 28 then
    (if g = XGuard.none ∧ d = 0 ∧ fld w 55 36 = 0 then decodeC (fld w 35 28) (fld w 21 0) else .error .reservedField)
  else
  match fld w 35 28 with
  | 1 => decodeV01 g 1 d a b fn
  | 2 => decodeV02 g 2 d a b fn
  | 3 => decodeV03 g 3 d a b fn
  | 4 => decodeV04 g 4 d a b fn
  | 5 => decodeV05 g 5 d a b fn
  | 6 => decodeV06 g 6 d a b fn
  | 7 => decodeV07 g 7 d a b fn
  | 8 => decodeV08 g 8 d a b fn
  | 9 => decodeV09 g 9 d a b fn
  | 10 => decodeV0a g 10 d a b fn
  | 11 => decodeV0b g 11 d a b fn
  | 12 => decodeV0c g 12 d a b fn
  | 13 => decodeV0d g 13 d a b fn
  | 14 => decodeV0e g 14 d a b fn
  | 16 => decodeV10 g 16 d a b fn
  | 17 => decodeV11 g 17 d a b fn
  | 18 => decodeV12 g 18 d a b fn
  | 19 => decodeV13 g 19 d a b fn
  | 20 => decodeV14 g 20 d a b fn
  | 21 => decodeV15 g 21 d a b fn
  | 32 => decodeV20 g 32 d a b fn
  | 33 => decodeV21 g 33 d a b fn
  | 34 => decodeV22 g 34 d a b fn
  | 35 => decodeV23 g 35 d a b fn
  | 36 => decodeV24 g 36 d a b fn
  | 37 => decodeV25 g 37 d a b fn
  | 38 => decodeV26 g 38 d a b fn
  | 39 => decodeV27 g 39 d a b fn
  | 40 => decodeV28 g 40 d a b fn
  | 41 => decodeV29 g 41 d a b fn
  | 42 => decodeV2a g 42 d a b fn
  | 43 => decodeV2b g 43 d a b fn
  | 44 => decodeV2c g 44 d a b fn
  | 45 => decodeV2d g 45 d a b fn
  | 46 => decodeV2e g 46 d a b fn
  | 47 => decodeV2f g 47 d a b fn
  | 48 => decodeV30 g 48 d a b fn
  | 49 => decodeV31 g 49 d a b fn
  | 50 => decodeV32 g 50 d a b fn
  | 51 => decodeV33 g 51 d a b fn
  | 52 => decodeV34 g 52 d a b fn
  | 56 => decodeV38 g 56 d a b fn
  | 57 => decodeV39 g 57 d a b fn
  | 60 => decodeV3c g 60 d a b fn
  | 61 => decodeV3d g 61 d a b fn
  | 64 => decodeV40 g 64 d a b fn
  | 65 => decodeV40 g 65 d a b fn
  | 66 => decodeV40 g 66 d a b fn
  | 67 => decodeV40 g 67 d a b fn
  | 68 => decodeV40 g 68 d a b fn
  | 72 => decodeV48 g 72 d a b fn
  | 73 => decodeV48 g 73 d a b fn
  | 74 => decodeV48 g 74 d a b fn
  | 75 => decodeV48 g 75 d a b fn
  | 76 => decodeV48 g 76 d a b fn
  | 80 => decodeV50 g 80 d a b fn
  | 81 => decodeV50 g 81 d a b fn
  | 82 => decodeV50 g 82 d a b fn
  | 83 => decodeV50 g 83 d a b fn
  | 84 => decodeV50 g 84 d a b fn
  | 85 => decodeV55 g 85 d a b fn
  | 88 => decodeV58 g 88 d a b fn
  | 89 => decodeV58 g 89 d a b fn
  | 90 => decodeV58 g 90 d a b fn
  | 91 => decodeV58 g 91 d a b fn
  | 92 => decodeV58 g 92 d a b fn
  | 93 => decodeV5d g 93 d a b fn
  | 96 => decodeV60 g 96 d a b fn
  | 97 => decodeV61 g 97 d a b fn
  | 98 => decodeV62 g 98 d a b fn
  | 99 => decodeV63 g 99 d a b fn
  | 100 => decodeV64 g 100 d a b fn
  | 101 => decodeV65 g 101 d a b fn
  | 102 => decodeV66 g 102 d a b fn
  | 103 => decodeV67 g 103 d a b fn
  | 104 => decodeV68 g 104 d a b fn
  | 105 => decodeV69 g 105 d a b fn
  | 106 => decodeV6a g 106 d a b fn
  | 107 => decodeV6b g 107 d a b fn
  | 108 => decodeV6c g 108 d a b fn
  | 109 => decodeV6d g 109 d a b fn
  | 110 => decodeV6e g 110 d a b fn
  | 111 => decodeV6f g 111 d a b fn
  | 112 => decodeV70 g 112 d a b fn
  | 113 => decodeV71 g 113 d a b fn
  | 114 => decodeV72 g 114 d a b fn
  | 120 => decodeV78 g 120 d a b fn
  | 121 => decodeV79 g 121 d a b fn
  | 122 => decodeV7a g 122 d a b fn
  | 123 => decodeV7b g 123 d a b fn
  | 124 => decodeV7c g 124 d a b fn
  | 128 => decodeV80 g 128 d a b fn
  | 129 => decodeV81 g 129 d a b fn
  | 130 => decodeV82 g 130 d a b fn
  | 131 => decodeV83 g 131 d a b fn
  | 132 => decodeV84 g 132 d a b fn
  | 133 => decodeV85 g 133 d a b fn
  | 134 => decodeV86 g 134 d a b fn
  | 135 => decodeV87 g 135 d a b fn
  | 136 => decodeV88 g 136 d a b fn
  | 137 => decodeV89 g 137 d a b fn
  | _ => .error .opcode

/-- The scalar slot of an X pair word (R52, R103 to R106, Table 2.8). -/
noncomputable def decodeK (g : XGuard) (w : Nat) : Except Reject Instr :=
  let d := fld w 50 46
  let a := fld w 45 41
  let b := fld w 40 36
  match fld w 55 51 with
  | 0 => if d = 0 ∧ a = 0 ∧ b = 0 then accept (.knop g) else .error .reservedField
  | 1 => accept (.kadd g d a b)
  | 2 => accept (.kaddi g d a b)
  | 3 => accept (.ksub g d a b)
  | 4 => accept (.kand g d a b)
  | 5 => accept (.kor g d a b)
  | 6 => accept (.kxor g d a b)
  | 7 => accept (.ksll g d a b)
  | 8 => accept (.kslli g d a b)
  | 9 => accept (.ksrl g d a b)
  | 10 => accept (.ksrli g d a b)
  | 11 => accept (.ksra g d a b)
  | 12 => accept (.ksrai g d a b)
  | 13 => accept (.kmul g d a b)
  | 14 => accept (.kmin g d a b)
  | 15 => accept (.kmax g d a b)
  | 16 => accept (.kminu g d a b)
  | 17 => accept (.kmaxu g d a b)
  | 18 => accept (.kslt g d a b)
  | 19 => accept (.ksltu g d a b)
  | 20 => accept (.kli g d (a * 32 + b))
  | 21 => accept (.klsh g d (a * 32 + b))
  | 22 => if a = 0 then accept (.kpop g d b) else .error .reservedField
  | 23 => if d = 0 then accept (.kpush g a b) else .error .reservedField
  | 24 => if d = 0 ∧ a = 0 then accept (.kcpg g b) else .error .reservedField
  | 25 => accept (.kbfx g d a b)
  | 26 => accept (.kfadd g d a b)
  | 27 => accept (.kfmul g d a b)
  | 28 => accept (.kfmax g d a b)
  | _ => .error .opcode

/-- An X pair word: both slots, or why check 1 of R42 rejects it. -/
noncomputable def decodeX (w : Nat) : Except Reject XWord :=
  let g : XGuard := ⟨fld w 63 63, fld w 62 56⟩
  if g.ok then
    match decodeV g w with
    | .error e => .error e
    | .ok v =>
      match decodeK g w with
      | .error e => .error e
      | .ok k => .ok ⟨v, k⟩
  else .error .guardField

/-- The word, or the part of an X pair word, that an instruction has. -/
inductive Enc where
  /-- an A-stream word -/
  | a (w : Nat)
  /-- a Z-stream word -/
  | z (w : Nat)
  /-- the vector slot or control word: bits 35:0 under the guard -/
  | xv (g : XGuard) (w : Nat)
  /-- the scalar slot: bits 55:36 under the guard -/
  | xk (g : XGuard) (w : Nat)
  /-- a device event: no word -/
  | none
  deriving DecidableEq, Repr

/-- A field placed at bit lo. -/
def sh (x lo : Nat) : Nat := x * 2 ^ lo

/-- The vector-slot fields of Table 2.6 put together. -/
def vslot (op d a b fn : Nat) : Nat := op * 2 ^ 28 + d * 2 ^ 22 + a * 2 ^ 14 + b * 2 ^ 6 + fn

/-- The scalar-slot fields of Table 2.6 put together, counted from bit 36. -/
def kslot (op d a b : Nat) : Nat := op * 2 ^ 15 + d * 2 ^ 10 + a * 2 ^ 5 + b

/-- The encoding of an instruction, from the same tables. -/
def encode : Instr → Enc
  | .add d a b => .a (0x04000000 + sh d 20 + sh a 14 + sh b 8)
  | .sub d a b => .a (0x04000001 + sh d 20 + sh a 14 + sh b 8)
  | .and d a b => .a (0x04000002 + sh d 20 + sh a 14 + sh b 8)
  | .or d a b => .a (0x04000003 + sh d 20 + sh a 14 + sh b 8)
  | .xor d a b => .a (0x04000004 + sh d 20 + sh a 14 + sh b 8)
  | .andn d a b => .a (0x04000005 + sh d 20 + sh a 14 + sh b 8)
  | .sll d a b => .a (0x04000006 + sh d 20 + sh a 14 + sh b 8)
  | .srl d a b => .a (0x04000007 + sh d 20 + sh a 14 + sh b 8)
  | .sra d a b => .a (0x04000008 + sh d 20 + sh a 14 + sh b 8)
  | .rol d a b => .a (0x04000009 + sh d 20 + sh a 14 + sh b 8)
  | .slt d a b => .a (0x0400000A + sh d 20 + sh a 14 + sh b 8)
  | .sltu d a b => .a (0x0400000B + sh d 20 + sh a 14 + sh b 8)
  | .min d a b => .a (0x0400000C + sh d 20 + sh a 14 + sh b 8)
  | .max d a b => .a (0x0400000D + sh d 20 + sh a 14 + sh b 8)
  | .minu d a b => .a (0x0400000E + sh d 20 + sh a 14 + sh b 8)
  | .maxu d a b => .a (0x0400000F + sh d 20 + sh a 14 + sh b 8)
  | .mul d a b => .a (0x04000010 + sh d 20 + sh a 14 + sh b 8)
  | .mulh d a b => .a (0x04000011 + sh d 20 + sh a 14 + sh b 8)
  | .mulhu d a b => .a (0x04000012 + sh d 20 + sh a 14 + sh b 8)
  | .div d a b => .a (0x04000013 + sh d 20 + sh a 14 + sh b 8)
  | .divu d a b => .a (0x04000014 + sh d 20 + sh a 14 + sh b 8)
  | .rem d a b => .a (0x04000015 + sh d 20 + sh a 14 + sh b 8)
  | .remu d a b => .a (0x04000016 + sh d 20 + sh a 14 + sh b 8)
  | .popc d a => .a (0x04000018 + sh d 20 + sh a 14)
  | .clz d a => .a (0x04000019 + sh d 20 + sh a 14)
  | .ctz d a => .a (0x0400001A + sh d 20 + sh a 14)
  | .bhash d a b => .a (0x0400001B + sh d 20 + sh a 14 + sh b 8)
  | .sextB d a => .a (0x0400001C + sh d 20 + sh a 14)
  | .sextH d a => .a (0x0400001D + sh d 20 + sh a 14)
  | .sextW d a => .a (0x0400001E + sh d 20 + sh a 14)
  | .fsh d a b n => .a (0x04000040 + sh d 20 + sh a 14 + sh b 8 + n)
  | .addi d a i => .a (0x08000000 + sh d 20 + sh a 14 + i)
  | .andi d a i => .a (0x0C000000 + sh d 20 + sh a 14 + i)
  | .ori d a i => .a (0x10000000 + sh d 20 + sh a 14 + i)
  | .xori d a i => .a (0x14000000 + sh d 20 + sh a 14 + i)
  | .slti d a i => .a (0x18000000 + sh d 20 + sh a 14 + i)
  | .sltiu d a i => .a (0x1C000000 + sh d 20 + sh a 14 + i)
  | .slli d a n => .a (0x20000000 + sh d 20 + sh a 14 + n)
  | .srli d a n => .a (0x20000040 + sh d 20 + sh a 14 + n)
  | .srai d a n => .a (0x20000080 + sh d 20 + sh a 14 + n)
  | .roli d a n => .a (0x200000C0 + sh d 20 + sh a 14 + n)
  | .li d i => .a (0x24000000 + sh d 20 + i)
  | .lsi d i => .a (0x28000000 + sh d 20 + i)
  | .bfx d a w st => .a (0x2C000000 + sh d 20 + sh a 14 + sh w 6 + st)
  | .bfxS d a w st => .a (0x2C002000 + sh d 20 + sh a 14 + sh w 6 + st)
  | .bfi d a w st => .a (0x30000000 + sh d 20 + sh a 14 + sh w 6 + st)
  | .ldB d a m o => .a (0x40000000 + sh d 20 + sh a 14 + sh m 10 + o)
  | .ldH d a m o => .a (0x40001000 + sh d 20 + sh a 14 + sh m 10 + o)
  | .ldW d a m o => .a (0x40002000 + sh d 20 + sh a 14 + sh m 10 + o)
  | .ldD d a m o => .a (0x40003000 + sh d 20 + sh a 14 + sh m 10 + o)
  | .ldBs d a m o => .a (0x44000000 + sh d 20 + sh a 14 + sh m 10 + o)
  | .ldHs d a m o => .a (0x44001000 + sh d 20 + sh a 14 + sh m 10 + o)
  | .ldWs d a m o => .a (0x44002000 + sh d 20 + sh a 14 + sh m 10 + o)
  | .stB d a m o => .a (0x48000000 + sh d 20 + sh a 14 + sh m 10 + o)
  | .stH d a m o => .a (0x48001000 + sh d 20 + sh a 14 + sh m 10 + o)
  | .stW d a m o => .a (0x48002000 + sh d 20 + sh a 14 + sh m 10 + o)
  | .stD d a m o => .a (0x48003000 + sh d 20 + sh a 14 + sh m 10 + o)
  | .vld q a => .a (0x4C000000 + sh q 20 + sh a 14)
  | .vldS q a b => .a (0x4C000008 + sh q 20 + sh a 14 + sh b 8)
  | .vldBc q a => .a (0x4C000010 + sh q 20 + sh a 14)
  | .qpush q a => .a (0x50000000 + sh q 20 + sh a 14)
  | .qpop d q => .a (0x50000001 + sh d 20 + sh q 14)
  | .wlc n a => .a (0x54000000 + sh n 20 + sh a 14)
  | .copy d a b y x sc => .a (0x60000000 + sh d 20 + sh a 14 + sh b 8 + sh y 7 + sh x 6 + sc)
  | .gather d a b y x sc => .a (0x60000008 + sh d 20 + sh a 14 + sh b 8 + sh y 7 + sh x 6 + sc)
  | .scatter d a b y x sc => .a (0x60000010 + sh d 20 + sh a 14 + sh b 8 + sh y 7 + sh x 6 + sc)
  | .rcopy d a b y x sc => .a (0x60000018 + sh d 20 + sh a 14 + sh b 8 + sh y 7 + sh x 6 + sc)
  | .copyMma d a b y x sc => .a (0x60000020 + sh d 20 + sh a 14 + sh b 8 + sh y 7 + sh x 6 + sc)
  | .cancel a => .a (0x64000000 + sh a 14)
  | .hwait a => .a (0x64000008 + sh a 14)
  | .htest d a => .a (0x64000010 + sh d 20 + sh a 14)
  | .amoAddRlx d a b w sc => .a (0x68000000 + sh d 20 + sh a 14 + sh b 8 + sh w 7 + sc)
  | .amoAndRlx d a b w sc => .a (0x68000008 + sh d 20 + sh a 14 + sh b 8 + sh w 7 + sc)
  | .amoOrRlx d a b w sc => .a (0x68000010 + sh d 20 + sh a 14 + sh b 8 + sh w 7 + sc)
  | .amoXorRlx d a b w sc => .a (0x68000018 + sh d 20 + sh a 14 + sh b 8 + sh w 7 + sc)
  | .amoMinRlx d a b w sc => .a (0x68000020 + sh d 20 + sh a 14 + sh b 8 + sh w 7 + sc)
  | .amoMaxRlx d a b w sc => .a (0x68000028 + sh d 20 + sh a 14 + sh b 8 + sh w 7 + sc)
  | .amoMinuRlx d a b w sc => .a (0x68000030 + sh d 20 + sh a 14 + sh b 8 + sh w 7 + sc)
  | .amoMaxuRlx d a b w sc => .a (0x68000038 + sh d 20 + sh a 14 + sh b 8 + sh w 7 + sc)
  | .amoSwapRlx d a b w sc => .a (0x68000040 + sh d 20 + sh a 14 + sh b 8 + sh w 7 + sc)
  | .amoCasRlx d a b w sc => .a (0x68000048 + sh d 20 + sh a 14 + sh b 8 + sh w 7 + sc)
  | .amoFaddRlx d a b sc => .a (0x680000D0 + sh d 20 + sh a 14 + sh b 8 + sc)
  | .amoFmaxRlx d a b sc => .a (0x680000D8 + sh d 20 + sh a 14 + sh b 8 + sc)
  | .amoFminRlx d a b sc => .a (0x680000E0 + sh d 20 + sh a 14 + sh b 8 + sc)
  | .amoAddAcq d a b w sc => .a (0x6C000000 + sh d 20 + sh a 14 + sh b 8 + sh w 7 + sc)
  | .amoAndAcq d a b w sc => .a (0x6C000008 + sh d 20 + sh a 14 + sh b 8 + sh w 7 + sc)
  | .amoOrAcq d a b w sc => .a (0x6C000010 + sh d 20 + sh a 14 + sh b 8 + sh w 7 + sc)
  | .amoXorAcq d a b w sc => .a (0x6C000018 + sh d 20 + sh a 14 + sh b 8 + sh w 7 + sc)
  | .amoMinAcq d a b w sc => .a (0x6C000020 + sh d 20 + sh a 14 + sh b 8 + sh w 7 + sc)
  | .amoMaxAcq d a b w sc => .a (0x6C000028 + sh d 20 + sh a 14 + sh b 8 + sh w 7 + sc)
  | .amoMinuAcq d a b w sc => .a (0x6C000030 + sh d 20 + sh a 14 + sh b 8 + sh w 7 + sc)
  | .amoMaxuAcq d a b w sc => .a (0x6C000038 + sh d 20 + sh a 14 + sh b 8 + sh w 7 + sc)
  | .amoSwapAcq d a b w sc => .a (0x6C000040 + sh d 20 + sh a 14 + sh b 8 + sh w 7 + sc)
  | .amoCasAcq d a b w sc => .a (0x6C000048 + sh d 20 + sh a 14 + sh b 8 + sh w 7 + sc)
  | .amoFaddAcq d a b sc => .a (0x6C0000D0 + sh d 20 + sh a 14 + sh b 8 + sc)
  | .amoFmaxAcq d a b sc => .a (0x6C0000D8 + sh d 20 + sh a 14 + sh b 8 + sc)
  | .amoFminAcq d a b sc => .a (0x6C0000E0 + sh d 20 + sh a 14 + sh b 8 + sc)
  | .amoAddRel d a b w sc => .a (0x70000000 + sh d 20 + sh a 14 + sh b 8 + sh w 7 + sc)
  | .amoAndRel d a b w sc => .a (0x70000008 + sh d 20 + sh a 14 + sh b 8 + sh w 7 + sc)
  | .amoOrRel d a b w sc => .a (0x70000010 + sh d 20 + sh a 14 + sh b 8 + sh w 7 + sc)
  | .amoXorRel d a b w sc => .a (0x70000018 + sh d 20 + sh a 14 + sh b 8 + sh w 7 + sc)
  | .amoMinRel d a b w sc => .a (0x70000020 + sh d 20 + sh a 14 + sh b 8 + sh w 7 + sc)
  | .amoMaxRel d a b w sc => .a (0x70000028 + sh d 20 + sh a 14 + sh b 8 + sh w 7 + sc)
  | .amoMinuRel d a b w sc => .a (0x70000030 + sh d 20 + sh a 14 + sh b 8 + sh w 7 + sc)
  | .amoMaxuRel d a b w sc => .a (0x70000038 + sh d 20 + sh a 14 + sh b 8 + sh w 7 + sc)
  | .amoSwapRel d a b w sc => .a (0x70000040 + sh d 20 + sh a 14 + sh b 8 + sh w 7 + sc)
  | .amoCasRel d a b w sc => .a (0x70000048 + sh d 20 + sh a 14 + sh b 8 + sh w 7 + sc)
  | .amoFaddRel d a b sc => .a (0x700000D0 + sh d 20 + sh a 14 + sh b 8 + sc)
  | .amoFmaxRel d a b sc => .a (0x700000D8 + sh d 20 + sh a 14 + sh b 8 + sc)
  | .amoFminRel d a b sc => .a (0x700000E0 + sh d 20 + sh a 14 + sh b 8 + sc)
  | .amoAddRc d a b w sc => .a (0x74000000 + sh d 20 + sh a 14 + sh b 8 + sh w 7 + sc)
  | .amoAndRc d a b w sc => .a (0x74000008 + sh d 20 + sh a 14 + sh b 8 + sh w 7 + sc)
  | .amoOrRc d a b w sc => .a (0x74000010 + sh d 20 + sh a 14 + sh b 8 + sh w 7 + sc)
  | .amoXorRc d a b w sc => .a (0x74000018 + sh d 20 + sh a 14 + sh b 8 + sh w 7 + sc)
  | .amoMinRc d a b w sc => .a (0x74000020 + sh d 20 + sh a 14 + sh b 8 + sh w 7 + sc)
  | .amoMaxRc d a b w sc => .a (0x74000028 + sh d 20 + sh a 14 + sh b 8 + sh w 7 + sc)
  | .amoMinuRc d a b w sc => .a (0x74000030 + sh d 20 + sh a 14 + sh b 8 + sh w 7 + sc)
  | .amoMaxuRc d a b w sc => .a (0x74000038 + sh d 20 + sh a 14 + sh b 8 + sh w 7 + sc)
  | .amoSwapRc d a b w sc => .a (0x74000040 + sh d 20 + sh a 14 + sh b 8 + sh w 7 + sc)
  | .amoCasRc d a b w sc => .a (0x74000048 + sh d 20 + sh a 14 + sh b 8 + sh w 7 + sc)
  | .amoFaddRc d a b sc => .a (0x740000D0 + sh d 20 + sh a 14 + sh b 8 + sc)
  | .amoFmaxRc d a b sc => .a (0x740000D8 + sh d 20 + sh a 14 + sh b 8 + sc)
  | .amoFminRc d a b sc => .a (0x740000E0 + sh d 20 + sh a 14 + sh b 8 + sc)
  | .fenceAcq sc => .a (0x78000000 + sc)
  | .fenceRel sc => .a (0x78000008 + sc)
  | .fenceAr sc => .a (0x78000010 + sc)
  | .fenceDrain sc => .a (0x78000018 + sc)
  | .waitwEq d a b => .a (0x7C000000 + sh d 20 + sh a 14 + sh b 8)
  | .waitwNe d a b => .a (0x7C000008 + sh d 20 + sh a 14 + sh b 8)
  | .waitwGeu d a b => .a (0x7C000010 + sh d 20 + sh a 14 + sh b 8)
  | .waitwLtu d a b => .a (0x7C000018 + sh d 20 + sh a 14 + sh b 8)
  | .resv d a b => .a (0x80000000 + sh d 20 + sh a 14 + sh b 8)
  | .disc d a b sc => .a (0x80000008 + sh d 20 + sh a 14 + sh b 8 + sc)
  | .migr d a b sc => .a (0x80000010 + sh d 20 + sh a 14 + sh b 8 + sc)
  | .pin d a b => .a (0x80000018 + sh d 20 + sh a 14 + sh b 8)
  | .unpin d a b => .a (0x80000020 + sh d 20 + sh a 14 + sh b 8)
  | .launch a => .a (0x84000000 + sh a 14)
  | .irv => .a (0x84000008)
  | .endA => .a (0x84000010)
  | .barArr n sc => .a (0x88000000 + sh n 8 + sc)
  | .barWait n sc => .a (0x88000008 + sh n 8 + sc)
  | .barSync n sc => .a (0x88000010 + sh n 8 + sc)
  | .fork d a b sc => .a (0x8C000000 + sh d 20 + sh a 14 + sh b 8 + sc)
  | .msend d a b sc => .a (0x8C000008 + sh d 20 + sh a 14 + sh b 8 + sc)
  | .mrecv d a b => .a (0x8C000010 + sh d 20 + sh a 14 + sh b 8)
  | .srch d a b sc => .a (0x8C000018 + sh d 20 + sh a 14 + sh b 8 + sc)
  | .scommit d a b => .a (0x90000000 + sh d 20 + sh a 14 + sh b 8)
  | .trunc d a b => .a (0x90000008 + sh d 20 + sh a 14 + sh b 8)
  | .sread d a b => .a (0x90000010 + sh d 20 + sh a 14 + sh b 8)
  | .sarmCreate d a b => .a (0x90000018 + sh d 20 + sh a 14 + sh b 8)
  | .sarmArm d a b => .a (0x90000018 + sh d 20 + sh a 14 + sh b 8)
  | .sarmDisarm d a b => .a (0x90000018 + sh d 20 + sh a 14 + sh b 8)
  | .sarmRetire d a b => .a (0x90000018 + sh d 20 + sh a 14 + sh b 8)
  | .sarmEvict d a b => .a (0x90000018 + sh d 20 + sh a 14 + sh b 8)
  | .nop => .a (0x94000000)
  | .mfs d n m => .a (0x94000008 + sh d 20 + sh n 8 + m)
  | .mts a n m => .a (0x94000010 + sh a 14 + sh n 8 + m)
  | .ecall n m => .a (0x94000018 + sh n 8 + m)
  | .eret => .a (0x94000020)
  | .trap n m => .a (0x94000028 + sh n 8 + m)
  | .brk n m => .a (0x94000030 + sh n 8 + m)
  | .bez a o => .a (0xA0000000 + sh a 16 + o)
  | .bnz a o => .a (0xA0400000 + sh a 16 + o)
  | .bltz a o => .a (0xA0800000 + sh a 16 + o)
  | .bgez a o => .a (0xA0C00000 + sh a 16 + o)
  | .bgtz a o => .a (0xA1000000 + sh a 16 + o)
  | .blez a o => .a (0xA1400000 + sh a 16 + o)
  | .br o => .a (0xA1800000 + o)
  | .beq a b o => .a (0xA4000000 + sh a 16 + sh b 10 + o)
  | .bne a b o => .a (0xA4400000 + sh a 16 + sh b 10 + o)
  | .blt a b o => .a (0xA4800000 + sh a 16 + sh b 10 + o)
  | .bge a b o => .a (0xA4C00000 + sh a 16 + sh b 10 + o)
  | .bltu a b o => .a (0xA5000000 + sh a 16 + sh b 10 + o)
  | .bgeu a b o => .a (0xA5400000 + sh a 16 + sh b 10 + o)
  | .call d i => .a (0xA8000000 + sh d 20 + i)
  | .jr a => .a (0xAC000000 + sh a 14)
  | .jalr d a => .a (0xAC000001 + sh d 20 + sh a 14)
  | .vnop g => .xv g 0
  | .fadd g rm d a b => .xv g (vslot 1 d a.enc b.enc rm)
  | .fsub g rm d a b => .xv g (vslot 2 d a.enc b.enc rm)
  | .fmul g rm d a b => .xv g (vslot 3 d a.enc b.enc rm)
  | .fma g rm d a b => .xv g (vslot 4 d a.enc b.enc rm)
  | .fms g rm d a b => .xv g (vslot 5 d a.enc b.enc rm)
  | .fnma g rm d a b => .xv g (vslot 6 d a.enc b.enc rm)
  | .fmin g d a b => .xv g (vslot 7 d a.enc b.enc 0)
  | .fmax g d a b => .xv g (vslot 8 d a.enc b.enc 0)
  | .fabs g d a => .xv g (vslot 9 d a.enc 192 0)
  | .fneg g d a => .xv g (vslot 10 d a.enc 192 0)
  | .rcp g rm d a => .xv g (vslot 11 d a.enc 192 rm)
  | .rsqrt g rm d a => .xv g (vslot 12 d a.enc 192 rm)
  | .exp2 g rm d a => .xv g (vslot 13 d a.enc 192 rm)
  | .log2 g rm d a => .xv g (vslot 14 d a.enc 192 rm)
  | .hadd g f rm d a b => .xv g (vslot 16 d a.enc b.enc (rm + 8 * f))
  | .hsub g f rm d a b => .xv g (vslot 17 d a.enc b.enc (rm + 8 * f))
  | .hmul g f rm d a b => .xv g (vslot 18 d a.enc b.enc (rm + 8 * f))
  | .hfma g f rm d a b => .xv g (vslot 19 d a.enc b.enc (rm + 8 * f))
  | .hmin g f d a b => .xv g (vslot 20 d a.enc b.enc (8 * f))
  | .hmax g f d a b => .xv g (vslot 21 d a.enc b.enc (8 * f))
  | .iadd g iw d a b => .xv g (vslot 32 d a.enc b.enc iw)
  | .isub g iw d a b => .xv g (vslot 33 d a.enc b.enc iw)
  | .imul g iw d a b => .xv g (vslot 34 d a.enc b.enc iw)
  | .imulh g iw d a b => .xv g (vslot 35 d a.enc b.enc iw)
  | .imulhu g iw d a b => .xv g (vslot 36 d a.enc b.enc iw)
  | .iand g iw d a b => .xv g (vslot 37 d a.enc b.enc iw)
  | .ior g iw d a b => .xv g (vslot 38 d a.enc b.enc iw)
  | .ixor g iw d a b => .xv g (vslot 39 d a.enc b.enc iw)
  | .iandn g iw d a b => .xv g (vslot 40 d a.enc b.enc iw)
  | .isll g iw d a b => .xv g (vslot 41 d a.enc b.enc iw)
  | .isrl g iw d a b => .xv g (vslot 42 d a.enc b.enc iw)
  | .isra g iw d a b => .xv g (vslot 43 d a.enc b.enc iw)
  | .imin g iw d a b => .xv g (vslot 44 d a.enc b.enc iw)
  | .imax g iw d a b => .xv g (vslot 45 d a.enc b.enc iw)
  | .iminu g iw d a b => .xv g (vslot 46 d a.enc b.enc iw)
  | .imaxu g iw d a b => .xv g (vslot 47 d a.enc b.enc iw)
  | .iadds g iw d a b => .xv g (vslot 48 d a.enc b.enc iw)
  | .iaddus g iw d a b => .xv g (vslot 49 d a.enc b.enc iw)
  | .isubs g iw d a b => .xv g (vslot 50 d a.enc b.enc iw)
  | .isubus g iw d a b => .xv g (vslot 51 d a.enc b.enc iw)
  | .iabs g iw d a => .xv g (vslot 52 d a.enc 192 iw)
  | .fcmp g cc pd a b => .xv g (vslot 56 (pd % 64) a.enc b.enc (cc + 32 * (pd / 64)))
  | .icmp g cc pd a b => .xv g (vslot 57 (pd % 64) a.enc b.enc (cc + 32 * (pd / 64)))
  | .sel g p d a b => .xv g (vslot 60 d a.enc b.enc p)
  | .pand g pd pa pb => .xv g (vslot 61 (pd % 64) (pa % 64) (pb % 64) (0 + 32 * (pd / 64) + 16 * (pa / 64) + 8 * (pb / 64)))
  | .por g pd pa pb => .xv g (vslot 61 (pd % 64) (pa % 64) (pb % 64) (1 + 32 * (pd / 64) + 16 * (pa / 64) + 8 * (pb / 64)))
  | .pxor g pd pa pb => .xv g (vslot 61 (pd % 64) (pa % 64) (pb % 64) (2 + 32 * (pd / 64) + 16 * (pa / 64) + 8 * (pb / 64)))
  | .pandn g pd pa pb => .xv g (vslot 61 (pd % 64) (pa % 64) (pb % 64) (3 + 32 * (pd / 64) + 16 * (pa / 64) + 8 * (pb / 64)))
  | .porn g pd pa pb => .xv g (vslot 61 (pd % 64) (pa % 64) (pb % 64) (4 + 32 * (pd / 64) + 16 * (pa / 64) + 8 * (pb / 64)))
  | .pnot g pd pa => .xv g (vslot 61 (pd % 64) (pa % 64) 0 (5 + 32 * (pd / 64) + 16 * (pa / 64)))
  | .pset g pd => .xv g (vslot 61 (pd % 64) 0 0 (6 + 32 * (pd / 64)))
  | .pclr g pd => .xv g (vslot 61 (pd % 64) 0 0 (7 + 32 * (pd / 64)))
  | .cvt g rm fmt d a => .xv g (vslot (64 + rm) d a.enc 192 fmt)
  | .cvtF32 g rm fmt d a => .xv g (vslot (72 + rm) d a.enc 192 fmt)
  | .mxq g rm fmt d a sd => .xv g (vslot (80 + rm) d a.enc sd fmt)
  | .mxdq g fmt d a b => .xv g (vslot 85 d a.enc b.enc fmt)
  | .tsqTsf8a g rm d a sd => .xv g (vslot (88 + rm) d a.enc sd 24)
  | .tsqTsf8w g rm d a b => .xv g (vslot (88 + rm) d a.enc b.enc 25)
  | .tsdq g fmt d a b => .xv g (vslot 93 d a.enc b.enc fmt)
  | .fredsum g rm all d a => .xv g (vslot 96 d a.enc 192 (rm + 8 * all))
  | .fredmax g all d a => .xv g (vslot 97 d a.enc 192 (8 * all))
  | .fredmin g all d a => .xv g (vslot 98 d a.enc 192 (8 * all))
  | .iredsum g all d a => .xv g (vslot 99 d a.enc 192 (8 * all))
  | .iredmax g all d a => .xv g (vslot 100 d a.enc 192 (8 * all))
  | .iredmin g all d a => .xv g (vslot 101 d a.enc 192 (8 * all))
  | .iredmaxu g all d a => .xv g (vslot 102 d a.enc 192 (8 * all))
  | .iredminu g all d a => .xv g (vslot 103 d a.enc 192 (8 * all))
  | .vperm g d a b => .xv g (vslot 104 d a.enc b.enc 0)
  | .vbcast g d a b => .xv g (vslot 105 d a.enc b.enc 0)
  | .vrot g d a b => .xv g (vslot 106 d a.enc b.enc 0)
  | .vshl g d a b => .xv g (vslot 107 d a.enc b.enc 0)
  | .vshr g d a b => .xv g (vslot 108 d a.enc b.enc 0)
  | .vzip g d a b => .xv g (vslot 109 d a.enc b.enc 0)
  | .vunzip g d a b => .xv g (vslot 110 d a.enc b.enc 0)
  | .vcomp g d a p => .xv g (vslot 111 d a.enc p 0)
  | .vbfx g st d a b => .xv g (vslot 112 d a.enc b.enc st)
  | .vbfxS g st d a b => .xv g (vslot 113 d a.enc b.enc st)
  | .vfsh g st d a b => .xv g (vslot 114 d a.enc b.enc st)
  | .lgth g sz d a b => .xv g (vslot 120 d a.enc b.enc sz)
  | .lsct g sz d a b => .xv g (vslot 121 d a.enc b.enc sz)
  | .lld g sz d a b => .xv g (vslot 122 d a.enc b.enc sz)
  | .lst g sz d a b => .xv g (vslot 123 d a.enc b.enc sz)
  | .zpush a => .xv XGuard.none (vslot 124 0 a.enc 192 0)
  | .tld t a b => .xv XGuard.none (vslot 128 t a.enc b.enc 0)
  | .tfree t => .xv XGuard.none (vslot 129 t 192 192 0)
  | .mma fmt h t a b => .xv XGuard.none (vslot 130 (t + 16 * h) a.enc b.enc fmt)
  | .mmaTs t a b => .xv XGuard.none (vslot 131 t a.enc b.enc 24)
  | .mmaMx fmt h t a b => .xv XGuard.none (vslot 132 (t + 16 * h) a.enc b.enc fmt)
  | .accrd rm fmt d a => .xv XGuard.none (vslot 133 d a.enc (192 + rm) fmt)
  | .acczero a n => .xv XGuard.none (vslot 134 0 a.enc (192 + n) 0)
  | .balloc d n => .xv XGuard.none (vslot 135 d 192 (192 + n) 0)
  | .bfree a n => .xv XGuard.none (vslot 136 0 a.enc (192 + n) 0)
  | .msig d a b => .xv XGuard.none (vslot 137 d a.enc b.enc 0)
  | .loop lc inc ki ks n => .xv XGuard.none (sh 0xF0 28 + (sh lc 19 + sh inc 18 + sh ki 13 + sh ks 8 + n))
  | .rep src inc ki ks c => .xv XGuard.none (sh 0xF1 28 + (sh src 21 + sh inc 20 + sh ki 15 + sh ks 10 + c))
  | .forkx o1 o2 o3 => .xv XGuard.none (sh 0xF2 28 + (sh o3 14 + sh o2 7 + o1))
  | .joinx => .xv XGuard.none (sh 0xF3 28 + (0))
  | .sbset set clr => .xv XGuard.none (sh 0xF4 28 + (sh clr 8 + set))
  | .sbwaitSet m => .xv XGuard.none (sh 0xF5 28 + (256 + m))
  | .sbwaitClr m => .xv XGuard.none (sh 0xF5 28 + (m))
  | .sbwaitTake m => .xv XGuard.none (sh 0xF5 28 + (768 + m))
  | .endX => .xv XGuard.none (sh 0xFF 28 + (0))
  | .knop g => .xk g (kslot 0 0 0 0)
  | .kadd g d a b => .xk g (kslot 1 d a b)
  | .kaddi g d a n => .xk g (kslot 2 d a n)
  | .ksub g d a b => .xk g (kslot 3 d a b)
  | .kand g d a b => .xk g (kslot 4 d a b)
  | .kor g d a b => .xk g (kslot 5 d a b)
  | .kxor g d a b => .xk g (kslot 6 d a b)
  | .ksll g d a b => .xk g (kslot 7 d a b)
  | .kslli g d a n => .xk g (kslot 8 d a n)
  | .ksrl g d a b => .xk g (kslot 9 d a b)
  | .ksrli g d a n => .xk g (kslot 10 d a n)
  | .ksra g d a b => .xk g (kslot 11 d a b)
  | .ksrai g d a n => .xk g (kslot 12 d a n)
  | .kmul g d a b => .xk g (kslot 13 d a b)
  | .kmin g d a b => .xk g (kslot 14 d a b)
  | .kmax g d a b => .xk g (kslot 15 d a b)
  | .kminu g d a b => .xk g (kslot 16 d a b)
  | .kmaxu g d a b => .xk g (kslot 17 d a b)
  | .kslt g d a b => .xk g (kslot 18 d a b)
  | .ksltu g d a b => .xk g (kslot 19 d a b)
  | .kli g d n => .xk g (kslot 20 d (n / 32) (n % 32))
  | .klsh g d n => .xk g (kslot 21 d (n / 32) (n % 32))
  | .kbfx g d a b => .xk g (kslot 25 d a b)
  | .kpop g d q => .xk g (kslot 22 d 0 q)
  | .kpush g a q => .xk g (kslot 23 0 a q)
  | .kcpg g n => .xk g (kslot 24 0 0 n)
  | .kfadd g d a b => .xk g (kslot 26 d a b)
  | .kfmul g d a b => .xk g (kslot 27 d a b)
  | .kfmax g d a b => .xk g (kslot 28 d a b)
  | .znop => .z (0x04000000)
  | .zreg a => .z (0x08000000 + sh a 18)
  | .zcmpEq a d c w => .z (0x10000000 + sh a 24 + sh d 21 + sh c 9 + w)
  | .zcmpEqAnd a d e c w => .z (0x14000000 + sh a 24 + sh d 21 + sh e 18 + sh c 9 + w)
  | .zcmpEqOr a d e c w => .z (0x18000000 + sh a 24 + sh d 21 + sh e 18 + sh c 9 + w)
  | .zcmpNe a d c w => .z (0x1C000000 + sh a 24 + sh d 21 + sh c 9 + w)
  | .zcmpNeAnd a d e c w => .z (0x20000000 + sh a 24 + sh d 21 + sh e 18 + sh c 9 + w)
  | .zcmpNeOr a d e c w => .z (0x24000000 + sh a 24 + sh d 21 + sh e 18 + sh c 9 + w)
  | .zwr a d c w => .z (0x28000000 + sh a 24 + sh d 21 + sh c 9 + w)
  | .zwrc a d c w => .z (0x2C000000 + sh a 24 + sh d 21 + sh c 9 + w)
  | .zwrs a d c w => .z (0x30000000 + sh a 24 + sh d 21 + sh c 9 + w)
  | .zfld c w => .z (0x34000000 + sh c 9 + w)
  | .zadd a d e c w => .z (0x40000000 + sh a 24 + sh d 21 + sh e 18 + sh c 9 + w)
  | .zsub a d e c w => .z (0x44000000 + sh a 24 + sh d 21 + sh e 18 + sh c 9 + w)
  | .zaddk a d e c w => .z (0x48000000 + sh a 24 + sh d 21 + sh e 18 + sh c 9 + w)
  | .zsubk a d e c w => .z (0x4C000000 + sh a 24 + sh d 21 + sh e 18 + sh c 9 + w)
  | .zgt a d e c w => .z (0x50000000 + sh a 24 + sh d 21 + sh e 18 + sh c 9 + w)
  | .zlt a d e c w => .z (0x54000000 + sh a 24 + sh d 21 + sh e 18 + sh c 9 + w)
  | .zeqf a d e c w => .z (0x58000000 + sh a 24 + sh d 21 + sh e 18 + sh c 9 + w)
  | .zgtk a d e c w => .z (0x5C000000 + sh a 24 + sh d 21 + sh e 18 + sh c 9 + w)
  | .zltk a d e c w => .z (0x60000000 + sh a 24 + sh d 21 + sh e 18 + sh c 9 + w)
  | .zmul a e c w => .z (0x64000000 + sh a 24 + sh e 18 + sh c 9 + w)
  | .zmov a d c w => .z (0x68000000 + sh a 24 + sh d 21 + sh c 9 + w)
  | .zcnt a e y => .z (0x70000000 + sh a 24 + sh e 18 + sh y 9)
  | .zfirst a e y => .z (0x74000000 + sh a 24 + sh e 18 + sh y 9)
  | .ztagAnd a d c e => .z (0x78000000 + sh a 24 + sh d 21 + sh c 18 + sh e 12)
  | .ztagOr a d c e => .z (0x78000200 + sh a 24 + sh d 21 + sh c 18 + sh e 12)
  | .ztagXor a d c e => .z (0x78000400 + sh a 24 + sh d 21 + sh c 18 + sh e 12)
  | .ztagAndn a d c e => .z (0x78000600 + sh a 24 + sh d 21 + sh c 18 + sh e 12)
  | .ztagMov a d c => .z (0x78000800 + sh a 24 + sh d 21 + sh c 18)
  | .ztagNot a d c => .z (0x78000A00 + sh a 24 + sh d 21 + sh c 18)
  | .ztagSet a d => .z (0x78000C00 + sh a 24 + sh d 21)
  | .ztagClr a d => .z (0x78000E00 + sh a 24 + sh d 21)
  | .zscore a c => .z (0x800000FF + sh a 24 + sh c 18)
  | .zsel d a n => .z (0x84000000 + sh d 22 + sh a 18 + n)
  | .zins d n => .z (0x88000000 + sh d 22 + n)
  | .zage c n => .z (0x8C000000 + sh c 2 + n)
  | .zageClr c n => .z (0x8C000020 + sh c 2 + n)
  | .zdel d c n => .z (0x90000000 + sh d 22 + sh c 2 + n)
  | .zspill d c n => .z (0x94000000 + sh d 22 + sh c 2 + n)
  | .zspillCnt d n => .z (0x94000020 + sh d 22 + n)
  | .zkld => .z (0xA0000000)
  | .zkset y c w => .z (0xA4000000 + sh y 18 + sh c 9 + w)
  | .zkget y c w => .z (0xA8000000 + sh y 18 + sh c 9 + w)
  | .yadd d a b => .z (0xC0000000 + sh d 22 + sh a 18 + b)
  | .yaddi d a i => .z (0xC4000000 + sh d 22 + sh a 18 + i)
  | .ysub d a b => .z (0xC8000000 + sh d 22 + sh a 18 + b)
  | .yli d i => .z (0xCC000000 + sh d 22 + i)
  | .yand d a b => .z (0xD0000000 + sh d 22 + sh a 18 + b)
  | .yor d a b => .z (0xD4000000 + sh d 22 + sh a 18 + b)
  | .ypush a => .z (0xD8000000 + sh a 18)
  | .ypop d => .z (0xDC000000 + sh d 22)
  | .zbr i => .z (0xEC000000 + i)
  | .zbeq d a i => .z (0xF0000000 + sh d 22 + sh a 18 + i)
  | .zbne d a i => .z (0xF4000000 + sh d 22 + sh a 18 + i)
  | .zloop d i => .z (0xF8000000 + sh d 22 + i)
  | .zend => .z (0xFC000000)
  | .powerOn _ => .none
  | .fullService => .none
  | .fwReload _ => .none
  | .functionLevelReset _ => .none
  | .linkInitialisation _ => .none
  | .ptmCorrection _ => .none
  | .ppsPulse _ => .none
  | .hostRead _ _ _ => .none
  | .hostWrite _ _ _ => .none
  | .peerRequest _ _ _ _ => .none
  | .sqtDoorbell _ _ => .none
  | .submissionEntry _ => .none
  | .kslotLoad _ _ => .none
  | .kslotUnload _ => .none
  | .lfpush _ _ => .none
  | .lfreq _ => .none
  | .taskQueueWordWrite _ _ => .none
  | .mgerrClear => .none
  | .lostClear _ => .none
  | .frameTableUpdate _ _ _ => .none
  | .registerWrite _ _ _ => .none
  | .launchReady _ => .none
  | .deadlineReached _ => .none
  | .dispatch _ => .none
  | .taskEnd _ => .none
  | .streamDeadlock _ => .none
  | .tileFull _ _ => .none
  | .vectorQueueEntryFilled _ _ => .none
  | .copyCompletion _ _ => .none
  | .followOnMma _ _ => .none
  | .mmaExecution _ => .none
  | .tfreeEffect _ => .none
  | .accrdExecution _ => .none
  | .acczeroExecution _ => .none
  | .frameWalk _ _ _ => .none
  | .tierMove _ _ _ => .none
  | .heatSweep => .none
  | .hintrepReport _ _ _ => .none
  | .quiescenceEpoch => .none
  | .quarantineRelease _ => .none
  | .stashWriteback _ _ => .none
  | .spillAcknowledgement _ _ => .none
  | .searchScan _ _ => .none
  | .searchCompletion _ _ => .none
  | .refreshDebtRepayment _ => .none
  | .watchdog _ => .none
  | .watchdogResetComplete _ => .none
  | .messageReceivable _ _ => .none
  | .barrierRelease _ _ => .none
  | .waitwWake _ => .none
  | .waitwTimeout _ => .none
  | .eventWindow _ _ => .none
  | .slotTimer _ _ => .none
  | .finWrite _ _ _ => .none
  | .sluice _ _ => .none
  | .sluiceMemoryWork _ _ => .none
  | .silenceEviction _ _ => .none
  | .evictionComplete _ _ => .none
  | .powerTierEntry => .none
  | .powerTierExit => .none
  | .trapDelivery _ => .none
  | .pmreqWrite _ _ => .none
  | .regionCreate _ _ => .none
  | .regionRelease _ _ => .none
  | .regionBind _ _ => .none
  | .tqselWrite _ _ => .none
  | .dikeWrite _ _ => .none
  | .ftopWrite _ _ => .none
  | .bfmtWrite _ _ _ => .none
  | .windowWrite _ _ _ => .none
  | .stbaseWrite _ _ _ => .none
  | .trbaseWrite _ _ => .none
  | .svbaseWrite _ _ _ => .none
  | .evtotClear _ _ => .none
  | .replcClear _ => .none
  | .zslogClear _ => .none
  | .vlogClear _ => .none
  | .mclogClear _ => .none
  | .hintrepClear _ => .none
  | .powerOff => .none
  | .accessPerformed _ => .none
  | .remoteWriteAcknowledgement _ => .none
  | .firmwareStateError => .none
  | .firmwareLoadComplete _ => .none
  | .arithmeticClockChange _ => .none

/-- An X pair word from its two slots (Table 2.6). -/
def encodeX (x : XWord) : Option Nat :=
  match encode x.v, encode x.k with
  | .xv g v, .xk g' k => if g = g' then some (g.ginv * 2 ^ 63 + g.gpred * 2 ^ 56 + k * 2 ^ 36 + v) else .none
  | _, _ => .none

/-- The bytes of a word of n bytes, little-endian (R40). -/
def wordBytes : Nat → Nat → List (BitVec 8)
  | 0, _ => []
  | n + 1, w => BitVec.ofNat 8 w :: wordBytes n (w / 256)

/-- The word of a little-endian byte string (R6, R40). -/
def bytesWord : List (BitVec 8) → Nat
  | [] => 0
  | b :: bs => b.toNat + 256 * bytesWord bs

/-- The instruction that the decoders read from a table row's bits: 32-bit words are A-stream words, or Z-stream
words where the A-stream has none; 64-bit words are X pair words, and the answer is the vector-slot instruction, or
the scalar-slot one where the vector slot holds none. -/
noncomputable def decodeTableWord (nbits w : Nat) : Option Instr :=
  if nbits ≤ 32 then
    let x := bytesWord (wordBytes 4 w)
    match decodeA x with
    | .ok i => some i
    | .error _ => (match decodeZ x with | .ok i => some i | .error _ => none)
  else
    match decodeX (bytesWord (wordBytes 8 w)) with
    | .ok x => (match x.v with | .vnop _ => some x.k | v => some v)
    | .error _ => none

end Sys2Proof
end

