-- ==== Sys2Proof/Machine/XOps.lean ====
section
/-! DEFINITION. What the slots of a pair word share: the guard (R50), the declared bounds (R29, R110), operand lanes
(R51, Table 2.7), queue heads (R16, R41), and the writing of lanes, predicates and k copies (R103, R109, R110). -/

namespace Sys2Proof.Machine

/-- The lanes of a guard (R50). -/
def Core.guardLanes (c : Core) (g : XGuard) : BitVec 1024 :=
  if g.gpred = 127 then BitVec.allOnes 1024
  else
    let p := c.p.get 0 g.gpred
    if g.ginv = 1 then ~~~ p else p

/-- The guard's lanes as the word's start saw them (R41). -/
def State.guard (s : State) (g : XGuard) : BitVec 1024 :=
  match s.latch with
  | some l => l.guard
  | none => s.core.guardLanes g

/-- Lane l of the guard. -/
def State.on (s : State) (g : XGuard) (l : Nat) : Bool := (s.guard g).getLsbD l

/-- K[c][n] as the word's start saw it (R41). -/
def State.kSrc (s : State) (c n : Nat) : Word :=
  match s.latch with
  | some l => l.k.get 0 (32 * c + n)
  | none => s.core.k.get 0 (32 * c + n)

/-- The cluster whose copies the scalar slot and the matrix ops read (R21, R103, R153). -/
def State.xCluster (s : State) : Nat :=
  match s.strmNo with
  | .xc c => c
  | _ => 0

/-- The span of the acting X stream: base lane and length (R109). -/
def State.span (s : State) : Nat × Nat := spanOf s.strmNo

/-- An operand of kind 00 beyond `nvreg` (R29): heads of queues never are. -/
def VOp.beyond (n : Nat) : VOp → Bool
  | .vec i => decide (n ≤ i) && decide (i ≤ 59)
  | _ => false

/-- The guard is true in some lane of the acting span: a slot whose guard is false in every lane raises no fault (R50). -/
def State.someOn (s : State) (g : XGuard) : Bool := (List.range s.span.2).any fun i => s.on g (s.span.1 + i)

/-- The bounds that a pair word's destinations, operands, predicates and guard are checked against (R29, R42, R110), where its
guard is true in some lane (R50); the guard itself is read, and checked, in every word. -/
def xBounds (g : XGuard) (ds : List Nat) (ops : List VOp) (ps : List Nat) : M Unit := do
  let s ← get
  let t := s.core.task.getD {}
  failIf ((ds.any (fun d => decide (t.nvreg ≤ d)) || ops.any (VOp.beyond t.nvreg)) && s.someOn g) { code := 0x03, det := 0 }
  failIf ((ps.any (fun p => decide (t.npred ≤ p)) && s.someOn g) || (decide (g.gpred ≠ 127) && decide (t.npred ≤ g.gpred)))
    { code := 0x03, det := 1 }

/-- The vector queues whose heads the operands name, each once (R41). -/
def headsOf (ops : List VOp) : List Nat :=
  (List.range 4).filter fun j => ops.any fun o => decide (o = .vec (60 + j))

/-- The entry at cluster c's head of `qv`j, where there is one that may be read (R16, R231). -/
def Queues.head? (q : Queues) (j c : Nat) : Option VEntry :=
  match (q.qv.get [] j)[q.hv.get 0 (4 * j + c)]? with
  | some e => if e.ready then some e else none
  | none => none

/-- The clusters have popped an entry: it leaves the queue once all four have (R16). The heads and the number to drop. -/
def popHeads (h : Sparse Nat) (j : Nat) (cs : List Nat) : Sparse Nat × Nat :=
  let h := cs.foldl (fun h c => h.set 0 (4 * j + c) (h.get 0 (4 * j + c) + 1)) h
  let m := min (min (h.get 0 (4 * j)) (h.get 0 (4 * j + 1))) (min (h.get 0 (4 * j + 2)) (h.get 0 (4 * j + 3)))
  ((List.range 4).foldl (fun h c => h.set 0 (4 * j + c) (h.get 0 (4 * j + c) - m)) h, m)

/-- `qv`j is popped by clusters. -/
def Queues.popV (q : Queues) (j : Nat) (cs : List Nat) : Queues :=
  let r := popHeads q.hv j cs
  { q with hv := r.1, qv := q.qv.set [] j ((q.qv.get [] j).drop r.2) }

/-- `qs`j is popped by clusters. -/
def Core.popS (c : Core) (j : Nat) (cs : List Nat) : Core :=
  let r := popHeads c.q.hs j cs
  { c with q := { c.q with hs := r.1, qs := c.q.qs.set [] j ((c.q.qs.get [] j).drop r.2) } }.popMarks (4 + j) r.2

/-- The word waits for the queue heads it names, and then pops them whatever its guard (R16, R50); the operands have
been read from the state before. -/
def popOperands (ops : List VOp) : M Unit := do
  let s ← get
  let cs := clustersOf s.strmNo
  match (headsOf ops).find? fun j => cs.any fun c => (s.core.q.head? j c).isNone with
  | some j => stall (.empty j)
  | none =>
    let c := s.core
    set (s.putCore { c with q := (headsOf ops).foldl (fun q j => q.popV j cs) c.q })

/-- Lane l of an operand (Table 2.7); `lit` gives a literal's lane value. -/
def State.opLane (s : State) (lit : Nat → Nat) (o : VOp) (l : Nat) : Nat :=
  let c := s.core
  match o with
  | .vec n =>
    if n ≤ 59 then ((c.vreg n).get 0 l).toNat
    else
      match c.q.head? (n - 60) (l / 256) with
      | some e => (e.lanes.get 0 l).toNat
      | none => 0
  | .k n => (s.kSrc (l / 256) n).toNat % 2 ^ 32
  | .const n => (c.cb.get 0 (64 * c.cpg.get 0 (l / 256) + n)).toNat % 2 ^ 32
  | .lit n => lit n

/-- A literal's raw lane: sext (n, 32) (R110). -/
def litRaw (n : Nat) : Nat := litPacked 32 n

/-- A literal's FP32 pattern (Table 2.7). -/
def litFp (n : Nat) : Nat := litBits fp32 n

/-- A literal in both 16-bit elements (R115). -/
def litHalf (f : FFmt) (n : Nat) : Nat := litBits f n * 65537

/-- Register d with the lanes of a span written where `on` holds. -/
def Core.putLanes (c : Core) (d lo n : Nat) (on : Nat → Bool) (val : Nat → Nat) : Core :=
  let old := c.vreg d
  let bad := c.ecc.lane.splice false (1024 * d + lo) n fun k => if on (k - 1024 * d) then false else c.ecc.lane.get false k
  { c with
    v := c.v.set [] d (old.splice 0 lo n fun l => if on l then BitVec.ofNat 32 (val l) else old.get 0 l)
    ecc := { c.ecc with lane := bad } }

/-- Generators of a span after an op's draws (R82). -/
def Core.putGens (c : Core) (lo n : Nat) (on : Nat → Bool) (gen : Nat → Lane) : Core :=
  { c with gens := (List.range n).foldl (fun g i =>
      let l := lo + i
      if on l && decide (gen l ≠ c.gen l) then g.set 0 l (gen l) else g) c.gens }

/-- The number whose bit i is f i, for i below n. -/
def bitsFrom (f : Nat → Bool) : Nat → Nat
  | 0 => 0
  | k + 1 => bitsFrom f k + (if f k then 2 ^ k else 0)

/-- Predicate d with the lanes of a span written where `on` holds. -/
def Core.putPred (c : Core) (d lo n : Nat) (on val : Nat → Bool) : Core :=
  let old := c.p.get 0 d
  let c := { c with p := c.p.set 0 d (BitVec.ofNat 1024 (bitsFrom
      (fun l => if lo ≤ l ∧ l < lo + n ∧ on l = true then val l else old.getLsbD l) 1024)) }
  if (List.range 1024).all (fun l => decide (lo ≤ l) && decide (l < lo + n) && on l) then c.fresh [256 + d] else c

/-- A vector-slot op whose lanes are computed one by one (R109 to R111): bounds, queue heads, lanes, draws, events. -/
def laneOp (g : XGuard) (d : Nat) (ops : List VOp) (ps : List Nat) (f : State → Nat → LaneRes) : M Unit := do
  xBounds g [d] ops ps
  let s ← get
  popOperands ops
  let b := s.span
  let on := s.on g
  modify fun t => t.putCore ((t.core.putLanes d b.1 b.2 on fun l => (f s l).val).putGens b.1 b.2 on fun l => (f s l).gen)
  countM (sumEvs (((List.range b.2).filter fun i => on (b.1 + i)).map fun i => (f s (b.1 + i)).evs))

/-- A vector-slot op whose lanes take no draw and count no event. -/
def rawOp (g : XGuard) (d : Nat) (ops : List VOp) (ps : List Nat) (f : State → Nat → Nat) : M Unit := do
  xBounds g [d] ops ps
  let s ← get
  popOperands ops
  let b := s.span
  modify fun t => t.putCore (t.core.putLanes d b.1 b.2 (s.on g) (f s))

/-- A vector-slot op that writes a predicate lane by lane. -/
def predOp (g : XGuard) (d : Nat) (ops : List VOp) (ps : List Nat) (f : State → Nat → Bool) : M Unit := do
  xBounds g [] ops (d :: ps)
  let s ← get
  popOperands ops
  let b := s.span
  modify fun t => t.putCore (t.core.putPred d b.1 b.2 (s.on g) (f s))

/-- The absent guard of a word without one. -/
def noGuard : XGuard := ⟨0, 127⟩

/-- The clusters whose copy a scalar-slot op writes (R103). -/
def State.kClusters (s : State) (g : XGuard) : List Nat := (clustersOf s.strmNo).filter fun c => s.on g (256 * c)

/-- k[d] of clusters := v. -/
def Core.putK (c : Core) (cs : List Nat) (d : Nat) (v : Word) : Core :=
  { c with k := cs.foldl (fun k i => k.set 0 (32 * i + d) v) c.k }.fresh (cs.map fun i => 128 + 32 * i + d)

/-- k[d] of clusters; where the vector slot of the same word has written the same register, which write stays is open. -/
def writeK (cs : List Nat) (d : Nat) (v : Word) : M Unit := do
  let s ← get
  let both := match s.latch with
    | some l => decide (l.kd = some d)
    | none => false
  if both then
    let n ← takeFresh
    if Config.freeBool n then
      modify fun s => s.putCore (s.core.putK cs d v)
  else
    modify fun s => s.putCore (s.core.putK cs d v)

end Sys2Proof.Machine
end

