-- ==== Sys2Proof/Machine/Fetch.lean ====
section
/-! DEFINITION. Around an instruction: fetching its bytes (R40), the boundary at which pending faults are taken (R376, R91),
the two slots of a pair word (R41, R49), the passing of device time (R340), and the order in which the agents act. -/

namespace Sys2Proof.Machine

/-- The n bytes at the acting stream's pc (R40): translated with `x`, granted as a fetch, 0x10 where a line cannot be
corrected (R389). Of a word that is rewritten while its task runs, the fetch returns the bytes that have performed at their home:
the model's choice (log entry 100) between the old and the new word that R66 leaves open. -/
def fetchBytes (n : Nat) : M (List Byte) := do
  let s ← get
  let q := { s.req with ag := 4096 }
  let va := s.pc.toNat
  let ia ← translate q va n { x := true }
  let ps ← grantAll q va ia n .fetch
  ps.forM fun p => do
    match p.1 with
    | .frame _ k => failIf ((← get).badIn k p.2.2.2) { code := 0x10, va := some va, ia := some ia }
    | .polder _ => failIf ((← get).badPolder p.2.1 p.2.2.2) { code := 0x10, va := some va, ia := some ia }
    | .peer _ => pure ()
  readAll q ps

/-- The word of n bytes at the acting stream's pc, little-endian. -/
def fetchWord (n : Nat) : M Nat := do
  let bs ← fetchBytes n
  pure (bytesWord bs)

/-- The five operations of `sarm` share one word: S[b] names the one that runs (R358). -/
def State.resolve (s : State) (i : Instr) : Instr :=
  match i with
  | .sarmCreate d a b =>
    let o := (s.rdS b).toNat
    if o = 1 then .sarmArm d a b
    else if o = 2 then .sarmDisarm d a b
    else if o = 3 then .sarmRetire d a b
    else if o = 4 then .sarmEvict d a b
    else .sarmCreate d a b
  | i => i

/-- Carries an outcome of a fetch on: the word and the state, or the outcome of the fault that the fetch raised. -/
def fetched (n : Nat) (s : State) (k : Nat → State → Out) : Out :=
  match fetchWord n s with
  | .ok w t => k w t
  | .error e t => runM (throw e) t

/-- A word that check 1 of R42 rejects. -/
def illegal (s : State) : Out := runM (fail { code := 0x01 }) s

/-- The sources of a pair word are taken before either slot writes (R41). -/
def State.latchX (s : State) (g : XGuard) : State :=
  { s with latch := some ⟨s.core.k, s.core.guardLanes g, none⟩ }

/-- A pair word has executed: the stream goes on (R138, R140). -/
def State.finishX (s : State) : State :=
  { s.putCore (s.core.xNext s.strmNo) with latch := none, note := .done }

/-- A pair word that waits has no effect beyond its stream's wait (R41). -/
def State.waitX (s t : State) : State :=
  { s.putCore (s.core.setStrm s.strmNo (t.core.strmAt s.strmNo)) with latch := none, note := .stalled }

/-- After the vector slot, the scalar slot: a stall or a fault of either leaves the word without an effect (R41, R110). The
scalar slot's one fault, its guard's bound, is also the vector slot's. -/
def pairOut (s : State) (v : Out) (k : State → Out) : Out :=
  match v with
  | .next t =>
    match t.note with
    | .faulted => .next { t with latch := none }
    | .stalled => .next (s.waitX t)
    | .done =>
      match k t with
      | .next u =>
        match u.note with
        | .faulted => .next { u with latch := none }
        | .stalled => .next (s.waitX u)
        | .done => .next u.finishX
      | o => o
  | o => o

/-- After a control word, whose meaning moves the pc itself. -/
def controlOut (s : State) (v : Out) : Out :=
  match v with
  | .next t => .next { (if t.note = .stalled then s.waitX t else t) with latch := none }
  | o => o

/-- The word is a control word (R136). -/
def isControl (w : Nat) : Bool := decide (240 ≤ fld w 35 28)

/-- The handle names a command that is still in flight. -/
def Core.inFlightHdl (c : Core) (h : Word) : Bool :=
  let e := c.eng.get {} (h.toNat % 64)
  decide (e.gen = h.toNat / 64) && decide (e.st = .flight)

/-- A stream's pending exceptions at a boundary: a trap due to it, of an engine command once that has completed (R91); for the
A-stream the command fault of its lowest engine slot (R376); for the Z-stream the fault of a spill (R209). The joined X-stream
has such a boundary at its own turn while its clusters are forked too: the model's choice for the trap of an MMA that was issued
before the fork (R156, log entry 103). -/
def Core.dueFault? (c : Core) (st : Strm) : Option (FaultInfo × Core) :=
  match c.due.find? fun d => decide (d.1 = st.code) && !c.inFlightHdl d.2.2 with
  | some d =>
    some ({ code := 0x17, det := d.2.1, hdl := d.2.2 }, { c with due := c.due.erase d })
  | none =>
    if st = .a then
      match (List.range 64).find? fun i => (c.eng.get {} i).flt.isSome with
      | some i =>
        match (c.eng.get {} i).flt with
        | some f => some (f, { c with eng := c.eng.set {} i { c.eng.get {} i with flt := none } })
        | none => none
      | none => none
    else if st = .z then c.zflt.map fun f => (f, { c with zflt := none })
    else none

/-- The pending exception of a stream is taken at its boundary; none where there is none. -/
def State.boundary? (s : State) : Option Out :=
  match s.core.dueFault? s.strmNo with
  | none => none
  | some (f, c) => some (settleOut (faultAfter s.coreNo s.strmNo.code f { s.putCore c with note := .faulted }))

/-- An `accrd` that the stream issued has not written its register yet: the stream waits (R159). -/
def Core.awaitsAccrd (c : Core) (st : Strm) : Bool :=
  c.mx.mq.any fun m =>
    match m with
    | .accrd _ _ _ _ cl => decide (st.code = if cl = 0 then 1 else 1 + cl)
    | _ => false

/-- The stream may execute a word now. -/
def Core.canRun (c : Core) (st : Strm) : Bool :=
  c.task.isSome && c.frozen.isNone && decide ((c.strmAt st).st = .running) &&
    (match st with
     | .x => !c.forked
     | .xc _ => c.forked
     | _ => true)

/-- A stream that has ended or runs may still have an exception to take. -/
def Core.hasTurn (c : Core) (st : Strm) : Bool := c.task.isSome && c.frozen.isNone && decide ((c.strmAt st).st ≠ .absent)

/-- Entries that a queue of Table 15.3 holds when full (Table 1.2). -/
def queueRoom (q : Nat) : Nat := if q < 4 then 8 else 16

/-- What a stream waits for has not come (Table 12.3). -/
def Core.stillWaits (c : Core) (st : Strm) : Wait → Bool
  | .empty q =>
    if q < 4 then (clustersOf st).any fun i => (c.q.head? q i).isNone
    else if q < 6 then (clustersOf st).any fun i => decide (c.q.count q ≤ c.q.hs.get 0 (4 * (q - 4) + i))
    else decide (c.q.count q = 0)
  | .full q => decide (queueRoom q ≤ c.q.count q)
  | .tile t full => if full then decide (c.mx.tileSt t ≠ .full) else decide (c.mx.tileSt t ≠ .empty)
  | .sync m high _ => decide (c.sb &&& BitVec.ofNat 8 m ≠ if high then BitVec.ofNat 8 m else 0)
  | .join => true
  | .mqFull => decide (16 ≤ c.mx.mq.length) || !c.mx.wait.isEmpty || c.awaitsAccrd st
  | .flight _ => false

/-- The stream stalls in a wait that Table 12.3 classes as blocked and that has not ended, or is no longer there (R20). -/
def Core.blocked (c : Core) (st : Strm) : Bool :=
  let r := c.strmAt st
  match r.st, r.wait with
  | .running, none => false
  | .running, some w => c.stillWaits st w
  | _, _ => true

/-- The streams of a core that R20 looks at. -/
def Core.streams (c : Core) : List Strm := if c.forked then [.a, .xc 0, .xc 1, .xc 2, .xc 3, .z] else [.a, .x, .z]

/-- The command at the head of the matrix queue can go on (R20, R158). -/
def Matrix.headMoves (m : Matrix) : Bool :=
  match m.mq with
  | [] => false
  | .mma _ _ _ t _ _ _ _ :: _ => decide (m.tileSt t = .full)
  | .tfree t :: _ => decide (m.tileSt t = .full)
  | _ => true

/-- The core has a memory or engine operation of its task in flight (R20, R329). -/
def State.inFlight (s : State) (core : Nat) : Bool :=
  let c := s.coreAt core
  c.eng.any (fun e => decide (e.2.st = .flight)) ||
  c.q.qv.any (fun e => e.2.any fun x => !x.ready) ||
  c.mx.tst.any (fun e => e.2.isLoading) || c.mx.headMoves ||
  s.spills.any (fun p => decide (p.core = core)) || !(s.forksOf core).isEmpty ||
  s.pend.any (fun p => decide (p.agent = core)) || s.remote.any (fun r => decide (agentCore? r.agent = some core)) ||
  c.streams.any fun st => match (c.strmAt st).wait with | some (.flight _) => true | _ => false

/-- Both conditions of R20 hold on a core whose task is not ending (R32). -/
def State.deadlocked (s : State) (core : Nat) : Bool :=
  let c := s.coreAt core
  c.task.isSome && c.frozen.isNone && c.streams.all c.blocked && !s.inFlight core && !s.canEnd core

/-- n clk pass on a core for the count of R20. -/
def State.countDead (s : State) (core n : Nat) : State :=
  let c := s.coreAt core
  let d := if s.deadlocked core then c.dead + n else 0
  if d = c.dead then s else s.setCore core { c with dead := d }

/-- The clk of R20's count that a stream's turn takes. -/
def stepDead (core : Nat) (o : Out) : Out :=
  match o with
  | .next s => .next (s.countDead core 1)
  | o => o

/-- A sequencer's watchdog counts (R338): it runs a stream that is not stalled in `msend` or `mrecv`, or its unit scans. -/
def State.wdCounts (s : State) (n : Nat) : Bool :=
  let q := s.seqrAt n
  !q.resetting && ((q.running && !q.waiting) ||
    s.cores.any fun c => c.2.eng.any fun e =>
      match e.2.cmd with
      | some cmd => decide (cmd.kind = 5) && decide (cmd.su = n) && s.scanReady c.1 cmd
      | none => false)

/-- The nanoseconds of a slewed correction that n nanoseconds of slewing take up (R340): no more than 500 ppm. -/
def slewPart (slew : Int) (n : Nat) : Int :=
  let m : Int := (n / 2000 : Nat)
  max (-m) (min m slew)

/-- Device time passes (R340): the fault records of the time that ends are sent (R209), then the count, the slewed correction, the
watchdogs, and the clk of R20. -/
def State.pass (s : State) (n : Nat) : State :=
  let s := if s.episodes = [] then s else s.sendEpisodes
  -- what a turn leaves of 2,000 ns counts for the next
  let m := s.slewRem + n
  let d := slewPart s.slew m
  let s := { s with dtime := ((s.dtime : Int) + n + d).toNat, slew := s.slew - d, slewRem := if s.slew = 0 then 0 else m % 2000 }
  let s := (List.range 48).foldl (fun s q =>
    if s.wdCounts q then s.setSeqr q { s.seqrAt q with wd := (s.seqrAt q).wd + n } else s) s
  s.cores.foldl (fun s c => s.countDead c.1 (n * s.mhz / 1000)) s

/-- The turns that a core's streams and engines may take. -/
noncomputable def coreTurns (n : Nat) : List Turn :=
  [.strm n .a, .strm n .x, .strm n (.xc 0), .strm n (.xc 1), .strm n (.xc 2), .strm n (.xc 3), .strm n .z] ++
  (List.range 64).flatMap (fun i => [.dev (.copyCompletion n i), .dev (.followOnMma n i), .dev (.searchScan n i), .dev (.searchCompletion n i)]) ++
  (List.range 16).map (fun t => .dev (.tileFull n t)) ++
  (List.range 4).map (fun q => .dev (.vectorQueueEntryFilled n q)) ++
  (List.range 128).map (fun e => .dev (.spillAcknowledgement n e)) ++
  (List.range 48).map (fun q => .dev (.messageReceivable n q)) ++
  [.dev (.mmaExecution n), .dev (.tfreeEffect n), .dev (.accrdExecution n), .dev (.acczeroExecution n), .dev (.waitwWake n),
   .dev (.waitwTimeout n), .dev (.trapDelivery n), .dev (.streamDeadlock n), .dev (.taskEnd n)]

/-- The turns of the default rotation. -/
noncomputable def State.turns (s : State) : List Turn :=
  s.cores.flatMap (fun c => coreTurns c.1) ++ s.seqrs.map (fun q => .seqr q.1) ++
  s.launches.flatMap (fun l => [.dev (.launchReady l.id), .dev (.deadlineReached l.id)]) ++
  s.gangs.flatMap (fun g => (List.range 8).map fun n => .dev (.barrierRelease g.id n)) ++
  s.debt.map (fun d => .dev (.refreshDebtRepayment d.1)) ++
  (List.range 4).map (fun d => .dev (.dispatch d)) ++ [.dev (.accessPerformed 0), .dev (.remoteWriteAcknowledgement 0), .time 1000]

/-- Whose turn it is (model): the agenda's first, else the rotation's next. -/
noncomputable def State.takeTurn (s : State) : State :=
  match s.agenda with
  | t :: ts => { s with cur := t, agenda := ts }
  | [] =>
    let l := s.turns
    { s with cur := l.getD (s.rot % l.length) (.time 1000), rot := s.rot + 1 }

/-- A device event has no word of its own. -/
def isEvent (i : Instr) : Bool :=
  match encode i with
  | .none => true
  | _ => false

end Sys2Proof.Machine
end

