-- ==== Sys2Proof/Machine/XCtl.lean ====
section
/-! DEFINITION. The control words of the X-stream (R136 to R145): loops, repeats, forks and joins, sync bits, `end`. A
meaning moves the pc itself. -/

namespace Sys2Proof.Machine

/-- The stream goes on at pc v, through the ends of loop bodies. -/
def xGoTo (v : Word) : M Unit := modify fun s => s.putCore (s.core.xGo s.strmNo v)

/-- The active loops of the acting stream, innermost first. -/
def State.loopsNow (s : State) : List LoopRec := s.core.loops.get [] s.strmNo.code

/-- A loop or repeat record (R137, R138): count and steps latched. -/
def State.loopRec (s : State) (n lc inc ki ks : Nat) (count : Word) : LoopRec :=
  { pc := s.pc, n := n, lc := lc, inc := decide (inc = 1), ki := ki
    step := if inc = 1 then (clustersOf s.strmNo).foldl (fun m c => m.set 0 c (s.kSrc c ks)) [] else []
    left := count, done := 0 }

/-- A word that ends at pc v lies after the body of the innermost active loop (R139). -/
def State.pastBody (s : State) (v : Nat) : Bool :=
  match s.loopsNow with
  | l :: _ => decide (l.pc.toNat + 8 * l.n < v)
  | [] => false

/-- `loop` (R137, R139). A fifth nested loop word raises 0x01 before its count is read, a count of 0 included: the model's choice,
since R139 does not say (log entry 57). -/
def loopM (lc inc ki ks n : Nat) : M Unit := do
  let s ← get
  failIf (decide (4 ≤ s.loopsNow.length) || s.pastBody (s.pc.toNat + 8 * n)) { code := 0x01 }
  let count := s.core.lc.get 0 lc
  if count = 0 then xGoTo (s.pc + 8 * BitVec.ofNat 64 (n + 1))
  else
    let l := s.loopRec n lc inc ki ks count
    set (s.putCore { s.core with loops := s.core.loops.set [] s.strmNo.code (l :: s.loopsNow) })
    xGoTo (s.pc + 8)

def execLoop (lc inc ki ks n : Nat) (s : State) : Out := runM (loopM lc inc ki ks n) s

/-- The next word of the stream is a control word; a fault in fetching it is left to its own execution. -/
def State.nextIsControl (s : State) : Bool :=
  match fetchWord 8 (s.setPc (s.pc + 8)) with
  | .ok w _ => decide (240 ≤ fld w 35 28) && (decide (fld w 35 28 ≤ 245) || decide (fld w 35 28 = 255))
  | .error _ _ => false

/-- `rep` (R138, R139). -/
def repM (src inc ki ks c : Nat) : M Unit := do
  let s ← get
  failIf (s.pastBody (s.pc.toNat + 8) || s.nextIsControl) { code := 0x01 }
  let lc := if src = 1 then c % 8 else 0
  let count := if src = 1 then s.core.lc.get 0 lc else BitVec.ofNat 64 c
  if count = 0 then xGoTo (s.pc + 16)
  else
    let l := s.loopRec 1 lc inc ki ks count
    let x := { s.core with reps := s.core.reps.set none s.strmNo.code (some l) }
    set (s.putCore x)
    modify fun s => s.setPc (s.pc + 8)

def execRep (src inc ki ks c : Nat) (s : State) : Out := runM (repM src inc ki ks c) s

/-- The clusters run on their own from their pcs (R141). -/
def Core.forkAt (c : Core) (pc : Word) (o : Nat → Nat) : Core :=
  let c := (List.range 4).foldl (fun c i =>
    let p := if i = 0 ∨ o i = 0 then pc + 8 else pc + 32 * BitVec.ofNat 64 (o i)
    c.setStrm (.xc i) { st := .running, pc := p }) c
  { c with forked := true }.setStrm .x { st := .ended, pc := pc + 8 }

/-- `forkx` (R141). -/
def forkxM (o1 o2 o3 : Nat) : M Unit := do
  let s ← get
  failIf (!s.loopsNow.isEmpty) { code := 0x01 }
  failIf s.core.forked { code := 0x0D }
  set (s.putCore (s.core.forkAt s.pc fun i => if i = 1 then o1 else if i = 2 then o2 else o3))

def execForkx (o1 o2 o3 : Nat) (s : State) : Out := runM (forkxM o1 o2 o3) s

/-- The other clusters stand at their `joinx`. -/
def Core.othersJoin (c : Core) (me : Nat) : Bool :=
  (List.range 4).all fun i => decide (i = me) || decide ((c.strmAt (.xc i)).wait = some .join)

/-- Joined mode resumes after cluster 0's `joinx` (R142). -/
def Core.joined (c : Core) : Core :=
  let p := (c.strmAt (.xc 0)).pc
  let c := (List.range 4).foldl (fun c i => c.setStrm (.xc i) {}) c
  { c with forked := false }.setStrm .x { st := .running, pc := p + 8 }

/-- `joinx` (R142): without effect in joined mode. -/
def joinxM : M Unit := do
  let s ← get
  failIf (!s.loopsNow.isEmpty) { code := 0x01 }
  if !s.core.forked then xGoTo (s.pc + 8)
  else if s.core.othersJoin s.xCluster then set (s.putCore s.core.joined)
  else stall .join

def execJoinx (s : State) : Out := runM joinxM s

/-- The condition of a wait on sync bits holds (R144). -/
def syncHolds (sb : BitVec 8) (m : Nat) (high : Bool) : Bool :=
  decide (sb &&& BitVec.ofNat 8 m = if high then BitVec.ofNat 8 m else 0)

/-- What cluster i waits for at its sync word: mask, polarity and whether it takes. -/
def Core.syncWait? (c : Core) (i : Nat) : Option (Nat × Bool × Bool) :=
  match (c.strmAt (.xc i)).st, (c.strmAt (.xc i)).wait with
  | .running, some (.sync m high take) => some (m, high, take)
  | _, _ => none

/-- The waiting clusters that pass in one clk, as the bits stood at its start (R144): every wait without `take` that holds, and
the lowest-numbered one with `take`. -/
def Core.passing (c : Core) : List Nat :=
  let holds (i : Nat) (t : Bool) : Bool :=
    match c.syncWait? i with
    | some (m, high, take) => decide (take = t) && syncHolds c.sb m high
    | none => false
  ((List.range 4).filter fun i => holds i false) ++ ((List.range 4).filter fun i => holds i true).take 1

/-- A cluster passes its wait: it goes on at the next word, and a `take` clears the masked bits. -/
def Core.passSync (c : Core) (i : Nat) : Core :=
  match c.syncWait? i with
  | some (m, _, take) =>
    { c with sb := if take then c.sb &&& ~~~ BitVec.ofNat 8 m else c.sb }.xGo (.xc i) ((c.strmAt (.xc i)).pc + 8)
  | none => c

/-- The waits of forked clusters that now hold pass, in the order of R144, up to n clk of them. -/
def Core.passSyncs (c : Core) : Nat → Core
  | 0 => c
  | n + 1 => if c.forked then (c.passing.foldl Core.passSync c).passSyncs n else c

/-- `sbset` (R143). The waits of the other clusters that it lets pass, pass (R144). -/
def sbsetM (on off : Nat) : M Unit := do
  modify fun s => s.putCore { s.core with sb := (s.core.sb &&& ~~~ BitVec.ofNat 8 off) ||| BitVec.ofNat 8 on }
  xGoTo ((← get).pc + 8)
  modify fun s => s.putCore (s.core.passSyncs 4)

def execSbset (on off : Nat) (s : State) : Out := runM (sbsetM on off) s

/-- A wait on sync bits (R144): it passes where the masked bits are as they should be; `take` clears them. Clusters that wait pass as
soon as their bits change, so none that arrives later takes a bit before them. -/
def sbwaitM (m : Nat) (high take : Bool) : M Unit := do
  let s ← get
  if !syncHolds s.core.sb m high then stall (.sync m high take)
  if take then set (s.putCore { s.core with sb := s.core.sb &&& ~~~ BitVec.ofNat 8 m })
  xGoTo (s.pc + 8)
  if take then modify fun s => s.putCore (s.core.passSyncs 4)

def execSbwaitSet (m : Nat) (s : State) : Out := runM (sbwaitM m true false) s
def execSbwaitClr (m : Nat) (s : State) : Out := runM (sbwaitM m false false) s
def execSbwaitTake (m : Nat) (s : State) : Out := runM (sbwaitM m true true) s

/-- `end` (R145): the X-stream or the cluster ends, and its loop state is discarded (R139). -/
def endXM : M Unit := modify fun s =>
  let st := s.strmNo
  let c := s.core.endStream st
  s.putCore { c with loops := c.loops.set [] st.code [], reps := c.reps.set none st.code none }

def execEndX (s : State) : Out := runM endXM s

end Sys2Proof.Machine
end

