-- ==== Sys2Proof/Machine/XLoc.lean ====
section
/-! DEFINITION. The vector slot's local scratchpad accesses (R131 to R133), `zpush` (R134) and `msig` (R293). -/

namespace Sys2Proof.Machine

/-- Bytes of a size code (R131). -/
def szBytes (sz : Nat) : Nat := if sz = 0 then 4 else if sz = 1 then 2 else 1

/-- The byte address of lane l: of its own, or contiguous from the span's base (R131). -/
def State.localAddr (s : State) (run : Bool) (z : Nat) (a b : VOp) (l : Nat) : Nat :=
  (s.opLane litRaw a l + s.opLane litRaw b l + (if run then z * (l - s.span.1) else 0)) % 2 ^ 32

/-- The first guard-true lane whose access fails decides the fault (R131). -/
def State.localFault (s : State) (g : XGuard) (z : Nat) (addr : Nat → Nat) : Option FaultInfo :=
  ((List.range s.span.2).filter fun i => s.on g (s.span.1 + i)).findSome? fun i => s.core.spadCheck (addr (s.span.1 + i)) z z

/-- The word waits for the queue heads it names. -/
def awaitHeads (ops : List VOp) : M Unit := do
  let s ← get
  popOperands ops
  set s

/-- A local load (R131, R132): elements are zero-extended. -/
def localLoad (g : XGuard) (run : Bool) (sz d : Nat) (a b : VOp) : M Unit := do
  xBounds g [d] [a, b] []
  awaitHeads [a, b]
  let s ← get
  let z := szBytes sz
  failWith (s.localFault g z (s.localAddr run z a b))
  rawOp g d [a, b] [] fun s l => if s.core.spadBad (s.localAddr run z a b l) z then 0 else leNat (s.core.sbytes (s.localAddr run z a b l) z)
  let ls := ((List.range s.span.2).map (s.span.1 + ·)).filter fun l => s.on g l && s.core.spadBad (s.localAddr run z a b l) z
  modify fun t => t.substitute t.coreNo (t.coreCtx t.coreNo) t.strmNo.code 0 (ls.map fun l => (4, s.localAddr run z a b l))

/-- A local store (R131, R132): of lanes that hit one byte the highest stays. -/
def localStore (g : XGuard) (run : Bool) (sz d : Nat) (a b : VOp) : M Unit := do
  xBounds g [d] [a, b] []
  awaitHeads [a, b]
  let s ← get
  let z := szBytes sz
  let addr := s.localAddr run z a b
  failWith (s.localFault g z addr)
  popOperands [a, b]
  let p := s.span
  modify fun t => t.putCore ((List.range p.2).foldl (fun c i =>
    let l := p.1 + i
    if s.on g l then c.putSpad (addr l) (leBytes z ((s.core.vreg d).get 0 l).toNat) else c) t.core)

def execLgth (g : XGuard) (sz d : Nat) (a b : VOp) (s : State) : Out := runM (localLoad g false sz d a b) s
def execLsct (g : XGuard) (sz d : Nat) (a b : VOp) (s : State) : Out := runM (localStore g false sz d a b) s
def execLld (g : XGuard) (sz d : Nat) (a b : VOp) (s : State) : Out := runM (localLoad g true sz d a b) s
def execLst (g : XGuard) (sz d : Nat) (a b : VOp) (s : State) : Out := runM (localStore g true sz d a b) s

/-- The 320-bit entry that ten lanes give, the first lowest (R134). -/
def entryOf (f : Nat → Nat) : BitVec 320 := BitVec.ofNat 320 (packFields 32 ((List.range 10).map f))

/-- `zpush` (R134): one entry of the span's first ten lanes; a full `qz0` stalls. -/
def zpushM (a : VOp) : M Unit := do
  xBounds noGuard [] [a] []
  awaitHeads [a]
  let s ← get
  if 16 ≤ s.core.q.qz0.length then stall (.full 8)
  popOperands [a]
  let e := entryOf fun i => s.opLane litRaw a (s.span.1 + i)
  modify fun t => t.putCore { t.core with q := { t.core.q with qz0 := t.core.q.qz0 ++ [e] } }

def execZpush (a : VOp) (s : State) : Out := runM (zpushM a) s

/-- The sign bit that `msig` takes of an FP32 lane (R293), and whether the lane is NaN. -/
def msigBit (x : Nat) : Bool := decide (fp32.val x ≠ .nan) && !x.testBit 31

/-- Lane l after `msig` (R293). -/
def State.msigLane (s : State) (a : VOp) (kb l : Nat) : Nat :=
  let b := l / 256 * 256
  let j := l - b
  if j < 8 then bitsFrom (fun i => msigBit (s.opLane litRaw a (b + 32 * j + i))) 32
  else if j = 8 then (s.kSrc (l / 256) kb).toNat % 2 ^ 32
  else if j = 9 then (s.kSrc (l / 256) kb).toNat / 2 ^ 32
  else 0

/-- `msig` (R293): every NaN lane counts invalid. -/
def msigM (d : Nat) (a : VOp) (kb : Nat) : M Unit := do
  let s ← get
  rawOp noGuard d [a] [] fun s l => s.msigLane a kb l
  let p := s.span
  let n := ((List.range p.2).filter fun i => decide (fp32.val (s.opLane litRaw a (p.1 + i)) = .nan)).length
  countM { inv := n }

/-- The k register that an operand of kind 01 names. -/
def kNo : VOp → Nat
  | .k n => n
  | _ => 0

def execMsig (d : Nat) (a b : VOp) (s : State) : Out := runM (msigM d a (kNo b)) s

end Sys2Proof.Machine
end

