-- ==== Sys2Proof/Machine/XMat.lean ====
section
/-! DEFINITION. The matrix ops of the vector slot (R153 to R161) and the events of the matrix engine (R148, R156 to R162). -/

namespace Sys2Proof.Machine

/-- Bank b of a core is held (R152). -/
def Core.bankHeld (c : Core) (b : Nat) : Bool := decide (b < 128) && c.mx.held.getLsbD b

/-- Banks b to b + n - 1 are held. -/
def Core.banksHeld (c : Core) (b n : Nat) : Bool := (List.range n).all fun i => c.bankHeld (b + i)

/-- A command enters the matrix queue; a full queue stalls the stream, and so does a follow-on that arrived before (R162). -/
def enqueue (m : MCmd) : M Unit := do
  let s ← get
  let c := s.core
  if 16 ≤ c.mx.mq.length ∨ c.mx.wait ≠ [] then stall .mqFull
  set (s.putCore { c with mx := { c.mx with mq := c.mx.mq ++ [m] } })

/-- `tld` (R157): the checks, the wait for an empty tile, and the start of the load. -/
def tldM (t ka : Nat) (kb : Option Nat) : M Unit := do
  xBounds noGuard [] [] []
  let s ← get
  let c := s.core
  let img := (s.kSrc s.xCluster ka).toNat
  let sc := kb.map fun k => (s.kSrc s.xCluster k).toNat
  failWith (c.spadCheck img 8192 128)
  match sc with
  | some a => failWith (c.spadCheck a 1024 128)
  | none => pure ()
  if c.mx.tileSt t ≠ .empty then stall (.tile t false)
  let m := c.mx
  let area (k : Nat) : Byte :=
    match sc with
    | some a => c.spadByte (a + (k - 1024 * t))
    | none => 0
  let m := { m with
    tile := m.tile.splice 0 (8192 * t) 8192 fun k => c.spadByte (img + (k - 8192 * t))
    tileBad := m.tileBad.splice 0 (8192 * t) 8192 fun k => c.tldMark (img + (k - 8192 * t)) }
  let m := { m with
    tsc := m.tsc.splice 0 (1024 * t) 1024 area
    tscBad := m.tscBad.splice 0 (1024 * t) 1024 fun k =>
      match sc with
      | some a => c.tldMark (a + (k - 1024 * t))
      | none => 0 }
  set (s.putCore { c with mx := m.setTile t (.loading img sc) })

/-- The k register of an operand that may be unused. -/
def kOpt : VOp → Option Nat
  | .k n => some n
  | _ => none

def execTld (t : Nat) (a b : VOp) (s : State) : Out := runM (tldM t (kNo a) (kOpt b)) s

/-- `tfree` (R158). -/
def execTfree (t : Nat) (s : State) : Out := runM (enqueue (.tfree t)) s

/-- An MMA issued by X (R155): operation 0 `mma`, 1 `mma.ts`, 2 `mma.mx`. -/
def mmaM (op fmt h t ka kb : Nat) : M Unit := do
  let s ← get
  let c := s.core
  failIf (s.noNarrow op fmt) { code := 0x01 }
  failIf c.forked { code := 0x0D }
  let b := (s.kSrc 0 ka).toNat
  failIf (decide (112 < b) || !c.banksHeld b 16) { code := 0x05 }
  let w := (s.kSrc 0 kb).toNat
  failIf (decide (32767 < w)) { code := 0x05 }
  if c.mx.tileSt t ≠ .full then stall (.tile t true)
  enqueue (.mma op fmt h t b w false 0)

def execMma (fmt h t : Nat) (a b : VOp) (s : State) : Out := runM (mmaM 0 fmt h t (kNo a) (kNo b)) s
def execMmaTs (t : Nat) (a b : VOp) (s : State) : Out := runM (mmaM 1 0x18 0 t (kNo a) (kNo b)) s
def execMmaMx (fmt h t : Nat) (a b : VOp) (s : State) : Out := runM (mmaM 2 fmt h t (kNo a) (kNo b)) s

/-- `accrd` (R159): it enters the queue, and its stream waits until the register is written. -/
def accrdM (rm fmt d ka : Nat) : M Unit := do
  xBounds noGuard [d] [] []
  let s ← get
  let c := s.core
  let b := (s.kSrc s.xCluster ka).toNat
  failIf (decide (126 < b) || !c.banksHeld b 2) { code := 0x05 }
  let cl := match s.strmNo with
    | .xc i => i + 1
    | _ => 0
  enqueue (.accrd rm fmt d b cl)

def execAccrd (rm fmt d : Nat) (a : VOp) (s : State) : Out := runM (accrdM rm fmt d (kNo a)) s

/-- `acczero` (R160). -/
def acczeroM (ka n : Nat) : M Unit := do
  let s ← get
  let b := (s.kSrc s.xCluster ka).toNat
  failIf (decide (128 < b + n) || !s.core.banksHeld b n) { code := 0x05 }
  enqueue (.acczero b n)

def execAcczero (a : VOp) (n : Nat) (s : State) : Out := runM (acczeroM (kNo a) n) s

/-- The mask of banks b to b + n - 1. -/
def bankMask (b n : Nat) : BitVec 128 := BitVec.ofNat 128 ((2 ^ n - 1) * 2 ^ b)

/-- The first run of n free banks that starts at a multiple of n (R161). -/
def Core.freeRun (c : Core) (n : Nat) : Option Nat :=
  ((List.range (128 / n)).map (n * ·)).find? fun b => (List.range n).all fun i => !c.bankHeld (b + i)

/-- `balloc` (R161): every copy of the executing clusters receives the bank, or all ones. -/
def ballocM (d n : Nat) : M Unit := do
  let s ← get
  let c := s.core
  failIf (decide ((c.task.getD {}).naccb < c.mx.heldCount + n)) { code := 0x03, det := 2 }
  let w : Word := match c.freeRun n with | some b => BitVec.ofNat 64 b | none => BitVec.allOnes 64
  let held := match c.freeRun n with | some b => c.mx.held ||| bankMask b n | none => c.mx.held
  let c := { c with mx := { c.mx with held := held } }
  let c := c.putK (clustersOf s.strmNo) d w
  let latch := s.latch.map fun (l : Latch) => { l with kd := some d }
  set ({ s with latch := latch }.putCore c)

def execBalloc (d n : Nat) (s : State) : Out := runM (ballocM d n) s

/-- `bfree` (R161): a bank that does not exist or is not held raises 0x05. -/
def bfreeM (ka n : Nat) : M Unit := do
  let s ← get
  let c := s.core
  let b := (s.kSrc s.xCluster ka).toNat
  failIf (decide (128 < b + n) || !c.banksHeld b n) { code := 0x05 }
  set (s.putCore { c with mx := { c.mx with held := c.mx.held &&& ~~~ bankMask b n } })

def execBfree (a : VOp) (n : Nat) (s : State) : Out := runM (bfreeM (kNo a) n) s

/-- A core's event while it is not frozen. -/
def coreEvent (core : Nat) (m : M Unit) : M Unit := do
  let c := (← get).coreAt core
  if c.task.isSome && c.frozen.isNone then m

/-- The head of a core's matrix queue takes effect, and follow-ons that have arrived enter behind the commands left (R162). -/
def headM (core want : Nat) : M Unit := coreEvent core do
  modify fun s => s.mqHead core want
  enterAll core

/-- TILE_FULL (R148, R157): the last byte of a `tld` lands. -/
def execTileFull (core t : Nat) (s : State) : Out := runLive (landTile core t) s

/-- MMA_EXECUTION (R156): the MMA at the head of the queue, its tile full. -/
def execMmaExecution (core : Nat) (s : State) : Out := runLive (headM core 0) s

/-- TFREE_EFFECT (R158): the `tfree` at the head of the queue. -/
def execTfreeEffect (core : Nat) (s : State) : Out := runLive (headM core 1) s

/-- ACCRD_EXECUTION (R159): the `accrd` at the head of the queue. -/
def execAccrdExecution (core : Nat) (s : State) : Out := runLive (headM core 2) s

/-- ACCZERO_EXECUTION (R160): the `acczero` at the head of the queue. -/
def execAcczeroExecution (core : Nat) (s : State) : Out := runLive (headM core 3) s

end Sys2Proof.Machine
end

