-- ==== Sys2Proof/Machine/XScal.lean ====
section
/-! DEFINITION. The scalar slot of a pair word (R103 to R107). A meaning does not move the pc: the pair word does. -/

namespace Sys2Proof.Machine

/-- A scalar-slot op (R103, R107): the value from the acting cluster's copies goes to the copies that the guard lets it
write, and its events count where it writes one. -/
def kOp (g : XGuard) (d : Nat) (f : (Nat → Word) → Word × Evs) : M Unit := do
  xBounds g [] [] []
  let s ← get
  let r := f (s.kSrc s.xCluster)
  writeK (s.kClusters g) d r.1
  if !(s.kClusters g).isEmpty then countM r.2

/-- An op of two registers without events (R104). -/
def kRR (g : XGuard) (d a b : Nat) (f : Word → Word → Word) : M Unit := kOp g d fun k => (f (k a) (k b), {})

/-- An op of one register without events (R104). -/
def kR (g : XGuard) (d a : Nat) (f : Word → Word) : M Unit := kOp g d fun k => (f (k a), {})

/-- `knop` (R52): its guard's bound is checked. -/
def execKnop (g : XGuard) (s : State) : Out := runM (xBounds g [] [] []) s

def execKadd (g : XGuard) (d a b : Nat) (s : State) : Out := runM (kRR g d a b (· + ·)) s
def execKaddi (g : XGuard) (d a n : Nat) (s : State) : Out := runM (kR g d a (· + sext 5 n)) s
def execKsub (g : XGuard) (d a b : Nat) (s : State) : Out := runM (kRR g d a b (· - ·)) s
def execKand (g : XGuard) (d a b : Nat) (s : State) : Out := runM (kRR g d a b (· &&& ·)) s
def execKor (g : XGuard) (d a b : Nat) (s : State) : Out := runM (kRR g d a b (· ||| ·)) s
def execKxor (g : XGuard) (d a b : Nat) (s : State) : Out := runM (kRR g d a b (· ^^^ ·)) s
def execKsll (g : XGuard) (d a b : Nat) (s : State) : Out := runM (kRR g d a b fun x y => x <<< cnt6 y) s
def execKslli (g : XGuard) (d a n : Nat) (s : State) : Out := runM (kR g d a (· <<< n)) s
def execKsrl (g : XGuard) (d a b : Nat) (s : State) : Out := runM (kRR g d a b fun x y => x >>> cnt6 y) s
def execKsrli (g : XGuard) (d a n : Nat) (s : State) : Out := runM (kR g d a (· >>> n)) s
def execKsra (g : XGuard) (d a b : Nat) (s : State) : Out := runM (kRR g d a b fun x y => x.sshiftRight (cnt6 y)) s
def execKsrai (g : XGuard) (d a n : Nat) (s : State) : Out := runM (kR g d a (·.sshiftRight n)) s
def execKmul (g : XGuard) (d a b : Nat) (s : State) : Out := runM (kRR g d a b (· * ·)) s
def execKmin (g : XGuard) (d a b : Nat) (s : State) : Out := runM (kRR g d a b minS) s
def execKmax (g : XGuard) (d a b : Nat) (s : State) : Out := runM (kRR g d a b maxS) s
def execKminu (g : XGuard) (d a b : Nat) (s : State) : Out := runM (kRR g d a b minU) s
def execKmaxu (g : XGuard) (d a b : Nat) (s : State) : Out := runM (kRR g d a b maxU) s
def execKslt (g : XGuard) (d a b : Nat) (s : State) : Out := runM (kRR g d a b fun x y => flag (x.slt y)) s
def execKsltu (g : XGuard) (d a b : Nat) (s : State) : Out := runM (kRR g d a b fun x y => flag (x.ult y)) s
/-- `kli`: the 10-bit literal is sign-extended. -/
def execKli (g : XGuard) (d n : Nat) (s : State) : Out := runM (kOp g d fun _ => (sext 10 n, {})) s
/-- `klsh`: reads the register it writes. -/
def execKlsh (g : XGuard) (d n : Nat) (s : State) : Out := runM (kR g d d fun x => x <<< 10 ||| BitVec.ofNat 64 n) s
/-- `kbfx`: sixteen bits from bit B[5:0] on. -/
def execKbfx (g : XGuard) (d a b : Nat) (s : State) : Out :=
  runM (kRR g d a b fun x y => BitVec.ofNat 64 (bitsOf x (cnt6 y) 16)) s

/-- `kpop` (R105): pops whatever the guard. In joined mode with heads that differ after a forked phase, every copy receives the entry
at cluster 0's head: the model's choice of "the same entry" (log entry 101). -/
def kpopM (g : XGuard) (d q : Nat) : M Unit := do
  xBounds g [] [] []
  let s ← get
  let cs := clustersOf s.strmNo
  let l := s.core.q.qs.get [] q
  let at_ (c : Nat) : Nat := s.core.q.hs.get 0 (4 * q + c)
  if cs.any fun c => decide (l.length ≤ at_ c) then stall (.empty (4 + q))
  set (s.putCore (s.core.popS q cs))
  writeK (s.kClusters g) d (l.getD (at_ s.xCluster) 0)

def execKpop (g : XGuard) (d q : Nat) (s : State) : Out := runM (kpopM g d q) s

/-- `kpush` (R105): a full queue stalls whether or not the push is then made. -/
def kpushM (g : XGuard) (a q : Nat) : M Unit := do
  xBounds g [] [] []
  let s ← get
  let l := s.core.q.qx.get [] q
  if 16 ≤ l.length then stall (.full (6 + q))
  if s.on g (256 * s.xCluster) then
    set (s.putCore { s.core with q := { s.core.q with qx := s.core.q.qx.set [] q (l ++ [s.kSrc s.xCluster a]) } })

def execKpush (g : XGuard) (a q : Nat) (s : State) : Out := runM (kpushM g a q) s

/-- `kcpg` (R105). -/
def kcpgM (g : XGuard) (n : Nat) : M Unit := do
  xBounds g [] [] []
  modify fun s => s.putCore { s.core with cpg := (s.kClusters g).foldl (fun m c => m.set 0 c n) s.core.cpg }

def execKcpg (g : XGuard) (n : Nat) (s : State) : Out := runM (kcpgM g n) s

/-- An FP32 op of the scalar slot (R106): bits 31:0 of the sources, bits 63:32 of the result zero. -/
def kFp (g : XGuard) (d a b : Nat) (f : Nat → Nat → Res) : M Unit :=
  kOp g d fun k =>
    let r := f ((k a).toNat % 2 ^ 32) ((k b).toNat % 2 ^ 32)
    (BitVec.ofNat 64 r.bits, r.evs)

def execKfadd (g : XGuard) (d a b : Nat) (s : State) : Out := runM (kFp g d a b (fAdd fp32 0 0)) s
def execKfmul (g : XGuard) (d a b : Nat) (s : State) : Out := runM (kFp g d a b (fMul fp32 0 0)) s
def execKfmax (g : XGuard) (d a b : Nat) (s : State) : Out := runM (kFp g d a b fun x y => ⟨minMax fp32 true x y, {}, false⟩) s

end Sys2Proof.Machine
end

