-- ==== Sys2Proof/Machine/XVec.lean ====
section
/-! DEFINITION. The vector slot: FP32, packed and integer arithmetic, compares, predicates, conversions, reductions,
cross-lane moves and bit fields (R111 to R130). A meaning does not move the pc: the pair word does. -/

namespace Sys2Proof.Machine

/-- `vnop` (R53): its guard's bound is checked. -/
def execVnop (g : XGuard) (s : State) : Out := runM (xBounds g [] [] []) s

/-- An FP32 op of two operands that rounds (R112). -/
def fp2 (g : XGuard) (rm d : Nat) (a b : VOp) (f : Nat → Nat → Nat → Nat → Res) : M Unit :=
  laneOp g d [a, b] [] fun s l =>
    laneOf rm (s.core.gen l) fun w => f rm w (s.opLane litFp a l) (s.opLane litFp b l)

/-- A fused FP32 op, which also reads its destination (R112). -/
def fp3 (g : XGuard) (np nd : Bool) (rm d : Nat) (a b : VOp) : M Unit :=
  laneOp g d [a, b] [] fun s l =>
    laneOf rm (s.core.gen l) fun w => fFma fp32 np nd rm w ((s.core.vreg d).get 0 l).toNat (s.opLane litFp a l) (s.opLane litFp b l)

/-- An FP32 op of one operand that rounds (R114). -/
def fp1 (g : XGuard) (rm d : Nat) (a : VOp) (f : Nat → Nat → Nat → Res) : M Unit :=
  laneOp g d [a] [] fun s l => laneOf rm (s.core.gen l) fun w => f rm w (s.opLane litFp a l)

def execFadd (g : XGuard) (rm d : Nat) (a b : VOp) (s : State) : Out := runM (fp2 g rm d a b (fAdd fp32)) s
def execFsub (g : XGuard) (rm d : Nat) (a b : VOp) (s : State) : Out := runM (fp2 g rm d a b (fSub fp32)) s
def execFmul (g : XGuard) (rm d : Nat) (a b : VOp) (s : State) : Out := runM (fp2 g rm d a b (fMul fp32)) s
/-- d + a × b. -/
def execFma (g : XGuard) (rm d : Nat) (a b : VOp) (s : State) : Out := runM (fp3 g false false rm d a b) s
/-- d - a × b. -/
def execFms (g : XGuard) (rm d : Nat) (a b : VOp) (s : State) : Out := runM (fp3 g true false rm d a b) s
/-- a × b - d. -/
def execFnma (g : XGuard) (rm d : Nat) (a b : VOp) (s : State) : Out := runM (fp3 g false true rm d a b) s

/-- An FP32 op that rounds nothing and counts nothing (R113). -/
def fpRaw2 (g : XGuard) (d : Nat) (a b : VOp) (f : Nat → Nat → Nat) : M Unit :=
  rawOp g d [a, b] [] fun s l => f (s.opLane litFp a l) (s.opLane litFp b l)

def fpRaw1 (g : XGuard) (d : Nat) (a : VOp) (f : Nat → Nat) : M Unit := rawOp g d [a] [] fun s l => f (s.opLane litFp a l)

def execFmin (g : XGuard) (d : Nat) (a b : VOp) (s : State) : Out := runM (fpRaw2 g d a b (minMax fp32 false)) s
def execFmax (g : XGuard) (d : Nat) (a b : VOp) (s : State) : Out := runM (fpRaw2 g d a b (minMax fp32 true)) s
/-- Bit 31 cleared, on every pattern. -/
def execFabs (g : XGuard) (d : Nat) (a : VOp) (s : State) : Out := runM (fpRaw1 g d a fun x => x % 2 ^ 31) s
/-- Bit 31 inverted, on every pattern. -/
def execFneg (g : XGuard) (d : Nat) (a : VOp) (s : State) : Out := runM (fpRaw1 g d a fun x => x ^^^ 2 ^ 31) s

def execRcp (g : XGuard) (rm d : Nat) (a : VOp) (s : State) : Out := runM (fp1 g rm d a fRcp) s
def execRsqrt (g : XGuard) (rm d : Nat) (a : VOp) (s : State) : Out := runM (fp1 g rm d a fRsqrt) s
def execExp2 (g : XGuard) (rm d : Nat) (a : VOp) (s : State) : Out := runM (fp1 g rm d a fExp2) s
def execLog2 (g : XGuard) (rm d : Nat) (a : VOp) (s : State) : Out := runM (fp1 g rm d a fLog2) s

/-- The packed format of a code (R115). -/
def halfFmt (f : Nat) : FFmt := if f = 0 then bf16 else fp16

/-- A packed 16-bit op (R115): the element function takes rm, the draw, and the d, a and b elements. -/
def half2 (g : XGuard) (f rm d : Nat) (a b : VOp) (e : FFmt → Nat → Nat → Nat → Nat → Nat → Res) : M Unit :=
  laneOp g d [a, b] [] fun s l =>
    let lit := litHalf (halfFmt f)
    lane2 rm (s.core.gen l) (e (halfFmt f) rm) ((s.core.vreg d).get 0 l).toNat (s.opLane lit a l) (s.opLane lit b l)

def execHadd (g : XGuard) (f rm d : Nat) (a b : VOp) (s : State) : Out :=
  runM (half2 g f rm d a b fun F rm w _ x y => fAdd F rm w x y) s
def execHsub (g : XGuard) (f rm d : Nat) (a b : VOp) (s : State) : Out :=
  runM (half2 g f rm d a b fun F rm w _ x y => fSub F rm w x y) s
def execHmul (g : XGuard) (f rm d : Nat) (a b : VOp) (s : State) : Out :=
  runM (half2 g f rm d a b fun F rm w _ x y => fMul F rm w x y) s
def execHfma (g : XGuard) (f rm d : Nat) (a b : VOp) (s : State) : Out :=
  runM (half2 g f rm d a b fun F rm w z x y => fFma F false false rm w z x y) s
def execHmin (g : XGuard) (f d : Nat) (a b : VOp) (s : State) : Out :=
  runM (half2 g f 0 d a b fun F _ _ _ x y => ⟨minMax F false x y, {}, false⟩) s
def execHmax (g : XGuard) (f d : Nat) (a b : VOp) (s : State) : Out :=
  runM (half2 g f 0 d a b fun F _ _ _ x y => ⟨minMax F true x y, {}, false⟩) s

/-- A packed integer op of Table 5.3 (R116). -/
def int2 (g : XGuard) (iw d : Nat) (a b : VOp) (f : Nat → Nat → Nat → Nat × Nat) : M Unit :=
  laneOp g d [a, b] [] fun s l =>
    let lit := litPacked (iwBits iw)
    intLane iw f (s.core.gen l) (s.opLane lit a l) (s.opLane lit b l)

def execIadd (g : XGuard) (iw d : Nat) (a b : VOp) (s : State) : Out := runM (int2 g iw d a b elAdd) s
def execIsub (g : XGuard) (iw d : Nat) (a b : VOp) (s : State) : Out := runM (int2 g iw d a b elSub) s
def execImul (g : XGuard) (iw d : Nat) (a b : VOp) (s : State) : Out := runM (int2 g iw d a b elMul) s
def execImulh (g : XGuard) (iw d : Nat) (a b : VOp) (s : State) : Out := runM (int2 g iw d a b elMulh) s
def execImulhu (g : XGuard) (iw d : Nat) (a b : VOp) (s : State) : Out := runM (int2 g iw d a b elMulhu) s
def execIand (g : XGuard) (iw d : Nat) (a b : VOp) (s : State) : Out := runM (int2 g iw d a b elAnd) s
def execIor (g : XGuard) (iw d : Nat) (a b : VOp) (s : State) : Out := runM (int2 g iw d a b elOr) s
def execIxor (g : XGuard) (iw d : Nat) (a b : VOp) (s : State) : Out := runM (int2 g iw d a b elXor) s
def execIandn (g : XGuard) (iw d : Nat) (a b : VOp) (s : State) : Out := runM (int2 g iw d a b elAndn) s
def execIsll (g : XGuard) (iw d : Nat) (a b : VOp) (s : State) : Out := runM (int2 g iw d a b elSll) s
def execIsrl (g : XGuard) (iw d : Nat) (a b : VOp) (s : State) : Out := runM (int2 g iw d a b elSrl) s
def execIsra (g : XGuard) (iw d : Nat) (a b : VOp) (s : State) : Out := runM (int2 g iw d a b elSra) s
def execImin (g : XGuard) (iw d : Nat) (a b : VOp) (s : State) : Out := runM (int2 g iw d a b elMin) s
def execImax (g : XGuard) (iw d : Nat) (a b : VOp) (s : State) : Out := runM (int2 g iw d a b elMax) s
def execIminu (g : XGuard) (iw d : Nat) (a b : VOp) (s : State) : Out := runM (int2 g iw d a b elMinu) s
def execImaxu (g : XGuard) (iw d : Nat) (a b : VOp) (s : State) : Out := runM (int2 g iw d a b elMaxu) s
def execIadds (g : XGuard) (iw d : Nat) (a b : VOp) (s : State) : Out := runM (int2 g iw d a b elAdds) s
def execIaddus (g : XGuard) (iw d : Nat) (a b : VOp) (s : State) : Out := runM (int2 g iw d a b elAddus) s
def execIsubs (g : XGuard) (iw d : Nat) (a b : VOp) (s : State) : Out := runM (int2 g iw d a b elSubs) s
def execIsubus (g : XGuard) (iw d : Nat) (a b : VOp) (s : State) : Out := runM (int2 g iw d a b elSubus) s
/-- `iabs`: b is unused. -/
def execIabs (g : XGuard) (iw d : Nat) (a : VOp) (s : State) : Out := runM (int2 g iw d a (.lit 0) elAbs) s

/-- `fcmp` (R117). -/
def execFcmp (g : XGuard) (cc pd : Nat) (a b : VOp) (s : State) : Out :=
  runM (predOp g pd [a, b] [] fun s l => fCompare cc (s.opLane litFp a l) (s.opLane litFp b l)) s

/-- `icmp` (R118). -/
def execIcmp (g : XGuard) (cc pd : Nat) (a b : VOp) (s : State) : Out :=
  runM (predOp g pd [a, b] [] fun s l => iCompare cc (s.opLane litRaw a l) (s.opLane litRaw b l)) s

/-- P[n][l]. -/
def Core.pLane (c : Core) (n l : Nat) : Bool := (c.p.get 0 n).getLsbD l

/-- `sel` (R119): raw bits. -/
def execSel (g : XGuard) (p d : Nat) (a b : VOp) (s : State) : Out :=
  runM (rawOp g d [a, b] [p] fun s l => if s.core.pLane p l then s.opLane litRaw a l else s.opLane litRaw b l) s

/-- A predicate op of two predicates (R120). -/
def pred2 (g : XGuard) (pd pa pb : Nat) (f : Bool → Bool → Bool) : M Unit :=
  predOp g pd [] [pa, pb] fun s l => f (s.core.pLane pa l) (s.core.pLane pb l)

def execPand (g : XGuard) (pd pa pb : Nat) (s : State) : Out := runM (pred2 g pd pa pb fun x y => x && y) s
def execPor (g : XGuard) (pd pa pb : Nat) (s : State) : Out := runM (pred2 g pd pa pb fun x y => x || y) s
def execPxor (g : XGuard) (pd pa pb : Nat) (s : State) : Out := runM (pred2 g pd pa pb fun x y => x != y) s
def execPandn (g : XGuard) (pd pa pb : Nat) (s : State) : Out := runM (pred2 g pd pa pb fun x y => x && !y) s
def execPorn (g : XGuard) (pd pa pb : Nat) (s : State) : Out := runM (pred2 g pd pa pb fun x y => x || !y) s
def execPnot (g : XGuard) (pd pa : Nat) (s : State) : Out := runM (predOp g pd [] [pa] fun s l => !s.core.pLane pa l) s
def execPset (g : XGuard) (pd : Nat) (s : State) : Out := runM (predOp g pd [] [] fun _ _ => true) s
def execPclr (g : XGuard) (pd : Nat) (s : State) : Out := runM (predOp g pd [] [] fun _ _ => false) s

/-- A format by its code, FP32 where the code names none. -/
def fmtOf (code : Nat) : EFmt := (elemFmt code).getD (.flt fp32)

/-- `cvt` from FP32 (R121, R122). -/
def execCvt (g : XGuard) (rm fmt d : Nat) (a : VOp) (s : State) : Out :=
  runM (laneOp g d [a] [] fun s l =>
    cvtLane (.flt fp32) (fmtOf fmt) s.core.e4nan rm (s.core.gen l) (s.opLane litFp a l)) s

/-- `cvt` to FP32 (R121, R122): a literal is raw where the source is not FP32 (R110). -/
def execCvtF32 (g : XGuard) (rm fmt d : Nat) (a : VOp) (s : State) : Out :=
  runM (laneOp g d [a] [] fun s l =>
    cvtLane (fmtOf fmt) (.flt fp32) s.core.e4nan rm (s.core.gen l) (s.opLane (if fmt = 8 then litFp else litRaw) a l)) s

/-- The flushed values of the group of n lanes that holds lane l, guard-false lanes as +0 (R123, R125). -/
def State.group (s : State) (g : XGuard) (a : VOp) (n l : Nat) : List Val :=
  (List.range n).map fun i =>
    let j := l / n * n + i
    (quantIn (s.opLane litFp a j) (s.on g j)).1

/-- A quantise op (R123, R125): groups of n lanes, the scale of a group, and the element under a scale. -/
def quantOp (g : XGuard) (rm d : Nat) (a : VOp) (sd n : Nat) (scale : List Val → Nat)
    (elem : Nat → Bool → Nat → Val → Res) : M Unit := do
  xBounds g [d, sd] [a] []
  let s ← get
  popOperands [a]
  let b := s.span
  let on := s.on g
  let sc (l : Nat) : Nat := scale (s.group g a n l)
  let res (l : Nat) : LaneRes :=
    let v := quantIn (s.opLane litFp a l) true
    let r := elem (sc l) s.core.e4nan (drawOf (s.core.gen l)) v.1
    ⟨r.bits, genAfter rm r (s.core.gen l), v.2.add r.evs⟩
  modify fun t => t.putCore
    (((t.core.putLanes d b.1 b.2 on fun l => (res l).val).putLanes sd b.1 b.2 on sc).putGens b.1 b.2 on fun l => (res l).gen)
  countM (sumEvs (((List.range b.2).filter fun i => on (b.1 + i)).map fun i => (res (b.1 + i)).evs))

/-- `mxq` (R123, R74). -/
def execMxq (g : XGuard) (rm fmt d : Nat) (a : VOp) (sd : Nat) (s : State) : Out :=
  runM (quantOp g rm d a sd 32 (mxScale fmt) fun sc nan w v => mxElement fmt sc (.flt fp32) nan rm w v) s

/-- `mxdq` (R124). -/
def execMxdq (g : XGuard) (fmt d : Nat) (a b : VOp) (s : State) : Out :=
  runM (laneOp g d [a, b] [] fun s l => mxdqLane fmt (s.core.gen l) (s.opLane litRaw a l) (s.opLane litRaw b l)) s

/-- `tsq.tsf8a` (R125, R75). -/
def execTsqTsf8a (g : XGuard) (rm d : Nat) (a : VOp) (sd : Nat) (s : State) : Out :=
  runM (quantOp g rm d a sd 128 tsScale fun sc nan w v => tsElement sc (.flt fp32) nan rm w v) s

/-- `tsq.tsf8w` (R125). -/
def execTsqTsf8w (g : XGuard) (rm d : Nat) (a b : VOp) (s : State) : Out :=
  runM (laneOp g d [a, b] [] fun s l =>
    tsqwLane s.core.e4nan rm (s.core.gen l) (s.opLane litFp a l) (s.opLane litFp b l)) s

/-- `tsdq` (R126): both format codes have one effect. -/
def execTsdq (g : XGuard) (_fmt d : Nat) (a b : VOp) (s : State) : Out :=
  runM (laneOp g d [a, b] [] fun s l => tsdqLane (s.core.gen l) (s.opLane litRaw a l) (s.opLane litFp b l)) s

/-- The reduction over the n lanes from b, with its events (R85, R128). -/
def State.reduce (s : State) (g : XGuard) (kind rm : Nat) (a : VOp) (b n : Nat) : Nat × Evs :=
  treeRed (redNode kind rm) n.log2
    ((List.range n).map fun i => if s.on g (b + i) then s.opLane litRaw a (b + i) else redIdentity kind) {}

/-- A reduction (R127, R128): of each cluster, or of the four together, which is a fault 0x0D in forked mode where its guard is true
in some lane (R50). -/
def redOp (g : XGuard) (kind rm all d : Nat) (a : VOp) : M Unit := do
  xBounds g [d] [a] []
  let s ← get
  failIf (decide (all = 1) && s.core.forked && s.someOn g) { code := 0x0D }
  popOperands [a]
  let b := s.span
  let n := if all = 1 then 1024 else 256
  let r (k : Nat) : Nat × Evs := s.reduce g kind rm a (n * k) n
  modify fun t => t.putCore (t.core.putLanes d b.1 b.2 (s.on g) fun l => (r (l / n)).1)
  countM (sumEvs ((List.range (b.2 / n)).map fun i => (r (b.1 / n + i)).2))

def execFredsum (g : XGuard) (rm all d : Nat) (a : VOp) (s : State) : Out := runM (redOp g 0 rm all d a) s
def execFredmax (g : XGuard) (all d : Nat) (a : VOp) (s : State) : Out := runM (redOp g 1 0 all d a) s
def execFredmin (g : XGuard) (all d : Nat) (a : VOp) (s : State) : Out := runM (redOp g 2 0 all d a) s
def execIredsum (g : XGuard) (all d : Nat) (a : VOp) (s : State) : Out := runM (redOp g 3 0 all d a) s
def execIredmax (g : XGuard) (all d : Nat) (a : VOp) (s : State) : Out := runM (redOp g 4 0 all d a) s
def execIredmin (g : XGuard) (all d : Nat) (a : VOp) (s : State) : Out := runM (redOp g 5 0 all d a) s
def execIredmaxu (g : XGuard) (all d : Nat) (a : VOp) (s : State) : Out := runM (redOp g 6 0 all d a) s
def execIredminu (g : XGuard) (all d : Nat) (a : VOp) (s : State) : Out := runM (redOp g 7 0 all d a) s

/-- A cross-lane op (R129): source lanes are read whatever their guards. -/
def crossOp (g : XGuard) (op d : Nat) (a b : VOp) : M Unit :=
  rawOp g d [a, b] [] fun s l =>
    let p := s.span
    crossLane op p.2 (l - p.1) (s.opLane litRaw b l) (fun j => s.opLane litRaw a (p.1 + j)) (fun j => s.opLane litRaw b (p.1 + j))

def execVperm (g : XGuard) (d : Nat) (a b : VOp) (s : State) : Out := runM (crossOp g 0 d a b) s
def execVbcast (g : XGuard) (d : Nat) (a b : VOp) (s : State) : Out := runM (crossOp g 1 d a b) s
def execVrot (g : XGuard) (d : Nat) (a b : VOp) (s : State) : Out := runM (crossOp g 2 d a b) s
def execVshl (g : XGuard) (d : Nat) (a b : VOp) (s : State) : Out := runM (crossOp g 3 d a b) s
def execVshr (g : XGuard) (d : Nat) (a b : VOp) (s : State) : Out := runM (crossOp g 4 d a b) s
def execVzip (g : XGuard) (d : Nat) (a b : VOp) (s : State) : Out := runM (crossOp g 5 d a b) s
def execVunzip (g : XGuard) (d : Nat) (a b : VOp) (s : State) : Out := runM (crossOp g 6 d a b) s

/-- `vcomp` (R129). -/
def execVcomp (g : XGuard) (d : Nat) (a : VOp) (p : Nat) (s : State) : Out :=
  runM (rawOp g d [a] [p] fun s l =>
    let b := s.span
    match (setPositions b.2 fun j => s.core.pLane p (b.1 + j))[l - b.1]? with
    | some j => s.opLane litRaw a (b.1 + j)
    | none => 0) s

/-- A bit-field op (R130). -/
def bitOp (g : XGuard) (d : Nat) (a b : VOp) (f : Nat → Nat → Nat) : M Unit :=
  rawOp g d [a, b] [] fun s l => f (s.opLane litRaw a l) (s.opLane litRaw b l)

def execVbfx (g : XGuard) (st d : Nat) (a b : VOp) (s : State) : Out := runM (bitOp g d a b (vbfxVal st)) s
def execVbfxS (g : XGuard) (st d : Nat) (a b : VOp) (s : State) : Out := runM (bitOp g d a b (vbfxsVal st)) s
def execVfsh (g : XGuard) (st d : Nat) (a b : VOp) (s : State) : Out := runM (bitOp g d a b (vfshVal st)) s

end Sys2Proof.Machine
end

