-- ==== Sys2Proof/Machine/ZOps.lean ====
section
/-! DEFINITION. What the Z-stream's instructions share: `y` registers, the active region of an array (R173, R174), tags
(R174), fields of rows and of `zk`, and the reading of rows with uncorrectable errors (R195). -/

namespace Sys2Proof.Machine

/-- Y[n] (R187). -/
def State.rdY (s : State) (n : Nat) : Lane := s.core.z.y.get 0 n

/-- The Z state of the acting core changed. -/
def State.updZ (s : State) (f : ZState → ZState) : State := s.putCore { s.core with z := f s.core.z }

/-- Y[n] := v. -/
def State.wrY (s : State) (n : Nat) (v : Lane) : State :=
  s.putCore ({ s.core with z := { s.core.z with y := s.core.z.y.set 0 n v } }.fresh [96 + n])

/-- ZK[c+w-1:c]. -/
def State.zkField (s : State) (c w : Nat) : Nat := s.core.z.zk.toNat / 2 ^ c % 2 ^ w

/-- The active region of array a (R174): its handle and its table entry; 0x15 where there is none any more. A `zins` or `zdel` that waits for
an acknowledgement is looked at again here each time that its stream acts, so a release of its region in the meantime gives it 0x15 too:
the model's choice (log entry 112), for R171 speaks of the next instruction. -/
def zArray (a : Nat) : M (Nat × Region) := do
  let s ← get
  let h := s.core.z.act.get 0 a
  match if h = 0 then none else s.core.regionOf? s.coreNo (s.coreCtx s.coreNo) h with
  | some r => pure (h, r)
  | none => fail { code := 0x15, det := h }

/-- TG[a][t][r]. -/
def ZState.tag (z : ZState) (a t r : Nat) : Bool := (z.tags.get 0 (8 * a + t)).getLsbD r

/-- TG[a][t] of a region of n rows := f. -/
def ZState.setTag (z : ZState) (a t n : Nat) (f : Nat → Bool) : ZState :=
  { z with tags := z.tags.set 0 (8 * a + t) (BitVec.ofNat 8192 (packFields 1 ((List.range n).map fun r => if f r then 1 else 0))) }

/-- The tagged rows of a region in ascending order. -/
def ZState.rowsOf (z : ZState) (a t n : Nat) : List Nat := (List.range n).filter fun i => z.tag a t i

/-- Row i of a region. -/
def Core.rrow (c : Core) (r : Region) (i : Nat) : Row := c.row (r.base + i)

/-- The rows of a region changed, row by row. -/
def Core.mapRows (c : Core) (r : Region) (f : Nat → Row → Row) : Core :=
  { c with rows := c.rows.splice 0 r.base r.rows fun k => f (k - r.base) (c.row k) }

/-- The instruction writes the n columns from c of the rows of a region that the test names: each 40-bit word that it writes whole has fresh
check bits, and the mark of an error leaves it; a word written in part keeps its mark (R195; log entry 111). -/
def Core.wordsWritten (x : Core) (r : Region) (on : Nat → Bool) (c n : Nat) : Core :=
  { x with badRow := x.badRow.filter fun m =>
      !(decide (r.base ≤ m.1 / 8 ∧ m.1 / 8 < r.base + r.rows ∧ c ≤ 40 * (m.1 % 8) ∧ 40 * (m.1 % 8) + 40 ≤ c + n) && on (m.1 / 8 - r.base)) }

/-- Word j of row k of the acting core's arrays is read: with an uncorrectable error it reads as zero, is rewritten as
zero, and counts (R195). -/
def readWord (k j : Nat) : M Unit := do
  let s ← get
  if s.core.badRow.get false (8 * k + j) then
    let n := s.coreNo
    let t := s.putCore { s.core.setRow k ((s.core.row k).put (40 * j) 40 0) with badRow := s.core.badRow.set false (8 * k + j) false }
    set (t.substitute n (s.coreCtx n) 6 0 [(3, k + 32768 * j)])

/-- The instruction reads columns lo to lo + w - 1 of the rows of a region that the test names (R195). -/
def readCells (r : Region) (on : Nat → Bool) (lo w : Nat) : M Unit :=
  ((List.range r.rows).filter on).forM fun i =>
    ((List.range 8).filter fun j => decide (40 * j < lo + w) && decide (lo < 40 * j + 40)).forM fun j => readWord (r.base + i) j

/-- A Z instruction over the active region of array a. -/
def onRegion (a : Nat) (m : Nat → Region → M Unit) : M Unit := do
  let x ← zArray a
  m x.1 x.2

/-- The acting core's Z state and rows change together. -/
def State.zPut (s : State) (f : Core → Core) : State := s.putCore (f s.core)

end Sys2Proof.Machine
end

