-- ==== Sys2Proof/Machine/ZArr.lean ====
section
/-! DEFINITION. The Z-stream's array instructions: activation (R173), compares, writes, tags and counts (R177 to R180), and
field arithmetic (R181 to R185). -/

namespace Sys2Proof.Machine

/-- `zreg` (R173). -/
def zregM (a : Nat) : M Unit := do
  let s ← get
  let h := (s.rdY a).toNat
  match s.core.regionOf? s.coreNo (s.coreCtx s.coreNo) h with
  | none => fail { code := 0x15, det := h }
  | some r =>
    let z := s.core.z
    let known := z.used.any fun u => decide (u.1 = h)
    let rows := (z.used.map Prod.snd).sum
    failIf (!known && decide ((s.core.task.getD {}).nrows < rows + r.rows)) { code := 0x03, det := 4 }
    let z := { z with act := z.act.set 0 r.arr h, used := if known then z.used else z.used ++ [(h, r.rows)] }
    set (s.updZ fun _ => (List.range 8).foldl (fun z t => z.setTag r.arr t 0 fun _ => false) z)

def execZreg (a : Nat) (s : State) : Out := runA (zregM a) s

/-- A compare (R178): `mix` combines the condition tag's bit with the match. -/
def zcmpM (a d e c w : Nat) (ne : Bool) (mix : Bool → Bool → Bool) : M Unit :=
  onRegion a fun _ r => do
    readCells r (fun _ => true) c (w + 1)
    modify fun s =>
      let key := s.zkField c (w + 1)
      let hit (i : Nat) : Bool := decide ((s.core.rrow r i).bits c (w + 1) = key) != ne
      s.updZ fun z => z.setTag a d r.rows fun i => mix (z.tag a e i) (hit i)

def execZcmpEq (a d c w : Nat) (s : State) : Out := runA (zcmpM a d 0 c w false fun _ m => m) s
def execZcmpEqAnd (a d e c w : Nat) (s : State) : Out := runA (zcmpM a d e c w false fun t m => t && m) s
def execZcmpEqOr (a d e c w : Nat) (s : State) : Out := runA (zcmpM a d e c w false fun t m => t || m) s
def execZcmpNe (a d c w : Nat) (s : State) : Out := runA (zcmpM a d 0 c w true fun _ m => m) s
def execZcmpNeAnd (a d e c w : Nat) (s : State) : Out := runA (zcmpM a d e c w true fun t m => t && m) s
def execZcmpNeOr (a d e c w : Nat) (s : State) : Out := runA (zcmpM a d e c w true fun t m => t || m) s

/-- A write (R178): the value goes into the field of each tagged row; a word of a row that it writes whole loses the mark of an error
(`Core.wordsWritten`). -/
def zwrM (a d c w : Nat) (v : State → Nat) : M Unit :=
  onRegion a fun _ r => modify fun s =>
    s.zPut fun x => (x.mapRows r fun i row => if x.z.tag a d i then row.put c (w + 1) (v s) else row).wordsWritten r (x.z.tag a d) c (w + 1)

def execZwr (a d c w : Nat) (s : State) : Out := runA (zwrM a d c w fun s => s.zkField c (w + 1)) s
def execZwrc (a d c w : Nat) (s : State) : Out := runA (zwrM a d c w fun _ => 0) s
def execZwrs (a d c w : Nat) (s : State) : Out := runA (zwrM a d c w fun _ => 2 ^ (w + 1) - 1) s

/-- `ztag` (R179). -/
def ztagM (a d c e : Nat) (f : Bool → Bool → Bool) : M Unit :=
  onRegion a fun _ r => modify fun s => s.updZ fun z => z.setTag a d r.rows fun i => f (z.tag a c i) (z.tag a e i)

def execZtagAnd (a d c e : Nat) (s : State) : Out := runA (ztagM a d c e fun x y => x && y) s
def execZtagOr (a d c e : Nat) (s : State) : Out := runA (ztagM a d c e fun x y => x || y) s
def execZtagXor (a d c e : Nat) (s : State) : Out := runA (ztagM a d c e fun x y => x != y) s
def execZtagAndn (a d c e : Nat) (s : State) : Out := runA (ztagM a d c e fun x y => x && !y) s
def execZtagMov (a d c : Nat) (s : State) : Out := runA (ztagM a d c 0 fun x _ => x) s
def execZtagNot (a d c : Nat) (s : State) : Out := runA (ztagM a d c 0 fun x _ => !x) s
def execZtagSet (a d : Nat) (s : State) : Out := runA (ztagM a d 0 0 fun _ _ => true) s
def execZtagClr (a d : Nat) (s : State) : Out := runA (ztagM a d 0 0 fun _ _ => false) s

/-- `zcnt` (R180). -/
def execZcnt (a e y : Nat) (s : State) : Out :=
  runA (onRegion a fun _ r => modify fun s => s.wrY y (BitVec.ofNat 32 (s.core.z.rowsOf a e r.rows).length)) s

/-- `zfirst` (R180). -/
def execZfirst (a e y : Nat) (s : State) : Out :=
  runA (onRegion a fun _ r => modify fun s =>
    s.wrY y (match s.core.z.rowsOf a e r.rows with | i :: _ => BitVec.ofNat 32 i | [] => 0xFFFFFFFF#32)) s

/-- `zfld` (R181). Its word's array bits are fixed at 0 and name no array: it needs no active region, and raises no 0x15 where `ama0` has
none, and the same holds of `zkset` and `zkget`: the model's choice (log entry 99), for R54 and R174 do not say it. -/
def execZfld (c w : Nat) (s : State) : Out := runA (modify fun s => s.updZ fun z => { z with latch := some (c, w + 1) }) s

/-- The latched column, for a source of w bits (R181): 0x01 where the latch is empty, of another width, or overlaps the
field of n bits at c that the instruction writes, if it may not overlap one. -/
def latched (w c n : Nat) : M Nat := do
  match (← get).core.z.latch with
  | some (lc, lw) =>
    if lw ≠ w ∨ (0 < n ∧ lc < c + n ∧ c < lc + lw) then fail { code := 0x01 } else pure lc
  | none => fail { code := 0x01 }

/-- tg6, tg7 and the destination tag after a field operation. -/
def ZState.setThree (z : ZState) (a d n : Nat) (t6 t7 td : Nat → Bool) : ZState :=
  ((z.setTag a 6 n t6).setTag a 7 n t7).setTag a d n td

/-- The source of a field operation: the latched column or `zk` at the field's own columns (R181). -/
def zSource (k : Bool) (c w n : Nat) : M (State → Row → Nat) := do
  if k then pure fun s _ => s.zkField c w
  else
    let lc ← latched w c n
    pure fun _ x => x.bits lc w

/-- An add or a subtract (R182): the field and the carry or borrow of each row of the condition tag. -/
def zaddM (a d e c w : Nat) (k sub : Bool) : M Unit := do
  let src ← zSource k c (w + 1) (w + 1)
  let lc := ((← get).core.z.latch.getD (0, 1)).1
  onRegion a fun _ r => do
    let z := (← get).core.z
    readCells r (fun i => z.tag a e i) c (w + 1)
    if !k then readCells r (fun i => z.tag a e i) lc (w + 1)
    modify fun s =>
      let m := 2 ^ (w + 1)
      let dv (i : Nat) : Nat := (s.core.rrow r i).bits c (w + 1)
      let sv (i : Nat) : Nat := src s (s.core.rrow r i)
      let on (i : Nat) : Bool := z.tag a e i
      let carry (i : Nat) : Bool := on i && (if sub then decide (dv i < sv i) else decide (m ≤ dv i + sv i))
      let val (i : Nat) : Nat := if sub then dv i + m - sv i else dv i + sv i
      let x := s.core.mapRows r fun i row => if on i then row.put c (w + 1) (val i) else row
      s.putCore { x with z := x.z.setThree a d r.rows on carry carry }

def execZadd (a d e c w : Nat) (s : State) : Out := runA (zaddM a d e c w false false) s
def execZsub (a d e c w : Nat) (s : State) : Out := runA (zaddM a d e c w false true) s
def execZaddk (a d e c w : Nat) (s : State) : Out := runA (zaddM a d e c w true false) s
def execZsubk (a d e c w : Nat) (s : State) : Out := runA (zaddM a d e c w true true) s

/-- A field compare (R183): `f` is the test that tg7 ends with; `eq` says that the result is tg6. Of words with an uncorrectable error
(R195), it reads those of the rows of the condition tag, each row's whole field, also where the row leaves tg6 before the last column:
the model's choice (log entry 104). -/
def zcompM (a d e c w : Nat) (k : Bool) (f : Nat → Nat → Bool) (eq : Bool) : M Unit := do
  let src ← zSource k c (w + 1) 0
  let lc := ((← get).core.z.latch.getD (0, 1)).1
  onRegion a fun _ r => do
    let z := (← get).core.z
    readCells r (fun i => z.tag a e i) c (w + 1)
    if !k then readCells r (fun i => z.tag a e i) lc (w + 1)
    modify fun s =>
      let dv (i : Nat) : Nat := (s.core.rrow r i).bits c (w + 1)
      let sv (i : Nat) : Nat := src s (s.core.rrow r i)
      let t6 (i : Nat) : Bool := z.tag a e i && decide (dv i = sv i)
      let t7 (i : Nat) : Bool := z.tag a e i && f (dv i) (sv i)
      s.updZ fun z => z.setThree a d r.rows t6 t7 (if eq then t6 else t7)

def execZgt (a d e c w : Nat) (s : State) : Out := runA (zcompM a d e c w false (fun x y => decide (y < x)) false) s
def execZlt (a d e c w : Nat) (s : State) : Out := runA (zcompM a d e c w false (fun x y => decide (x < y)) false) s
def execZeqf (a d e c w : Nat) (s : State) : Out := runA (zcompM a d e c w false (fun _ _ => false) true) s
def execZgtk (a d e c w : Nat) (s : State) : Out := runA (zcompM a d e c w true (fun x y => decide (y < x)) false) s
def execZltk (a d e c w : Nat) (s : State) : Out := runA (zcompM a d e c w true (fun x y => decide (x < y)) false) s

/-- `zmul` (R184): n = (w + 1) / 2; tg6 and tg7 end as the last step leaves them. Its passes read the product field of the rows in which
some bit of Y is 1 (R195, Table 7.6). -/
def zmulM (a e c w : Nat) : M Unit := do
  let n := (w + 1) / 2
  let lc ← latched n c (2 * n)
  onRegion a fun _ r => do
    let z := (← get).core.z
    readCells r (fun i => z.tag a e i) lc n
    readCells r (fun i => z.tag a e i) (c + 2 * n) n
    let t ← get
    readCells r (fun i => z.tag a e i && decide ((t.core.rrow r i).bits (c + 2 * n) n ≠ 0)) c (2 * n)
    modify fun s =>
      let x (i : Nat) : Nat := (s.core.rrow r i).bits lc n
      let y (i : Nat) : Nat := (s.core.rrow r i).bits (c + 2 * n) n
      let t6 (i : Nat) : Bool := z.tag a e i && (y i).testBit (n - 1)
      -- the partial product before the last step, from bit n - 1 on, takes the last addend
      let t7 (i : Nat) : Bool := t6 i && decide (2 ^ n ≤ y i % 2 ^ (n - 1) * x i / 2 ^ (n - 1) % 2 ^ n + x i)
      let u := s.core.mapRows r fun i row => if z.tag a e i then row.put c (2 * n) (x i * y i) else row
      let u := u.wordsWritten r (z.tag a e) c (2 * n)
      s.putCore { u with z := (u.z.setTag a 6 r.rows t6).setTag a 7 r.rows t7 }

def execZmul (a e c w : Nat) (s : State) : Out := runA (zmulM a e c w) s

/-- `zmov` (R185): overlap is allowed. -/
def zmovM (a d c w : Nat) : M Unit := do
  let lc ← latched (w + 1) c 0
  onRegion a fun _ r => do
    let z := (← get).core.z
    readCells r (fun i => z.tag a d i) lc (w + 1)
    modify fun s =>
      let x := s.core.mapRows r fun i row => if z.tag a d i then row.put c (w + 1) (row.bits lc (w + 1)) else row
      let x := x.wordsWritten r (z.tag a d) c (w + 1)
      s.putCore { x with z := (x.z.setTag a 6 r.rows fun i => z.tag a d i).setTag a 7 r.rows fun _ => false }

def execZmov (a d c w : Nat) (s : State) : Out := runA (zmovM a d c w) s

end Sys2Proof.Machine
end

