-- ==== Sys2Proof/Machine/ZScal.lean ====
section
/-! DEFINITION. The Z-stream's key, scalar and control instructions (R186 to R189). -/

namespace Sys2Proof.Machine

def execZnop (s : State) : Out := runA (pure ()) s

/-- `zkld` (R186). -/
def zkldM : M Unit := do
  let s ← get
  match s.core.q.qz0 with
  | [] => stall (.empty 8)
  | e :: es => set (s.putCore (({ s.core with q := { s.core.q with qz0 := es }, z := { s.core.z with zk := e } }.popMarks 8 1).fresh [80]))

def execZkld (s : State) : Out := runA zkldM s

/-- `zkset` (R186); w is width - 1. -/
def execZkset (y c w : Nat) (s : State) : Out :=
  runA (modify fun s => s.updZ fun z => { z with zk := Row.put z.zk c (w + 1) (s.rdY y).toNat }) s

/-- `zkget` (R186). -/
def execZkget (y c w : Nat) (s : State) : Out :=
  runA (modify fun s => s.wrY y (BitVec.ofNat 32 (s.zkField c (w + 1)))) s

/-- A scalar operation (R187). -/
def yOp (d : Nat) (f : State → Lane) : M Unit := modify fun s => s.wrY d (f s)

/-- An 18-bit immediate, sign-extended. -/
def imm18 (i : Nat) : Lane := (BitVec.ofNat 18 i).signExtend 32

def execYadd (d a b : Nat) (s : State) : Out := runA (yOp d fun s => s.rdY a + s.rdY b) s
def execYaddi (d a i : Nat) (s : State) : Out := runA (yOp d fun s => s.rdY a + imm18 i) s
def execYsub (d a b : Nat) (s : State) : Out := runA (yOp d fun s => s.rdY a - s.rdY b) s
def execYli (d i : Nat) (s : State) : Out := runA (yOp d fun _ => imm18 i) s
def execYand (d a b : Nat) (s : State) : Out := runA (yOp d fun s => s.rdY a &&& s.rdY b) s
def execYor (d a b : Nat) (s : State) : Out := runA (yOp d fun s => s.rdY a ||| s.rdY b) s

/-- `ypush` (R187): a full `qy0` stalls. -/
def ypushM (a : Nat) : M Unit := do
  let s ← get
  if 16 ≤ s.core.q.qy0.length then stall (.full 10)
  set (s.putCore { s.core with q := { s.core.q with qy0 := s.core.q.qy0 ++ [s.rdY a] } })

def execYpush (a : Nat) (s : State) : Out := runA (ypushM a) s

/-- `ypop` (R187): an empty `qz1` stalls. -/
def ypopM (d : Nat) : M Unit := do
  let s ← get
  match s.core.q.qz1 with
  | [] => stall (.empty 9)
  | e :: es => set ((s.putCore ({ s.core with q := { s.core.q with qz1 := es } }.popMarks 9 1)).wrY d e)

def execYpop (d : Nat) (s : State) : Out := runA (ypopM d) s

/-- A branch (R188): to pc + 4 × sext (imm, 18) where the condition holds. -/
def zBranch (i : Nat) (c : State → Bool) : M Unit := modify fun s => if c s then s.setPc (s.pc + 4 * sext 18 i) else s.setPc (s.pc + 4)

def execZbr (i : Nat) (s : State) : Out := runM (zBranch i fun _ => true) s
def execZbeq (d a i : Nat) (s : State) : Out := runM (zBranch i fun s => decide (s.rdY d = s.rdY a)) s
def execZbne (d a i : Nat) (s : State) : Out := runM (zBranch i fun s => decide (s.rdY d ≠ s.rdY a)) s
/-- `zloop` (R188). -/
def execZloop (d i : Nat) (s : State) : Out :=
  runM (do
    modify fun s => s.wrY d (s.rdY d - 1)
    zBranch i fun s => decide (s.rdY d ≠ 0)) s

/-- `zend` (R189, R32): the Z-stream ends. -/
def execZend (s : State) : Out := runM (modify fun s => s.putCore (s.core.endStream s.strmNo)) s

end Sys2Proof.Machine
end

