-- ==== Sys2Proof/Machine/ZSel.lean ====
section
/-! DEFINITION. The Z-stream's selection instructions (R305 to R312). -/

namespace Sys2Proof.Machine

/-- `zscore` (R306). -/
def zscoreM (a c : Nat) : M Unit :=
  onRegion a fun _ r => do
    let z := (← get).core.z
    readCells r (fun i => z.tag a c i) 0 256
    modify fun s => s.zPut fun x => x.mapRows r fun i row =>
      if z.tag a c i then row.put 304 9 (sigScore row.sig (x.z.zk.toNat % 2 ^ 256)) else row

def execZscore (a c : Nat) (s : State) : Out := runA (zscoreM a c) s

/-- The search list at a scratchpad address (R304): score and page of each entry. -/
def Core.searchList (c : Core) (at_ m : Nat) : List (Nat × Nat) :=
  (List.range m).map fun i =>
    let e := leNat (c.sbytes (at_ + 8 + 8 * i) 8)
    (e / 2 ^ 32 % 512, e % 2 ^ 24)

/-- The checks of `zsel` on its parameters and addresses (R307). -/
def zselChecks (p : Nat → Nat) : M Unit := do
  let c := (← get).core
  let k := p 4
  let out := p 5
  let la := p 6
  let listed := la ≠ 2 ^ 32 - 1
  failIf (decide (p 1 / 2 ^ 24 ≠ 0) || decide (p 2 / 2 ^ 24 ≠ 0) || decide (p 3 / 2 ^ 24 ≠ 0) || decide (p 7 ≠ 0) || decide (1024 < k))
    { code := 0x05 }
  failIf (decide (out % 4 ≠ 0) || (decide listed && decide (la % 8 ≠ 0))) { code := 0x05 }
  failWith (c.spadCheck out (4 * (1 + p 1 / 2 ^ 8 % 256 + p 1 / 2 ^ 16 % 256 + k)) 4)
  if listed then
    failWith (c.spadCheck la 8 8)
    let m := leNat (c.sbytes (la + 4) 4)
    failIf (decide (1024 < m)) { code := 0x05 }
    failWith (c.spadCheck la (8 + 8 * m) 8)

/-- `zsel` (R307, R296, R297). It writes its results in one step, and a local load of the X-stream reads its lanes in one step: an uncoupled
read of the result range sees all of the old or all of the new elements, of the mixtures that R312 allows (log entry 115). -/
def zselM (d a n : Nat) : M Unit :=
  onRegion n fun _ r => do
    let s ← get
    let p (i : Nat) : Nat := (s.rdY (a + i)).toNat
    zselChecks p
    readCells r (fun _ => true) 256 63
    let s ← get
    let c := s.core
    let sinks := p 1 / 2 ^ 8 % 256
    let win := p 1 / 2 ^ 16 % 256
    let cand (i : Nat) : Bool := isCandidate (c.rrow r i) (p 0 % 65536) (p 0 / 65536) (p 1 % 256) (p 3 % 2 ^ 24)
    let z := (c.z.setTag n 6 r.rows cand).setTag n 7 r.rows fun _ => false
    let la := p 6
    let listed : Bool := decide (la ≠ 2 ^ 32 - 1)
    if listed && decide (leNat (c.sbytes la 4) ≠ r.rcnt) then
      set ((s.updZ fun _ => z).wrY d 0xFFFFFFFF#32)
    else
      let list := if listed then c.searchList la (leNat (c.sbytes (la + 4) 4)) else []
      let chip := ((List.range r.rows).filter cand).map fun i => ((c.rrow r i).score, (c.rrow r i).page)
      let pages := selectPages (chip ++ list) sinks win (p 2 % 2 ^ 24) (p 4)
      let won (i : Nat) : Bool := cand i && pages.contains (c.rrow r i).page
      let x := c.mapRows r fun i row => if won i then row.put 313 4 0 else if cand i then row.older else row
      let x := { x.putSpad (p 5) (leBytes 4 pages.length ++ pages.flatMap (leBytes 4)) with
        z := z.setTag n 7 r.rows won }
      set ((s.putCore x).wrY d (BitVec.ofNat 32 pages.length))

def execZsel (d a n : Nat) (s : State) : Out := runA (zselM d a n) s

/-- Every moving row of the region that the test names has its acknowledgement (R300). -/
def State.allAcked (s : State) (r : Region) (on : Nat → Bool) : Bool :=
  (List.range r.rows).all fun i => !(on i && (s.core.rrow r i).moving) || s.acked s.coreNo (r.base + i)

/-- A row is free for an insert (R308). -/
def Row.free (x : Row) : Bool := !x.valid && !x.moving

/-- The insert of R308 into the least free row. -/
def placeRow (d : Nat) (r : Region) : M Unit := modify fun s =>
  match (List.range r.rows).find? fun i => (s.core.rrow r i).free with
  | none => s
  | some i =>
    let row : Row := Row.put (Row.put (Row.put s.core.z.zk 319 1 0) 318 1 1) 313 4 0
    let v := i + (if s.core.z.spb then 2 ^ 31 else 0)
    let x := { s.core.setRow (r.base + i) row with badRow := s.core.badRow.splice false (8 * (r.base + i)) 8 fun _ => false }
    ((s.putCore x).wrY d (BitVec.ofNat 32 v)).updZ fun z => { z with spb := false }

/-- `zins` (R308). -/
def zinsM (d n : Nat) : M Unit :=
  onRegion n fun h r => do
    readCells r (fun _ => true) 256 64
    let s ← get
    let c := s.core
    let rows := List.range r.rows
    if rows.any fun i => (c.rrow r i).free then placeRow d r
    else if rows.any fun i => (c.rrow r i).moving then
      if !s.allAcked r fun _ => true then throw (.pause (.flight 0))
      set (s.zPut fun x => x.mapRows r fun _ row => if row.moving then row.reaped else row)
      placeRow d r
    else if !bindV r.bind then set (s.wrY d 0xFFFFFFFF#32)
    else
      match c.victim? r fun _ => true with
      | none => set (s.wrY d 0xFFFFFFFF#32)
      | some i =>
        readCells r (fun j => decide (j = i)) 0 256
        let _ ← startSpill s.coreNo (hEnt h) i
        modify fun s => s.updZ fun z => { z with spb := true }
        throw (.pause (.flight 0))

def execZins (d n : Nat) (s : State) : Out := runA (zinsM d n) s

/-- An age instruction (R309): the tagged rows' age changed. -/
def zageM (c n : Nat) (f : Row → Row) : M Unit :=
  onRegion n fun _ r => do
    let z := (← get).core.z
    readCells r (fun i => z.tag n c i) 313 4
    modify fun s => s.zPut fun x => x.mapRows r fun i row => if z.tag n c i then f row else row

def execZage (c n : Nat) (s : State) : Out := runA (zageM c n Row.older) s
def execZageClr (c n : Nat) (s : State) : Out :=
  runA (onRegion n fun _ r => modify fun s =>
    s.zPut fun x => x.mapRows r fun i row => if x.z.tag n c i then row.put 313 4 0 else row) s

/-- `zdel` (R310). -/
def zdelM (d c n : Nat) : M Unit :=
  onRegion n fun _ r => do
    let z := (← get).core.z
    readCells r (fun i => z.tag n c i) 318 2
    let s ← get
    if !s.allAcked r fun i => z.tag n c i then throw (.pause (.flight 0))
    let gone := (z.rowsOf n c r.rows).filter fun i => (s.core.rrow r i).valid
    set ((s.zPut fun x => x.mapRows r fun i row => if z.tag n c i then row.reaped else row).wrY d (BitVec.ofNat 32 gone.length))

def execZdel (d c n : Nat) (s : State) : Out := runA (zdelM d c n) s

/-- `zspill` (R311). -/
def zspillM (d c n : Nat) : M Unit :=
  onRegion n fun h r => do
    failIf (!bindV r.bind) { code := 0x15, det := h }
    let z := (← get).core.z
    readCells r (fun i => z.tag n c i) 256 64
    let s ← get
    match s.core.victim? r fun i => z.tag n c i with
    | none => set (s.wrY d 0xFFFFFFFF#32)
    | some i =>
      readCells r (fun j => decide (j = i)) 0 256
      let k ← startSpill s.coreNo (hEnt h) i
      modify fun s => s.wrY d (BitVec.ofNat 32 k)

def execZspill (d c n : Nat) (s : State) : Out := runA (zspillM d c n) s

/-- `zspill.cnt` (R311). -/
def execZspillCnt (d n : Nat) (s : State) : Out :=
  runA (onRegion n fun _ r => modify fun s => s.wrY d (BitVec.ofNat 32 r.rcnt)) s

end Sys2Proof.Machine
end

