-- ==== Sys2Proof/Machine/Dispatch.lean ====
section
/-! DEFINITION. The dispatcher: one arm per constructor of Instr, each one direct call of its meaning. -/

namespace Sys2Proof.Machine

/-- The meaning of every instruction. -/
def exec (i : Instr) (s : State) : Host.Outcome State Fault Refusal :=
  match i with
  | .add d a b => Sys2Proof.Machine.execAdd d a b s
  | .sub d a b => Sys2Proof.Machine.execSub d a b s
  | .and d a b => Sys2Proof.Machine.execAnd d a b s
  | .or d a b => Sys2Proof.Machine.execOr d a b s
  | .xor d a b => Sys2Proof.Machine.execXor d a b s
  | .andn d a b => Sys2Proof.Machine.execAndn d a b s
  | .sll d a b => Sys2Proof.Machine.execSll d a b s
  | .srl d a b => Sys2Proof.Machine.execSrl d a b s
  | .sra d a b => Sys2Proof.Machine.execSra d a b s
  | .rol d a b => Sys2Proof.Machine.execRol d a b s
  | .slt d a b => Sys2Proof.Machine.execSlt d a b s
  | .sltu d a b => Sys2Proof.Machine.execSltu d a b s
  | .min d a b => Sys2Proof.Machine.execMin d a b s
  | .max d a b => Sys2Proof.Machine.execMax d a b s
  | .minu d a b => Sys2Proof.Machine.execMinu d a b s
  | .maxu d a b => Sys2Proof.Machine.execMaxu d a b s
  | .mul d a b => Sys2Proof.Machine.execMul d a b s
  | .mulh d a b => Sys2Proof.Machine.execMulh d a b s
  | .mulhu d a b => Sys2Proof.Machine.execMulhu d a b s
  | .div d a b => Sys2Proof.Machine.execDiv d a b s
  | .divu d a b => Sys2Proof.Machine.execDivu d a b s
  | .rem d a b => Sys2Proof.Machine.execRem d a b s
  | .remu d a b => Sys2Proof.Machine.execRemu d a b s
  | .popc d a => Sys2Proof.Machine.execPopc d a s
  | .clz d a => Sys2Proof.Machine.execClz d a s
  | .ctz d a => Sys2Proof.Machine.execCtz d a s
  | .bhash d a b => Sys2Proof.Machine.execBhash d a b s
  | .sextB d a => Sys2Proof.Machine.execSextB d a s
  | .sextH d a => Sys2Proof.Machine.execSextH d a s
  | .sextW d a => Sys2Proof.Machine.execSextW d a s
  | .fsh d a b n => Sys2Proof.Machine.execFsh d a b n s
  | .addi d a imm => Sys2Proof.Machine.execAddi d a imm s
  | .andi d a imm => Sys2Proof.Machine.execAndi d a imm s
  | .ori d a imm => Sys2Proof.Machine.execOri d a imm s
  | .xori d a imm => Sys2Proof.Machine.execXori d a imm s
  | .slti d a imm => Sys2Proof.Machine.execSlti d a imm s
  | .sltiu d a imm => Sys2Proof.Machine.execSltiu d a imm s
  | .slli d a n => Sys2Proof.Machine.execSlli d a n s
  | .srli d a n => Sys2Proof.Machine.execSrli d a n s
  | .srai d a n => Sys2Proof.Machine.execSrai d a n s
  | .roli d a n => Sys2Proof.Machine.execRoli d a n s
  | .li d imm => Sys2Proof.Machine.execLi d imm s
  | .lsi d imm => Sys2Proof.Machine.execLsi d imm s
  | .bfx d a w st => Sys2Proof.Machine.execBfx d a w st s
  | .bfxS d a w st => Sys2Proof.Machine.execBfxS d a w st s
  | .bfi d a w st => Sys2Proof.Machine.execBfi d a w st s
  | .ldB d a m o => Sys2Proof.Machine.execLdB d a m o s
  | .ldH d a m o => Sys2Proof.Machine.execLdH d a m o s
  | .ldW d a m o => Sys2Proof.Machine.execLdW d a m o s
  | .ldD d a m o => Sys2Proof.Machine.execLdD d a m o s
  | .ldBs d a m o => Sys2Proof.Machine.execLdBs d a m o s
  | .ldHs d a m o => Sys2Proof.Machine.execLdHs d a m o s
  | .ldWs d a m o => Sys2Proof.Machine.execLdWs d a m o s
  | .stB d a m o => Sys2Proof.Machine.execStB d a m o s
  | .stH d a m o => Sys2Proof.Machine.execStH d a m o s
  | .stW d a m o => Sys2Proof.Machine.execStW d a m o s
  | .stD d a m o => Sys2Proof.Machine.execStD d a m o s
  | .vld q a => Sys2Proof.Machine.execVld q a s
  | .vldS q a b => Sys2Proof.Machine.execVldS q a b s
  | .vldBc q a => Sys2Proof.Machine.execVldBc q a s
  | .qpush q a => Sys2Proof.Machine.execQpush q a s
  | .qpop d q => Sys2Proof.Machine.execQpop d q s
  | .wlc n a => Sys2Proof.Machine.execWlc n a s
  | .copy d a b y x sc => Sys2Proof.Machine.execCopy d a b y x sc s
  | .gather d a b y x sc => Sys2Proof.Machine.execGather d a b y x sc s
  | .scatter d a b y x sc => Sys2Proof.Machine.execScatter d a b y x sc s
  | .rcopy d a b y x sc => Sys2Proof.Machine.execRcopy d a b y x sc s
  | .copyMma d a b y x sc => Sys2Proof.Machine.execCopyMma d a b y x sc s
  | .cancel a => Sys2Proof.Machine.execCancel a s
  | .hwait a => Sys2Proof.Machine.execHwait a s
  | .htest d a => Sys2Proof.Machine.execHtest d a s
  | .amoAddRlx d a b w sc => Sys2Proof.Machine.execAmoAddRlx d a b w sc s
  | .amoAndRlx d a b w sc => Sys2Proof.Machine.execAmoAndRlx d a b w sc s
  | .amoOrRlx d a b w sc => Sys2Proof.Machine.execAmoOrRlx d a b w sc s
  | .amoXorRlx d a b w sc => Sys2Proof.Machine.execAmoXorRlx d a b w sc s
  | .amoMinRlx d a b w sc => Sys2Proof.Machine.execAmoMinRlx d a b w sc s
  | .amoMaxRlx d a b w sc => Sys2Proof.Machine.execAmoMaxRlx d a b w sc s
  | .amoMinuRlx d a b w sc => Sys2Proof.Machine.execAmoMinuRlx d a b w sc s
  | .amoMaxuRlx d a b w sc => Sys2Proof.Machine.execAmoMaxuRlx d a b w sc s
  | .amoSwapRlx d a b w sc => Sys2Proof.Machine.execAmoSwapRlx d a b w sc s
  | .amoCasRlx d a b w sc => Sys2Proof.Machine.execAmoCasRlx d a b w sc s
  | .amoFaddRlx d a b sc => Sys2Proof.Machine.execAmoFaddRlx d a b sc s
  | .amoFmaxRlx d a b sc => Sys2Proof.Machine.execAmoFmaxRlx d a b sc s
  | .amoFminRlx d a b sc => Sys2Proof.Machine.execAmoFminRlx d a b sc s
  | .amoAddAcq d a b w sc => Sys2Proof.Machine.execAmoAddAcq d a b w sc s
  | .amoAndAcq d a b w sc => Sys2Proof.Machine.execAmoAndAcq d a b w sc s
  | .amoOrAcq d a b w sc => Sys2Proof.Machine.execAmoOrAcq d a b w sc s
  | .amoXorAcq d a b w sc => Sys2Proof.Machine.execAmoXorAcq d a b w sc s
  | .amoMinAcq d a b w sc => Sys2Proof.Machine.execAmoMinAcq d a b w sc s
  | .amoMaxAcq d a b w sc => Sys2Proof.Machine.execAmoMaxAcq d a b w sc s
  | .amoMinuAcq d a b w sc => Sys2Proof.Machine.execAmoMinuAcq d a b w sc s
  | .amoMaxuAcq d a b w sc => Sys2Proof.Machine.execAmoMaxuAcq d a b w sc s
  | .amoSwapAcq d a b w sc => Sys2Proof.Machine.execAmoSwapAcq d a b w sc s
  | .amoCasAcq d a b w sc => Sys2Proof.Machine.execAmoCasAcq d a b w sc s
  | .amoFaddAcq d a b sc => Sys2Proof.Machine.execAmoFaddAcq d a b sc s
  | .amoFmaxAcq d a b sc => Sys2Proof.Machine.execAmoFmaxAcq d a b sc s
  | .amoFminAcq d a b sc => Sys2Proof.Machine.execAmoFminAcq d a b sc s
  | .amoAddRel d a b w sc => Sys2Proof.Machine.execAmoAddRel d a b w sc s
  | .amoAndRel d a b w sc => Sys2Proof.Machine.execAmoAndRel d a b w sc s
  | .amoOrRel d a b w sc => Sys2Proof.Machine.execAmoOrRel d a b w sc s
  | .amoXorRel d a b w sc => Sys2Proof.Machine.execAmoXorRel d a b w sc s
  | .amoMinRel d a b w sc => Sys2Proof.Machine.execAmoMinRel d a b w sc s
  | .amoMaxRel d a b w sc => Sys2Proof.Machine.execAmoMaxRel d a b w sc s
  | .amoMinuRel d a b w sc => Sys2Proof.Machine.execAmoMinuRel d a b w sc s
  | .amoMaxuRel d a b w sc => Sys2Proof.Machine.execAmoMaxuRel d a b w sc s
  | .amoSwapRel d a b w sc => Sys2Proof.Machine.execAmoSwapRel d a b w sc s
  | .amoCasRel d a b w sc => Sys2Proof.Machine.execAmoCasRel d a b w sc s
  | .amoFaddRel d a b sc => Sys2Proof.Machine.execAmoFaddRel d a b sc s
  | .amoFmaxRel d a b sc => Sys2Proof.Machine.execAmoFmaxRel d a b sc s
  | .amoFminRel d a b sc => Sys2Proof.Machine.execAmoFminRel d a b sc s
  | .amoAddRc d a b w sc => Sys2Proof.Machine.execAmoAddRc d a b w sc s
  | .amoAndRc d a b w sc => Sys2Proof.Machine.execAmoAndRc d a b w sc s
  | .amoOrRc d a b w sc => Sys2Proof.Machine.execAmoOrRc d a b w sc s
  | .amoXorRc d a b w sc => Sys2Proof.Machine.execAmoXorRc d a b w sc s
  | .amoMinRc d a b w sc => Sys2Proof.Machine.execAmoMinRc d a b w sc s
  | .amoMaxRc d a b w sc => Sys2Proof.Machine.execAmoMaxRc d a b w sc s
  | .amoMinuRc d a b w sc => Sys2Proof.Machine.execAmoMinuRc d a b w sc s
  | .amoMaxuRc d a b w sc => Sys2Proof.Machine.execAmoMaxuRc d a b w sc s
  | .amoSwapRc d a b w sc => Sys2Proof.Machine.execAmoSwapRc d a b w sc s
  | .amoCasRc d a b w sc => Sys2Proof.Machine.execAmoCasRc d a b w sc s
  | .amoFaddRc d a b sc => Sys2Proof.Machine.execAmoFaddRc d a b sc s
  | .amoFmaxRc d a b sc => Sys2Proof.Machine.execAmoFmaxRc d a b sc s
  | .amoFminRc d a b sc => Sys2Proof.Machine.execAmoFminRc d a b sc s
  | .fenceAcq sc => Sys2Proof.Machine.execFenceAcq sc s
  | .fenceRel sc => Sys2Proof.Machine.execFenceRel sc s
  | .fenceAr sc => Sys2Proof.Machine.execFenceAr sc s
  | .fenceDrain sc => Sys2Proof.Machine.execFenceDrain sc s
  | .waitwEq d a b => Sys2Proof.Machine.execWaitwEq d a b s
  | .waitwNe d a b => Sys2Proof.Machine.execWaitwNe d a b s
  | .waitwGeu d a b => Sys2Proof.Machine.execWaitwGeu d a b s
  | .waitwLtu d a b => Sys2Proof.Machine.execWaitwLtu d a b s
  | .resv d a b => Sys2Proof.Machine.execResv d a b s
  | .disc d a b sc => Sys2Proof.Machine.execDisc d a b sc s
  | .migr d a b sc => Sys2Proof.Machine.execMigr d a b sc s
  | .pin d a b => Sys2Proof.Machine.execPin d a b s
  | .unpin d a b => Sys2Proof.Machine.execUnpin d a b s
  | .launch a => Sys2Proof.Machine.execLaunch a s
  | .irv => Sys2Proof.Machine.execIrv s
  | .endA => Sys2Proof.Machine.execEndA s
  | .barArr n sc => Sys2Proof.Machine.execBarArr n sc s
  | .barWait n sc => Sys2Proof.Machine.execBarWait n sc s
  | .barSync n sc => Sys2Proof.Machine.execBarSync n sc s
  | .fork d a b sc => Sys2Proof.Machine.execFork d a b sc s
  | .msend d a b sc => Sys2Proof.Machine.execMsend d a b sc s
  | .mrecv d a b => Sys2Proof.Machine.execMrecv d a b s
  | .srch d a b sc => Sys2Proof.Machine.execSrch d a b sc s
  | .scommit d a b => Sys2Proof.Machine.execScommit d a b s
  | .trunc d a b => Sys2Proof.Machine.execTrunc d a b s
  | .sread d a b => Sys2Proof.Machine.execSread d a b s
  | .sarmCreate d a b => Sys2Proof.Machine.execSarmCreate d a b s
  | .sarmArm d a b => Sys2Proof.Machine.execSarmArm d a b s
  | .sarmDisarm d a b => Sys2Proof.Machine.execSarmDisarm d a b s
  | .sarmRetire d a b => Sys2Proof.Machine.execSarmRetire d a b s
  | .sarmEvict d a b => Sys2Proof.Machine.execSarmEvict d a b s
  | .nop => Sys2Proof.Machine.execNop s
  | .mfs d n m => Sys2Proof.Machine.execMfs d n m s
  | .mts a n m => Sys2Proof.Machine.execMts a n m s
  | .ecall n m => Sys2Proof.Machine.execEcall n m s
  | .eret => Sys2Proof.Machine.execEret s
  | .trap n m => Sys2Proof.Machine.execTrap n m s
  | .brk n m => Sys2Proof.Machine.execBrk n m s
  | .bez a o => Sys2Proof.Machine.execBez a o s
  | .bnz a o => Sys2Proof.Machine.execBnz a o s
  | .bltz a o => Sys2Proof.Machine.execBltz a o s
  | .bgez a o => Sys2Proof.Machine.execBgez a o s
  | .bgtz a o => Sys2Proof.Machine.execBgtz a o s
  | .blez a o => Sys2Proof.Machine.execBlez a o s
  | .br o => Sys2Proof.Machine.execBr o s
  | .beq a b o => Sys2Proof.Machine.execBeq a b o s
  | .bne a b o => Sys2Proof.Machine.execBne a b o s
  | .blt a b o => Sys2Proof.Machine.execBlt a b o s
  | .bge a b o => Sys2Proof.Machine.execBge a b o s
  | .bltu a b o => Sys2Proof.Machine.execBltu a b o s
  | .bgeu a b o => Sys2Proof.Machine.execBgeu a b o s
  | .call d imm => Sys2Proof.Machine.execCall d imm s
  | .jr a => Sys2Proof.Machine.execJr a s
  | .jalr d a => Sys2Proof.Machine.execJalr d a s
  | .vnop g => Sys2Proof.Machine.execVnop g s
  | .fadd g rm d a b => Sys2Proof.Machine.execFadd g rm d a b s
  | .fsub g rm d a b => Sys2Proof.Machine.execFsub g rm d a b s
  | .fmul g rm d a b => Sys2Proof.Machine.execFmul g rm d a b s
  | .fma g rm d a b => Sys2Proof.Machine.execFma g rm d a b s
  | .fms g rm d a b => Sys2Proof.Machine.execFms g rm d a b s
  | .fnma g rm d a b => Sys2Proof.Machine.execFnma g rm d a b s
  | .fmin g d a b => Sys2Proof.Machine.execFmin g d a b s
  | .fmax g d a b => Sys2Proof.Machine.execFmax g d a b s
  | .fabs g d a => Sys2Proof.Machine.execFabs g d a s
  | .fneg g d a => Sys2Proof.Machine.execFneg g d a s
  | .rcp g rm d a => Sys2Proof.Machine.execRcp g rm d a s
  | .rsqrt g rm d a => Sys2Proof.Machine.execRsqrt g rm d a s
  | .exp2 g rm d a => Sys2Proof.Machine.execExp2 g rm d a s
  | .log2 g rm d a => Sys2Proof.Machine.execLog2 g rm d a s
  | .hadd g f rm d a b => Sys2Proof.Machine.execHadd g f rm d a b s
  | .hsub g f rm d a b => Sys2Proof.Machine.execHsub g f rm d a b s
  | .hmul g f rm d a b => Sys2Proof.Machine.execHmul g f rm d a b s
  | .hfma g f rm d a b => Sys2Proof.Machine.execHfma g f rm d a b s
  | .hmin g f d a b => Sys2Proof.Machine.execHmin g f d a b s
  | .hmax g f d a b => Sys2Proof.Machine.execHmax g f d a b s
  | .iadd g iw d a b => Sys2Proof.Machine.execIadd g iw d a b s
  | .isub g iw d a b => Sys2Proof.Machine.execIsub g iw d a b s
  | .imul g iw d a b => Sys2Proof.Machine.execImul g iw d a b s
  | .imulh g iw d a b => Sys2Proof.Machine.execImulh g iw d a b s
  | .imulhu g iw d a b => Sys2Proof.Machine.execImulhu g iw d a b s
  | .iand g iw d a b => Sys2Proof.Machine.execIand g iw d a b s
  | .ior g iw d a b => Sys2Proof.Machine.execIor g iw d a b s
  | .ixor g iw d a b => Sys2Proof.Machine.execIxor g iw d a b s
  | .iandn g iw d a b => Sys2Proof.Machine.execIandn g iw d a b s
  | .isll g iw d a b => Sys2Proof.Machine.execIsll g iw d a b s
  | .isrl g iw d a b => Sys2Proof.Machine.execIsrl g iw d a b s
  | .isra g iw d a b => Sys2Proof.Machine.execIsra g iw d a b s
  | .imin g iw d a b => Sys2Proof.Machine.execImin g iw d a b s
  | .imax g iw d a b => Sys2Proof.Machine.execImax g iw d a b s
  | .iminu g iw d a b => Sys2Proof.Machine.execIminu g iw d a b s
  | .imaxu g iw d a b => Sys2Proof.Machine.execImaxu g iw d a b s
  | .iadds g iw d a b => Sys2Proof.Machine.execIadds g iw d a b s
  | .iaddus g iw d a b => Sys2Proof.Machine.execIaddus g iw d a b s
  | .isubs g iw d a b => Sys2Proof.Machine.execIsubs g iw d a b s
  | .isubus g iw d a b => Sys2Proof.Machine.execIsubus g iw d a b s
  | .iabs g iw d a => Sys2Proof.Machine.execIabs g iw d a s
  | .fcmp g cc pd a b => Sys2Proof.Machine.execFcmp g cc pd a b s
  | .icmp g cc pd a b => Sys2Proof.Machine.execIcmp g cc pd a b s
  | .sel g p d a b => Sys2Proof.Machine.execSel g p d a b s
  | .pand g pd pa pb => Sys2Proof.Machine.execPand g pd pa pb s
  | .por g pd pa pb => Sys2Proof.Machine.execPor g pd pa pb s
  | .pxor g pd pa pb => Sys2Proof.Machine.execPxor g pd pa pb s
  | .pandn g pd pa pb => Sys2Proof.Machine.execPandn g pd pa pb s
  | .porn g pd pa pb => Sys2Proof.Machine.execPorn g pd pa pb s
  | .pnot g pd pa => Sys2Proof.Machine.execPnot g pd pa s
  | .pset g pd => Sys2Proof.Machine.execPset g pd s
  | .pclr g pd => Sys2Proof.Machine.execPclr g pd s
  | .cvt g rm fmt d a => Sys2Proof.Machine.execCvt g rm fmt d a s
  | .cvtF32 g rm fmt d a => Sys2Proof.Machine.execCvtF32 g rm fmt d a s
  | .mxq g rm fmt d a sd => Sys2Proof.Machine.execMxq g rm fmt d a sd s
  | .mxdq g fmt d a b => Sys2Proof.Machine.execMxdq g fmt d a b s
  | .tsqTsf8a g rm d a sd => Sys2Proof.Machine.execTsqTsf8a g rm d a sd s
  | .tsqTsf8w g rm d a b => Sys2Proof.Machine.execTsqTsf8w g rm d a b s
  | .tsdq g fmt d a b => Sys2Proof.Machine.execTsdq g fmt d a b s
  | .fredsum g rm all d a => Sys2Proof.Machine.execFredsum g rm all d a s
  | .fredmax g all d a => Sys2Proof.Machine.execFredmax g all d a s
  | .fredmin g all d a => Sys2Proof.Machine.execFredmin g all d a s
  | .iredsum g all d a => Sys2Proof.Machine.execIredsum g all d a s
  | .iredmax g all d a => Sys2Proof.Machine.execIredmax g all d a s
  | .iredmin g all d a => Sys2Proof.Machine.execIredmin g all d a s
  | .iredmaxu g all d a => Sys2Proof.Machine.execIredmaxu g all d a s
  | .iredminu g all d a => Sys2Proof.Machine.execIredminu g all d a s
  | .vperm g d a b => Sys2Proof.Machine.execVperm g d a b s
  | .vbcast g d a b => Sys2Proof.Machine.execVbcast g d a b s
  | .vrot g d a b => Sys2Proof.Machine.execVrot g d a b s
  | .vshl g d a b => Sys2Proof.Machine.execVshl g d a b s
  | .vshr g d a b => Sys2Proof.Machine.execVshr g d a b s
  | .vzip g d a b => Sys2Proof.Machine.execVzip g d a b s
  | .vunzip g d a b => Sys2Proof.Machine.execVunzip g d a b s
  | .vcomp g d a p => Sys2Proof.Machine.execVcomp g d a p s
  | .vbfx g st d a b => Sys2Proof.Machine.execVbfx g st d a b s
  | .vbfxS g st d a b => Sys2Proof.Machine.execVbfxS g st d a b s
  | .vfsh g st d a b => Sys2Proof.Machine.execVfsh g st d a b s
  | .lgth g sz d a b => Sys2Proof.Machine.execLgth g sz d a b s
  | .lsct g sz d a b => Sys2Proof.Machine.execLsct g sz d a b s
  | .lld g sz d a b => Sys2Proof.Machine.execLld g sz d a b s
  | .lst g sz d a b => Sys2Proof.Machine.execLst g sz d a b s
  | .zpush a => Sys2Proof.Machine.execZpush a s
  | .tld t a b => Sys2Proof.Machine.execTld t a b s
  | .tfree t => Sys2Proof.Machine.execTfree t s
  | .mma fmt h t a b => Sys2Proof.Machine.execMma fmt h t a b s
  | .mmaTs t a b => Sys2Proof.Machine.execMmaTs t a b s
  | .mmaMx fmt h t a b => Sys2Proof.Machine.execMmaMx fmt h t a b s
  | .accrd rm fmt d a => Sys2Proof.Machine.execAccrd rm fmt d a s
  | .acczero a n => Sys2Proof.Machine.execAcczero a n s
  | .balloc d n => Sys2Proof.Machine.execBalloc d n s
  | .bfree a n => Sys2Proof.Machine.execBfree a n s
  | .msig d a b => Sys2Proof.Machine.execMsig d a b s
  | .loop lc inc ki ks n => Sys2Proof.Machine.execLoop lc inc ki ks n s
  | .rep src inc ki ks c => Sys2Proof.Machine.execRep src inc ki ks c s
  | .forkx o1 o2 o3 => Sys2Proof.Machine.execForkx o1 o2 o3 s
  | .joinx => Sys2Proof.Machine.execJoinx s
  | .sbset set clr => Sys2Proof.Machine.execSbset set clr s
  | .sbwaitSet m => Sys2Proof.Machine.execSbwaitSet m s
  | .sbwaitClr m => Sys2Proof.Machine.execSbwaitClr m s
  | .sbwaitTake m => Sys2Proof.Machine.execSbwaitTake m s
  | .endX => Sys2Proof.Machine.execEndX s
  | .knop g => Sys2Proof.Machine.execKnop g s
  | .kadd g d a b => Sys2Proof.Machine.execKadd g d a b s
  | .kaddi g d a n => Sys2Proof.Machine.execKaddi g d a n s
  | .ksub g d a b => Sys2Proof.Machine.execKsub g d a b s
  | .kand g d a b => Sys2Proof.Machine.execKand g d a b s
  | .kor g d a b => Sys2Proof.Machine.execKor g d a b s
  | .kxor g d a b => Sys2Proof.Machine.execKxor g d a b s
  | .ksll g d a b => Sys2Proof.Machine.execKsll g d a b s
  | .kslli g d a n => Sys2Proof.Machine.execKslli g d a n s
  | .ksrl g d a b => Sys2Proof.Machine.execKsrl g d a b s
  | .ksrli g d a n => Sys2Proof.Machine.execKsrli g d a n s
  | .ksra g d a b => Sys2Proof.Machine.execKsra g d a b s
  | .ksrai g d a n => Sys2Proof.Machine.execKsrai g d a n s
  | .kmul g d a b => Sys2Proof.Machine.execKmul g d a b s
  | .kmin g d a b => Sys2Proof.Machine.execKmin g d a b s
  | .kmax g d a b => Sys2Proof.Machine.execKmax g d a b s
  | .kminu g d a b => Sys2Proof.Machine.execKminu g d a b s
  | .kmaxu g d a b => Sys2Proof.Machine.execKmaxu g d a b s
  | .kslt g d a b => Sys2Proof.Machine.execKslt g d a b s
  | .ksltu g d a b => Sys2Proof.Machine.execKsltu g d a b s
  | .kli g d n => Sys2Proof.Machine.execKli g d n s
  | .klsh g d n => Sys2Proof.Machine.execKlsh g d n s
  | .kbfx g d a b => Sys2Proof.Machine.execKbfx g d a b s
  | .kpop g d q => Sys2Proof.Machine.execKpop g d q s
  | .kpush g a q => Sys2Proof.Machine.execKpush g a q s
  | .kcpg g n => Sys2Proof.Machine.execKcpg g n s
  | .kfadd g d a b => Sys2Proof.Machine.execKfadd g d a b s
  | .kfmul g d a b => Sys2Proof.Machine.execKfmul g d a b s
  | .kfmax g d a b => Sys2Proof.Machine.execKfmax g d a b s
  | .znop => Sys2Proof.Machine.execZnop s
  | .zreg a => Sys2Proof.Machine.execZreg a s
  | .zcmpEq a d c w => Sys2Proof.Machine.execZcmpEq a d c w s
  | .zcmpEqAnd a d e c w => Sys2Proof.Machine.execZcmpEqAnd a d e c w s
  | .zcmpEqOr a d e c w => Sys2Proof.Machine.execZcmpEqOr a d e c w s
  | .zcmpNe a d c w => Sys2Proof.Machine.execZcmpNe a d c w s
  | .zcmpNeAnd a d e c w => Sys2Proof.Machine.execZcmpNeAnd a d e c w s
  | .zcmpNeOr a d e c w => Sys2Proof.Machine.execZcmpNeOr a d e c w s
  | .zwr a d c w => Sys2Proof.Machine.execZwr a d c w s
  | .zwrc a d c w => Sys2Proof.Machine.execZwrc a d c w s
  | .zwrs a d c w => Sys2Proof.Machine.execZwrs a d c w s
  | .zfld c w => Sys2Proof.Machine.execZfld c w s
  | .zadd a d e c w => Sys2Proof.Machine.execZadd a d e c w s
  | .zsub a d e c w => Sys2Proof.Machine.execZsub a d e c w s
  | .zaddk a d e c w => Sys2Proof.Machine.execZaddk a d e c w s
  | .zsubk a d e c w => Sys2Proof.Machine.execZsubk a d e c w s
  | .zgt a d e c w => Sys2Proof.Machine.execZgt a d e c w s
  | .zlt a d e c w => Sys2Proof.Machine.execZlt a d e c w s
  | .zeqf a d e c w => Sys2Proof.Machine.execZeqf a d e c w s
  | .zgtk a d e c w => Sys2Proof.Machine.execZgtk a d e c w s
  | .zltk a d e c w => Sys2Proof.Machine.execZltk a d e c w s
  | .zmul a e c w => Sys2Proof.Machine.execZmul a e c w s
  | .zmov a d c w => Sys2Proof.Machine.execZmov a d c w s
  | .zcnt a e y => Sys2Proof.Machine.execZcnt a e y s
  | .zfirst a e y => Sys2Proof.Machine.execZfirst a e y s
  | .ztagAnd a d c e => Sys2Proof.Machine.execZtagAnd a d c e s
  | .ztagOr a d c e => Sys2Proof.Machine.execZtagOr a d c e s
  | .ztagXor a d c e => Sys2Proof.Machine.execZtagXor a d c e s
  | .ztagAndn a d c e => Sys2Proof.Machine.execZtagAndn a d c e s
  | .ztagMov a d c => Sys2Proof.Machine.execZtagMov a d c s
  | .ztagNot a d c => Sys2Proof.Machine.execZtagNot a d c s
  | .ztagSet a d => Sys2Proof.Machine.execZtagSet a d s
  | .ztagClr a d => Sys2Proof.Machine.execZtagClr a d s
  | .zscore a c => Sys2Proof.Machine.execZscore a c s
  | .zsel d a n => Sys2Proof.Machine.execZsel d a n s
  | .zins d n => Sys2Proof.Machine.execZins d n s
  | .zage c n => Sys2Proof.Machine.execZage c n s
  | .zageClr c n => Sys2Proof.Machine.execZageClr c n s
  | .zdel d c n => Sys2Proof.Machine.execZdel d c n s
  | .zspill d c n => Sys2Proof.Machine.execZspill d c n s
  | .zspillCnt d n => Sys2Proof.Machine.execZspillCnt d n s
  | .zkld => Sys2Proof.Machine.execZkld s
  | .zkset y c w => Sys2Proof.Machine.execZkset y c w s
  | .zkget y c w => Sys2Proof.Machine.execZkget y c w s
  | .yadd d a b => Sys2Proof.Machine.execYadd d a b s
  | .yaddi d a imm => Sys2Proof.Machine.execYaddi d a imm s
  | .ysub d a b => Sys2Proof.Machine.execYsub d a b s
  | .yli d imm => Sys2Proof.Machine.execYli d imm s
  | .yand d a b => Sys2Proof.Machine.execYand d a b s
  | .yor d a b => Sys2Proof.Machine.execYor d a b s
  | .ypush a => Sys2Proof.Machine.execYpush a s
  | .ypop d => Sys2Proof.Machine.execYpop d s
  | .zbr imm => Sys2Proof.Machine.execZbr imm s
  | .zbeq d a imm => Sys2Proof.Machine.execZbeq d a imm s
  | .zbne d a imm => Sys2Proof.Machine.execZbne d a imm s
  | .zloop d imm => Sys2Proof.Machine.execZloop d imm s
  | .zend => Sys2Proof.Machine.execZend s
  | .powerOn ok => Sys2Proof.Machine.execPowerOn ok s
  | .fullService => Sys2Proof.Machine.execFullService s
  | .fwReload keep => Sys2Proof.Machine.execFwReload keep s
  | .functionLevelReset fn => Sys2Proof.Machine.execFunctionLevelReset fn s
  | .linkInitialisation port => Sys2Proof.Machine.execLinkInitialisation port s
  | .ptmCorrection off => Sys2Proof.Machine.execPtmCorrection off s
  | .ppsPulse off => Sys2Proof.Machine.execPpsPulse off s
  | .hostRead fn off n => Sys2Proof.Machine.execHostRead fn off n s
  | .hostWrite fn off data => Sys2Proof.Machine.execHostWrite fn off data s
  | .peerRequest port fn va req => Sys2Proof.Machine.execPeerRequest port fn va req s
  | .sqtDoorbell fn tail => Sys2Proof.Machine.execSqtDoorbell fn tail s
  | .submissionEntry fn => Sys2Proof.Machine.execSubmissionEntry fn s
  | .kslotLoad owner slot => Sys2Proof.Machine.execKslotLoad owner slot s
  | .kslotUnload slot => Sys2Proof.Machine.execKslotUnload slot s
  | .lfpush frame kind => Sys2Proof.Machine.execLfpush frame kind s
  | .lfreq ia => Sys2Proof.Machine.execLfreq ia s
  | .taskQueueWordWrite q w => Sys2Proof.Machine.execTaskQueueWordWrite q w s
  | .mgerrClear => Sys2Proof.Machine.execMgerrClear s
  | .lostClear fn => Sys2Proof.Machine.execLostClear fn s
  | .frameTableUpdate ia e0 e1 => Sys2Proof.Machine.execFrameTableUpdate ia e0 e1 s
  | .registerWrite fn off v => Sys2Proof.Machine.execRegisterWrite fn off v s
  | .launchReady id => Sys2Proof.Machine.execLaunchReady id s
  | .deadlineReached id => Sys2Proof.Machine.execDeadlineReached id s
  | .dispatch die => Sys2Proof.Machine.execDispatch die s
  | .taskEnd core => Sys2Proof.Machine.execTaskEnd core s
  | .streamDeadlock core => Sys2Proof.Machine.execStreamDeadlock core s
  | .tileFull core t => Sys2Proof.Machine.execTileFull core t s
  | .vectorQueueEntryFilled core q => Sys2Proof.Machine.execVectorQueueEntryFilled core q s
  | .copyCompletion core slot => Sys2Proof.Machine.execCopyCompletion core slot s
  | .followOnMma core slot => Sys2Proof.Machine.execFollowOnMma core slot s
  | .mmaExecution core => Sys2Proof.Machine.execMmaExecution core s
  | .tfreeEffect core => Sys2Proof.Machine.execTfreeEffect core s
  | .accrdExecution core => Sys2Proof.Machine.execAccrdExecution core s
  | .acczeroExecution core => Sys2Proof.Machine.execAcczeroExecution core s
  | .frameWalk ctx ia kind => Sys2Proof.Machine.execFrameWalk ctx ia kind s
  | .tierMove ia tier frame => Sys2Proof.Machine.execTierMove ia tier frame s
  | .heatSweep => Sys2Proof.Machine.execHeatSweep s
  | .hintrepReport ctx lrec idx => Sys2Proof.Machine.execHintrepReport ctx lrec idx s
  | .quiescenceEpoch => Sys2Proof.Machine.execQuiescenceEpoch s
  | .quarantineRelease tier => Sys2Proof.Machine.execQuarantineRelease tier s
  | .stashWriteback core line => Sys2Proof.Machine.execStashWriteback core line s
  | .spillAcknowledgement core ent => Sys2Proof.Machine.execSpillAcknowledgement core ent s
  | .searchScan core slot => Sys2Proof.Machine.execSearchScan core slot s
  | .searchCompletion core slot => Sys2Proof.Machine.execSearchCompletion core slot s
  | .refreshDebtRepayment dram => Sys2Proof.Machine.execRefreshDebtRepayment dram s
  | .watchdog seq => Sys2Proof.Machine.execWatchdog seq s
  | .watchdogResetComplete seq => Sys2Proof.Machine.execWatchdogResetComplete seq s
  | .messageReceivable core seq => Sys2Proof.Machine.execMessageReceivable core seq s
  | .barrierRelease gang slot => Sys2Proof.Machine.execBarrierRelease gang slot s
  | .waitwWake core => Sys2Proof.Machine.execWaitwWake core s
  | .waitwTimeout core => Sys2Proof.Machine.execWaitwTimeout core s
  | .eventWindow core c => Sys2Proof.Machine.execEventWindow core c s
  | .slotTimer ctx imm => Sys2Proof.Machine.execSlotTimer ctx imm s
  | .finWrite ctx imm v => Sys2Proof.Machine.execFinWrite ctx imm v s
  | .sluice ctx imm => Sys2Proof.Machine.execSluice ctx imm s
  | .sluiceMemoryWork ctx imm => Sys2Proof.Machine.execSluiceMemoryWork ctx imm s
  | .silenceEviction ctx imm => Sys2Proof.Machine.execSilenceEviction ctx imm s
  | .evictionComplete ctx imm => Sys2Proof.Machine.execEvictionComplete ctx imm s
  | .powerTierEntry => Sys2Proof.Machine.execPowerTierEntry s
  | .powerTierExit => Sys2Proof.Machine.execPowerTierExit s
  | .trapDelivery core => Sys2Proof.Machine.execTrapDelivery core s
  | .pmreqWrite ctx v => Sys2Proof.Machine.execPmreqWrite ctx v s
  | .regionCreate ctx v => Sys2Proof.Machine.execRegionCreate ctx v s
  | .regionRelease ctx v => Sys2Proof.Machine.execRegionRelease ctx v s
  | .regionBind ctx v => Sys2Proof.Machine.execRegionBind ctx v s
  | .tqselWrite ctx v => Sys2Proof.Machine.execTqselWrite ctx v s
  | .dikeWrite ctx v => Sys2Proof.Machine.execDikeWrite ctx v s
  | .ftopWrite ctx v => Sys2Proof.Machine.execFtopWrite ctx v s
  | .bfmtWrite core n v => Sys2Proof.Machine.execBfmtWrite core n v s
  | .windowWrite ctx n v => Sys2Proof.Machine.execWindowWrite ctx n v s
  | .stbaseWrite ctx n v => Sys2Proof.Machine.execStbaseWrite ctx n v s
  | .trbaseWrite ctx v => Sys2Proof.Machine.execTrbaseWrite ctx v s
  | .svbaseWrite ctx n v => Sys2Proof.Machine.execSvbaseWrite ctx n v s
  | .evtotClear ctx c => Sys2Proof.Machine.execEvtotClear ctx c s
  | .replcClear ctx => Sys2Proof.Machine.execReplcClear ctx s
  | .zslogClear ctx => Sys2Proof.Machine.execZslogClear ctx s
  | .vlogClear ctx => Sys2Proof.Machine.execVlogClear ctx s
  | .mclogClear ctx => Sys2Proof.Machine.execMclogClear ctx s
  | .hintrepClear ctx => Sys2Proof.Machine.execHintrepClear ctx s
  | .powerOff => Sys2Proof.Machine.execPowerOff s
  | .accessPerformed k => Sys2Proof.Machine.execAccessPerformed k s
  | .remoteWriteAcknowledgement k => Sys2Proof.Machine.execRemoteWriteAcknowledgement k s
  | .firmwareStateError => Sys2Proof.Machine.execFirmwareStateError s
  | .firmwareLoadComplete ok => Sys2Proof.Machine.execFirmwareLoadComplete ok s
  | .arithmeticClockChange mhz => Sys2Proof.Machine.execArithmeticClockChange mhz s

end Sys2Proof.Machine
end

