-- ==== Sys2Proof/Machine/Marks.lean ====
section
/-! DEFINITION. Uncorrectable errors in registers and queues (R389): what each instruction reads, 0x10 at the word for
registers that stop it, and zero for vector lanes and queue entries. -/

namespace Sys2Proof.Machine

/-- What an instruction reads that may have an uncorrectable error. -/
inductive Src where
  /-- S[n] -/
  | s (n : Nat)
  /-- K[n] of every cluster that the stream drives (`k`); of the acting cluster, for a slot that writes some copy (`k0`), or for one
  that acts under the acting cluster's own guard (`kc`) -/
  | k (n : Nat)
  | k0 (n : Nat)
  | kc (n : Nat)
  /-- Y[n] -/
  | y (n : Nat)
  | zk
  /-- loop register n -/
  | lc (n : Nat)
  /-- predicate n, as an operand or as the guard -/
  | p (n : Nat)
  | gp (n : Nat)
  /-- vector register n: the guard's lanes (0), every lane of the span (1), the span's first ten lanes (2) -/
  | v (n how : Nat)
  /-- the head of `qv`j, in the same way -/
  | qv (j how : Nat)
  /-- the head of the queue at place i of Q28 and Q29 -/
  | head (i : Nat)
  deriving DecidableEq, Repr

/-- The predicate of a guard. -/
def guardSrcs (g : XGuard) : List Src := if g.gpred = 127 then [] else [.gp g.gpred]

/-- A vector-slot operand. -/
def opSrcs (how : Nat) : VOp → List Src
  | .vec n => if n ≤ 59 then [.v n how] else [.qv (n - 60) how]
  | .k n => [.k n]
  | _ => []

/-- A matrix operand: a k register of the acting cluster. -/
def matSrcs : VOp → List Src
  | .k n => [.k0 n]
  | _ => []

/-- A layout record in twelve registers or in the scratchpad (R242). -/
def recSrcs (mem a : Nat) : List Src := if mem = 0 then (List.range 12).map fun i => .s (a + i) else [.s a]

/-- The increment of a loop or a repeat (R137, R138). -/
def loopSrcs (inc ki ks : Nat) : List Src := if inc = 1 then [.k ki, .k ks] else []

/-- What an instruction reads of registers and queue entries. -/
def srcsOf : Instr → List Src
  | .add _ a b | .sub _ a b | .and _ a b | .or _ a b | .xor _ a b | .andn _ a b | .sll _ a b | .srl _ a b | .sra _ a b |
    .rol _ a b | .slt _ a b | .sltu _ a b | .min _ a b | .max _ a b | .minu _ a b | .maxu _ a b | .mul _ a b | .mulh _ a b |
    .mulhu _ a b | .div _ a b | .divu _ a b | .rem _ a b | .remu _ a b | .bhash _ a b | .fsh _ a b _ | .vldS _ a b |
    .amoAddRlx _ a b _ _ | .amoAndRlx _ a b _ _ | .amoOrRlx _ a b _ _ | .amoXorRlx _ a b _ _ | .amoMinRlx _ a b _ _ |
    .amoMaxRlx _ a b _ _ | .amoMinuRlx _ a b _ _ | .amoMaxuRlx _ a b _ _ | .amoSwapRlx _ a b _ _ | .amoFaddRlx _ a b _ |
    .amoFmaxRlx _ a b _ | .amoFminRlx _ a b _ | .amoAddAcq _ a b _ _ | .amoAndAcq _ a b _ _ | .amoOrAcq _ a b _ _ |
    .amoXorAcq _ a b _ _ | .amoMinAcq _ a b _ _ | .amoMaxAcq _ a b _ _ | .amoMinuAcq _ a b _ _ | .amoMaxuAcq _ a b _ _ |
    .amoSwapAcq _ a b _ _ | .amoFaddAcq _ a b _ | .amoFmaxAcq _ a b _ | .amoFminAcq _ a b _ | .amoAddRel _ a b _ _ |
    .amoAndRel _ a b _ _ | .amoOrRel _ a b _ _ | .amoXorRel _ a b _ _ | .amoMinRel _ a b _ _ | .amoMaxRel _ a b _ _ |
    .amoMinuRel _ a b _ _ | .amoMaxuRel _ a b _ _ | .amoSwapRel _ a b _ _ | .amoFaddRel _ a b _ | .amoFmaxRel _ a b _ |
    .amoFminRel _ a b _ | .amoAddRc _ a b _ _ | .amoAndRc _ a b _ _ | .amoOrRc _ a b _ _ | .amoXorRc _ a b _ _ |
    .amoMinRc _ a b _ _ | .amoMaxRc _ a b _ _ | .amoMinuRc _ a b _ _ | .amoMaxuRc _ a b _ _ | .amoSwapRc _ a b _ _ |
    .amoFaddRc _ a b _ | .amoFmaxRc _ a b _ | .amoFminRc _ a b _ | .resv _ a b | .disc _ a b _ | .migr _ a b _ |
    .pin _ a b | .unpin _ a b | .srch _ a b _ | .scommit _ a b | .trunc _ a b | .sread _ a b | .sarmCreate _ a b |
    .sarmArm _ a b | .sarmDisarm _ a b | .sarmRetire _ a b | .sarmEvict _ a b | .beq a b _ | .bne a b _ | .blt a b _ |
    .bge a b _ | .bltu a b _ | .bgeu a b _ => [.s a, .s b]
  | .popc _ a | .clz _ a | .ctz _ a | .sextB _ a | .sextH _ a | .sextW _ a | .addi _ a _ | .andi _ a _ | .ori _ a _ |
    .xori _ a _ | .slti _ a _ | .sltiu _ a _ | .slli _ a _ | .srli _ a _ | .srai _ a _ | .roli _ a _ | .bfx _ a _ _ |
    .bfxS _ a _ _ | .ldB _ a _ _ | .ldH _ a _ _ | .ldW _ a _ _ | .ldD _ a _ _ | .ldBs _ a _ _ | .ldHs _ a _ _ |
    .ldWs _ a _ _ | .vld _ a | .vldBc _ a | .qpush _ a | .wlc _ a | .cancel a | .hwait a | .htest _ a | .launch a |
    .mts a _ _ | .bez a _ | .bnz a _ | .bltz a _ | .bgez a _ | .bgtz a _ | .blez a _ | .jr a | .jalr _ a => [.s a]
  | .li _ _ | .fenceAcq _ | .fenceRel _ | .fenceAr _ | .fenceDrain _ | .irv | .endA | .barArr _ _ | .barWait _ _ |
    .barSync _ _ | .nop | .ecall _ _ | .eret | .trap _ _ | .brk _ _ | .br _ | .call _ _ | .tfree _ | .balloc _ _ |
    .forkx _ _ _ | .joinx | .sbset _ _ | .sbwaitSet _ | .sbwaitClr _ | .sbwaitTake _ | .endX | .znop | .zwrc _ _ _ _ |
    .zwrs _ _ _ _ | .zfld _ _ | .zadd _ _ _ _ _ | .zsub _ _ _ _ _ | .zgt _ _ _ _ _ | .zlt _ _ _ _ _ | .zeqf _ _ _ _ _ |
    .zmul _ _ _ _ | .zmov _ _ _ _ | .zcnt _ _ _ | .zfirst _ _ _ | .ztagAnd _ _ _ _ | .ztagOr _ _ _ _ | .ztagXor _ _ _ _ |
    .ztagAndn _ _ _ _ | .ztagMov _ _ _ | .ztagNot _ _ _ | .ztagSet _ _ | .ztagClr _ _ | .zage _ _ | .zageClr _ _ |
    .zdel _ _ _ | .zspill _ _ _ | .zspillCnt _ _ | .yli _ _ | .zbr _ | .zend | .powerOn _ | .fullService | .fwReload _ |
    .functionLevelReset _ | .linkInitialisation _ | .ptmCorrection _ | .ppsPulse _ | .hostRead _ _ _ | .hostWrite _ _ _ |
    .peerRequest _ _ _ _ | .sqtDoorbell _ _ | .submissionEntry _ | .kslotLoad _ _ | .kslotUnload _ | .lfpush _ _ |
    .lfreq _ | .taskQueueWordWrite _ _ | .mgerrClear | .lostClear _ | .frameTableUpdate _ _ _ | .registerWrite _ _ _ |
    .launchReady _ | .deadlineReached _ | .dispatch _ | .taskEnd _ | .streamDeadlock _ | .tileFull _ _ |
    .vectorQueueEntryFilled _ _ | .copyCompletion _ _ | .followOnMma _ _ | .mmaExecution _ | .tfreeEffect _ |
    .accrdExecution _ | .acczeroExecution _ | .frameWalk _ _ _ | .tierMove _ _ _ | .heatSweep | .hintrepReport _ _ _ |
    .quiescenceEpoch | .quarantineRelease _ | .stashWriteback _ _ | .spillAcknowledgement _ _ | .searchScan _ _ |
    .searchCompletion _ _ | .refreshDebtRepayment _ | .watchdog _ | .watchdogResetComplete _ | .messageReceivable _ _ |
    .barrierRelease _ _ | .waitwWake _ | .waitwTimeout _ | .eventWindow _ _ | .slotTimer _ _ | .finWrite _ _ _ |
    .sluice _ _ | .sluiceMemoryWork _ _ | .silenceEviction _ _ | .evictionComplete _ _ | .powerTierEntry | .powerTierExit |
    .trapDelivery _ | .pmreqWrite _ _ | .regionCreate _ _ | .regionRelease _ _ | .regionBind _ _ | .tqselWrite _ _ |
    .dikeWrite _ _ | .ftopWrite _ _ | .bfmtWrite _ _ _ | .windowWrite _ _ _ | .stbaseWrite _ _ _ | .trbaseWrite _ _ |
    .svbaseWrite _ _ _ | .evtotClear _ _ | .replcClear _ | .zslogClear _ | .vlogClear _ | .mclogClear _ | .hintrepClear _ |
    .powerOff | .accessPerformed _ | .remoteWriteAcknowledgement _ | .firmwareStateError | .firmwareLoadComplete _ |
    .arithmeticClockChange _ => []
  | .lsi d _ => [.s d]
  | .bfi d a _ _ | .stB d a _ _ | .stH d a _ _ | .stW d a _ _ | .stD d a _ _ => [.s a, .s d]
  | .qpop _ q => [.head (if q < 2 then 6 + q else 10)]
  | .copy _ a b y x _ | .gather _ a b y x _ | .scatter _ a b y x _ |
    .rcopy _ a b y x _ => recSrcs x a ++ (if y = 0 ∧ b = 0 then [] else recSrcs y b)
  | .copyMma d a b y x _ => recSrcs x a ++ recSrcs y b ++ [.s d]
  | .amoCasRlx d a b _ _ | .amoCasAcq d a b _ _ | .amoCasRel d a b _ _ | .amoCasRc d a b _ _ | .waitwEq d a b |
    .waitwNe d a b | .waitwGeu d a b | .waitwLtu d a b | .fork d a b _ => [.s a, .s b, .s d]
  | .msend _ a b _ => .s b :: (List.range 8).map fun i => .s (a + i)
  | .mrecv _ _ b => [.s b]
  | .mfs _ n m => if 24 ≤ 8 * n + m ∧ 8 * n + m < 32 then [.lc (8 * n + m - 24)] else []
  | .vnop g | .pset g _ | .pclr g _ => guardSrcs g
  | .fadd g _ _ a b | .fsub g _ _ a b | .fmul g _ _ a b | .fmin g _ a b | .fmax g _ a b | .hadd g _ _ _ a b |
    .hsub g _ _ _ a b | .hmul g _ _ _ a b | .hmin g _ _ a b | .hmax g _ _ a b | .iadd g _ _ a b | .isub g _ _ a b |
    .imul g _ _ a b | .imulh g _ _ a b | .imulhu g _ _ a b | .iand g _ _ a b | .ior g _ _ a b | .ixor g _ _ a b |
    .iandn g _ _ a b | .isll g _ _ a b | .isrl g _ _ a b | .isra g _ _ a b | .imin g _ _ a b | .imax g _ _ a b |
    .iminu g _ _ a b | .imaxu g _ _ a b | .iadds g _ _ a b | .iaddus g _ _ a b | .isubs g _ _ a b | .isubus g _ _ a b |
    .fcmp g _ _ a b | .icmp g _ _ a b | .mxdq g _ _ a b | .tsqTsf8w g _ _ a b | .tsdq g _ _ a b | .vbfx g _ _ a b |
    .vbfxS g _ _ a b | .vfsh g _ _ a b | .lgth g _ _ a b | .lld g _ _ a b => guardSrcs g ++ opSrcs 0 a ++ opSrcs 0 b
  | .fma g _ d a b | .fms g _ d a b | .fnma g _ d a b | .hfma g _ _ d a b | .lsct g _ d a b |
    .lst g _ d a b => guardSrcs g ++ opSrcs 0 a ++ opSrcs 0 b ++ [.v d 0]
  | .fabs g _ a | .fneg g _ a | .rcp g _ _ a | .rsqrt g _ _ a | .exp2 g _ _ a | .log2 g _ _ a | .iabs g _ _ a |
    .cvt g _ _ _ a | .cvtF32 g _ _ _ a | .mxq g _ _ _ a _ | .tsqTsf8a g _ _ a _ | .fredsum g _ _ _ a | .fredmax g _ _ a |
    .fredmin g _ _ a | .iredsum g _ _ a | .iredmax g _ _ a | .iredmin g _ _ a | .iredmaxu g _ _ a |
    .iredminu g _ _ a => guardSrcs g ++ opSrcs 0 a
  | .sel g p _ a b => guardSrcs g ++ opSrcs 0 a ++ opSrcs 0 b ++ [.p p]
  | .pand g _ pa pb | .por g _ pa pb | .pxor g _ pa pb | .pandn g _ pa pb | .porn g _ pa pb => guardSrcs g ++ [.p pa, .p pb]
  | .pnot g _ pa => guardSrcs g ++ [.p pa]
  | .vperm g _ a b | .vbcast g _ a b | .vrot g _ a b | .vshl g _ a b | .vshr g _ a b | .vzip g _ a b |
    .vunzip g _ a b => guardSrcs g ++ opSrcs 1 a ++ opSrcs 1 b
  | .vcomp g _ a p => guardSrcs g ++ opSrcs 1 a ++ [.p p]
  | .zpush a => opSrcs 2 a
  | .tld _ a b | .mma _ _ _ a b | .mmaTs _ a b | .mmaMx _ _ _ a b => matSrcs a ++ matSrcs b
  | .accrd _ _ _ a | .acczero a _ | .bfree a _ => matSrcs a
  | .msig _ a b => opSrcs 1 a ++ opSrcs 1 b
  | .loop lc inc ki ks _ => loopSrcs inc ki ks ++ [.lc lc]
  | .rep src inc ki ks c => loopSrcs inc ki ks ++ (if src = 1 then [.lc (c % 8)] else [])
  | .knop g | .kli g _ _ | .kcpg g _ => guardSrcs g ++ []
  | .kadd g _ a b | .ksub g _ a b | .kand g _ a b | .kor g _ a b | .kxor g _ a b | .ksll g _ a b | .ksrl g _ a b |
    .ksra g _ a b | .kmul g _ a b | .kmin g _ a b | .kmax g _ a b | .kminu g _ a b | .kmaxu g _ a b | .kslt g _ a b |
    .ksltu g _ a b | .kbfx g _ a b | .kfadd g _ a b | .kfmul g _ a b | .kfmax g _ a b => guardSrcs g ++ [.k0 a, .k0 b]
  | .kaddi g _ a _ | .kslli g _ a _ | .ksrli g _ a _ | .ksrai g _ a _ => guardSrcs g ++ [.k0 a]
  | .kpush g a _ => guardSrcs g ++ [.kc a]
  | .klsh g d _ => guardSrcs g ++ [.k0 d]
  | .kpop g _ q => guardSrcs g ++ [.head (4 + q)]
  | .zreg a | .yaddi _ a _ | .ypush a => [.y a]
  | .zcmpEq _ _ _ _ | .zcmpEqAnd _ _ _ _ _ | .zcmpEqOr _ _ _ _ _ | .zcmpNe _ _ _ _ | .zcmpNeAnd _ _ _ _ _ |
    .zcmpNeOr _ _ _ _ _ | .zwr _ _ _ _ | .zaddk _ _ _ _ _ | .zsubk _ _ _ _ _ | .zgtk _ _ _ _ _ | .zltk _ _ _ _ _ |
    .zscore _ _ | .zins _ _ | .zkget _ _ _ => [.zk]
  | .zsel _ a _ => (List.range 8).map fun i => .y (a + i)
  | .zkld => [.head 8]
  | .zkset y _ _ => [.y y, .zk]
  | .yadd _ a b | .ysub _ a b | .yand _ a b | .yor _ a b => [.y a, .y b]
  | .ypop _ => [.head 9]
  | .zbeq d a _ | .zbne d a _ => [.y d, .y a]
  | .zloop d _ => [.y d]

/-- Lane l of the pair word's guard; a word without one acts. -/
def State.latchOn (s : State) (l : Nat) : Bool := (s.latch.map fun x => x.guard.getLsbD l).getD true

/-- The word's guard is true in some lane of a cluster (R50). -/
def State.actsIn (s : State) (c : Nat) : Bool := (List.range 256).any fun i => s.latchOn (256 * c + i)

/-- The vector slot acts in some lane; the scalar slot writes some copy (R50, R103). -/
def State.acts (s : State) : Bool := (clustersOf s.strmNo).any s.actsIn
def State.kActs (s : State) : Bool := (clustersOf s.strmNo).any fun c => s.latchOn (256 * c)

/-- The places of a source among the marks of a core's registers; s0 has none. A slot or lane whose guard is false reads nothing (R50). -/
def State.cellsOf (s : State) : Src → List Nat
  | .s n => if n = 0 then [] else [n]
  | .k n => ((clustersOf s.strmNo).filter s.actsIn).map fun c => 128 + 32 * c + n
  | .k0 n => if s.kActs then [128 + 32 * s.xCluster + n] else []
  | .kc n => if s.latchOn (256 * s.xCluster) then [128 + 32 * s.xCluster + n] else []
  | .y n => [96 + n]
  | .zk => [80]
  | .lc n => [64 + n]
  | .p n => if s.acts then [256 + n] else []
  | .gp n => [256 + n]
  | _ => []

/-- One of the sources is a register with an uncorrectable error. -/
def State.readsBad (s : State) (xs : List Src) : Bool :=
  match s.cur with
  | .seqr q => xs.any fun x => (s.cellsOf x).any fun i => decide (i < 64) && (s.seqrAt q).bad.get false i
  | _ => xs.any fun x => (s.cellsOf x).any fun i => s.core.ecc.reg.get false i

/-- Nothing that the acting stream could read has an uncorrectable error. -/
def State.unmarked (s : State) : Bool :=
  match s.cur with
  | .seqr q => (s.seqrAt q).bad.isEmpty
  | _ =>
    let e := s.core.ecc
    e.reg.isEmpty && e.lane.isEmpty && e.que.isEmpty && s.core.q.qv.all fun x => x.2.all fun e => e.bad.isEmpty

/-- The lanes of the acting span that a source reads. -/
def State.lanesRead (s : State) (how : Nat) : List Nat :=
  let b := s.span
  ((List.range b.2).filter fun i =>
    match how with
    | 0 => s.latchOn (b.1 + i)
    | 1 => s.acts
    | _ => decide (i < 10)).map (b.1 + ·)

/-- The elements of a source that have an uncorrectable error become zero with fresh check bits, and class 5 counts each
once (R389). -/
def State.scrub (s : State) (x : Src) : State :=
  let c := s.core
  let count (s : State) (n : Nat) : State := s.countEvs s.coreNo (s.coreCtx s.coreNo) s.strmNo.code 0 { zsub := n }
  match x with
  | .v n how =>
    let ls := (s.lanesRead how).filter fun l => c.ecc.lane.get false (1024 * n + l)
    if ls = [] then s else
    let c := { c with
      v := c.v.set [] n (ls.foldl (fun v l => v.set 0 l 0) (c.vreg n))
      ecc := { c.ecc with lane := ls.foldl (fun m l => m.set false (1024 * n + l) false) c.ecc.lane } }
    count (s.putCore c) ls.length
  | .qv j how =>
    let ls := s.lanesRead how
    let at_ (l : Nat) : Nat := c.q.hv.get 0 (4 * j + l / 256)
    let es := c.q.qv.get [] j
    let bad (i l : Nat) : Bool := decide (at_ l = i) && ((es[i]?.getD {}).bad.get false l)
    let n := (ls.filter fun l => bad (at_ l) l).length
    if n = 0 then s else
    let es' : List VEntry := es.zipIdx.map fun (e : VEntry × Nat) =>
      let ms := ls.filter (bad e.2)
      { e.1 with
        lanes := ms.foldl (fun v l => v.set 0 l 0) e.1.lanes
        bad := ms.foldl (fun m l => m.set false l false) e.1.bad }
    count (s.putCore { c with q := { c.q with qv := c.q.qv.set [] j es' } }) n
  | .head i =>
    let p := if i < 6 then c.q.hs.get 0 (4 * (i - 4) + s.xCluster) else 0
    if !c.ecc.que.get false (32 * i + p) then s else
    let q := c.q
    let q :=
      if i < 6 then { q with qs := q.qs.set [] (i - 4) ((q.qs.get [] (i - 4)).set p 0) }
      else if i < 8 then { q with qx := q.qx.set [] (i - 6) ((q.qx.get [] (i - 6)).set p 0) }
      else if i = 8 then { q with qz0 := q.qz0.set p 0 }
      else if i = 9 then { q with qz1 := q.qz1.set p 0 }
      else { q with qy0 := q.qy0.set p 0 }
    count (s.putCore { c with q := q, ecc := { c.ecc with que := c.ecc.que.set false (32 * i + p) false } }) 1
  | _ => s

/-- The fault that a step took is one of the first three checks of R42, which come before 0x10. -/
def State.earlyFault (s : State) : Bool :=
  match s.cur with
  | .seqr q =>
    match s.partner? q with
    | some c => match (c.inBox.get {} q).err with | some e => decide (bf e.1 7 0 ≤ 3) | none => false
    | none => false
  | _ => decide (bf (s.core.rcd.get 0 0) 7 0 ≤ 3)

/-- An instruction that reads the given sources runs (R389): a register with an uncorrectable error raises 0x10, precise at
the word and after the first three checks of R42; marked lanes and queue entries are zero for it. -/
def State.eccRun (s : State) (xs : List Src) (run : State → Out) : Out :=
  if s.unmarked then run s else
  match run s with
  | .next t =>
    if t.note = .faulted ∧ t.earlyFault then .next t
    else if s.readsBad xs then runM (fail { code := 0x10 }) s
    else if t.note = .done then run (xs.foldl State.scrub s)
    else .next t
  | o => o

end Sys2Proof.Machine
end

