-- ==== Sys2Proof/Machine/Step.lean ====
section
/-! DEFINITION. One step of the machine: the turn of one agent. A stream's turn takes the exception that is due at its
boundary, or fetches, decodes and executes one word. -/

namespace Sys2Proof.Machine

/-- A word of the A-stream or of a sequencer (R40 to R42). -/
def stepA (s : State) : Out :=
  fetched 4 s fun w t =>
    match decodeA w with
    | .ok i => t.eccRun (srcsOf i) (exec (t.resolve i))
    | .error _ => illegal t

/-- A word of the Z-stream. -/
noncomputable def stepZ (s : State) : Out :=
  fetched 4 s fun w t =>
    match decodeZ w with
    | .ok i => t.eccRun (srcsOf i) (exec i)
    | .error _ => illegal t

/-- A pair word of the X-stream or of one cluster (R41, R49). -/
noncomputable def stepX (s : State) : Out :=
  fetched 8 s fun w t =>
    match decodeX w with
    | .ok x =>
      let u := t.latchX ⟨fld w 63 63, fld w 62 56⟩
      let v := u.eccRun (srcsOf x.v ++ srcsOf x.k) (exec x.v)
      if isControl w then controlOut t v else pairOut t v (exec x.k)
    | .error _ => illegal t

/-- The turn of a stream of a core. -/
noncomputable def stepStream (c : Nat) (st : Strm) (s : State) : Out :=
  if (s.coreAt c).hasTurn st then
    match s.boundary? with
    | some o => o
    | none =>
      if (s.coreAt c).canRun st then
        if (s.coreAt c).awaitsAccrd st then .next (s.waits .mqFull)
        else
          match st with
          | .a => stepA s
          | .z => stepZ s
          | _ => stepX s
      else .next s
  else .next s

/-- The turn of the agent that acts. -/
noncomputable def stepTurn (s : State) : Out :=
  match s.cur with
  | .strm c st => if s.halted then .next s else stepDead c (stepStream c st s)
  | .seqr n => if (s.seqrAt n).running && !(s.seqrAt n).resetting && !s.halted then stepA s else .next s
  | .dev i => if isEvent i then exec i s else .next s
  | .time n => .next (s.pass n)

/-- One step of the machine. -/
noncomputable def step (s : State) : Host.Outcome State Fault Refusal := stepTurn s.takeTurn

/-- The bytes of an instruction at intermediate address 0, in a frame table whose first page is valid, in HBM, and owned
by context 0; the tables stand behind the frame. -/
def fetchMem (m : Sparse Byte) (w : Nat) : Sparse Byte :=
  let m := m.setBytes (physKey 0 0) (wordBytes 8 w)
  let m := m.setBytes (physKey 0 0x10000) (leBytes 8 (2 ^ 63 + 0x20000))
  m.setBytes (physKey 0 0x20000) (leBytes 8 (2 ^ 63) ++ leBytes 8 0)

/-- The stream that an instruction of the table's nbits goes to. -/
def strmFor (nbits w : Nat) : Strm :=
  if 32 < nbits then .x
  else
    match decodeA (w % 2 ^ 32) with
    | .ok _ => .a
    | .error _ => .z

/-- s with the instruction as the next word of a stream of core 0: a task of context 0 runs there, its window 0 maps the
first 64 KiB of the address space, executable, to a frame that holds the word, and the turn is the stream's. -/
def State.withFetchWord (s : State) (nbits w : Nat) : State :=
  let st := strmFor nbits w
  let c := s.coreAt 0
  let t : Task := { lrec := [] }
  let c := { c with task := some t, frozen := none, due := [], eng := [], forked := false, reps := [], loops := [], waitw := none, barSync := none,
                    trunc := none, launchRec := none, zflt := none, held := [] }
  let c := { c with mx := { c.mx with mq := [], wait := [] } }
  let c := c.setStrm st { st := .running, pc := 0 }
  let s := s.setCore 0 c
  let s := (((s.setSr 0 256 0).setSr 0 257 0x10000).setSr 0 258 0).setSr 0 259 0xF
  let s := s.setSr 0 403 0
  let s := ((s.setSr 0 407 0).setSr 0 411 0).setSr 0 415 0
  { s with
    agenda := [.strm 0 st]
    mg := (s.mg.set 0 0x1080 0x10000).set 0 0x3018 0
    mem := fetchMem s.mem w
    lkey := ((s.lkey.set 0 0 0).set 0 (0x10000 / 128) 0).set 0 (0x20000 / 128) 0
    badWord := [] }

end Sys2Proof.Machine
end

