-- ==== Sys2Proof/Safety.lean ====
section
/-! DEFINITION. What a safe run is, and what the statements say of memory and of a core: conditions on a state, in the spec's
terms. -/

namespace Sys2Proof.Machine

/-- A store of bytes is in its canonical form. -/
abbrev Memory.wf (m : Sparse Byte) : Bool := Sparse.wf 0 m

/-- The backed memory and the polder bytes are in their canonical form. -/
def State.memWf (s : State) : Bool := Memory.wf s.mem && Memory.wf s.pol

/-- Steps that never reach an address that no tier has. -/
def State.safeFor : Nat → State → Prop
  | 0, _ => True
  | n + 1, s =>
    match step s with
    | .next t => t.safeFor n
    | .fault _ => False
    | .refused _ => True

/-- The n bytes at an intermediate address lie in one 4 KiB piece of a backed page of the context: no peer window shows them, the
words that their walk reads are sound, their entry is present and the context's, their frame exists, the device is in full service, and their bytes
(at key k of memory) were stored under the page's key and have no uncorrectable error; and no stash holds a line (R206 to R209,
R365, R389, R199). -/
structure Mapped (s : State) (ctx ia n : Nat) (e : Entry) (k : Nat) : Prop where
  piece : 0 < n ∧ ia % 4096 + n ≤ 4096
  noPeer : s.peerWin? ctx ia = none
  entry : s.entry? ia = some e
  goodWalk : s.walkBad? ia = none
  present : e.absent = false
  owner : e.ctx = ctx
  backed : e.pol = false
  inTier : e.frame + ia % e.size < tierSize e.tier
  service : s.reduced = false
  key : k = physKey e.tier (e.frame + ia % e.size)
  clean : s.badIn k n = false
  readable : ∀ i, i < n → s.lkey.get 0 ((k + i) / 128) = 0 ∨ s.lkey.get 0 ((k + i) / 128) = s.lineTag e (ia + i)
  unstashed : ∀ a, s.stashed a = []

/-- The n bytes at a virtual address are such memory for a request of a stream: a window translates them with the permissions (R202),
and no granted store of the requester waits (R262). -/
structure Plain (s : State) (q : Req) (va n : Nat) (p : Perm) (ia : Nat) (e : Entry) (k : Nat) : Prop extends
    Mapped s q.ctx ia n e k where
  xlate : s.translate? q va n p = .ok ia
  window : s.winBad q.ctx va = false
  settled : ∀ o ∈ s.pend, o.agent ≠ q.ag
  agent : q.ag < 8192

/-- A core's A-stream has nothing outstanding: no granted store of it waits (R262), its stash is empty (R199), its task is not in a
replayable region and holds no stores back (R36), and no write of it is on its way beyond the device (R275). -/
structure Settled (s : State) (c : Nat) : Prop where
  stores : ∀ o ∈ s.pend, o.agent ≠ c
  lines : (s.coreAt c).stLine = []
  windows : (s.coreAt c).stash = []
  held : (s.coreAt c).held = []
  region : (s.coreAt c).inRegion = false
  remote : ∀ r ∈ s.remote, r.agent ≠ c

/-- A core runs a task, is not frozen, and has no command, vector load or tile load in flight (R375). -/
structure Still (s : State) (c : Nat) : Prop where
  task : (s.coreAt c).task.isSome = true
  frozen : (s.coreAt c).frozen = none
  engines : (s.coreAt c).eng = []
  loads : (s.coreAt c).q.qv = []
  tiles : (s.coreAt c).mx.tst = []

/-- No event class of a context has a window, so that no threshold of R91 can be passed. -/
def State.noThreshold (s : State) (ctx : Nat) : Prop := ∀ c, (s.evCfg ctx c).2.1 = 0

/-- A halted device does none of its own work (R393); this one is not halted. -/
def State.live (s : State) : Prop := s.halted = false

end Sys2Proof.Machine
end

