-- ==== Sys2Proof/Certificates/Slice0/Obligations.lean ====
section
/-! DEFINITION. The statements for the provers, one definition each, and the terms that they use. -/

open Sys2Proof Sys2Proof.Machine

/-- The register-register operations of two sources, each with what Table 4.1 writes to S[d]. -/
def Sys2Proof.Claims.binaryOps : List ((Nat → Nat → Nat → Instr) × (Word → Word → Word)) :=
  [(.add, fun a b => a + b), (.sub, fun a b => a - b), (.and, fun a b => a &&& b), (.or, fun a b => a ||| b),
   (.xor, fun a b => a ^^^ b), (.andn, fun a b => a &&& ~~~b),
   (.sll, fun a b => a <<< (b.toNat % 64)), (.srl, fun a b => a >>> (b.toNat % 64)),
   (.sra, fun a b => a.sshiftRight (b.toNat % 64)), (.rol, fun a b => a.rotateLeft (b.toNat % 64)),
   (.slt, fun a b => if a.toInt < b.toInt then 1 else 0), (.sltu, fun a b => if a.toNat < b.toNat then 1 else 0),
   (.min, fun a b => if a.toInt ≤ b.toInt then a else b), (.max, fun a b => if a.toInt ≤ b.toInt then b else a),
   (.minu, fun a b => if a.toNat ≤ b.toNat then a else b), (.maxu, fun a b => if a.toNat ≤ b.toNat then b else a),
   (.mul, fun a b => a * b), (.mulh, fun a b => BitVec.ofInt 64 (a.toInt * b.toInt / 2 ^ 64)),
   (.mulhu, fun a b => BitVec.ofNat 64 (a.toNat * b.toNat / 2 ^ 64)),
   (.bhash, fun a b => a.rotateLeft 8 ^^^ (b >>> 32).rotateLeft 4 ^^^ (b &&& 0xFFFFFFFF))]

/-- The register-register operations of one source, each with what Table 4.1 writes to S[d]. -/
def Sys2Proof.Claims.unaryOps : List ((Nat → Nat → Instr) × (Word → Word)) :=
  [(.popc, fun a => BitVec.ofNat 64 ((List.range 64).countP a.getLsbD)),
   (.clz, fun a => BitVec.ofNat 64 ((List.range 64).takeWhile fun i => !a.getLsbD (63 - i)).length),
   (.ctz, fun a => BitVec.ofNat 64 ((List.range 64).takeWhile fun i => !a.getLsbD i).length),
   (.sextB, fun a => (a.setWidth 8).signExtend 64), (.sextH, fun a => (a.setWidth 16).signExtend 64),
   (.sextW, fun a => (a.setWidth 32).signExtend 64)]

open Sys2Proof.Claims

/-- R92, R94, R95, Table 4.1: every register-register operation but the divisions completes, writes S[d] and nothing else, and goes on at
the next word; `fsh` returns the 64 bits that start n bits into the older doubleword b, and with a = b rotates right by n. -/
def Obligations.RegisterOperationsWriteTheirResult : Prop :=
  (∀ r ∈ binaryOps, ∀ d a b s, exec (r.1 d a b) s = .next (s.wrS d (r.2 (s.rdS a) (s.rdS b))).step4) ∧
  (∀ r ∈ unaryOps, ∀ d a s, exec (r.1 d a) s = .next (s.wrS d (r.2 (s.rdS a))).step4) ∧
  (∀ d a b n s, n < 64 →
    exec (.fsh d a b n) s = .next (s.wrS d (((s.rdS a ++ s.rdS b : BitVec 128) >>> n).setWidth 64)).step4 ∧
    exec (.fsh d a a n) s = .next (s.wrS d ((s.rdS a).rotateRight n)).step4)

/-- What a signed division gives (Tables 4.1 and 4.2): quotient and remainder. -/
def Sys2Proof.Claims.signedDivision (a b : Word) : Word × Word :=
  if b = 0 then (0xFFFFFFFFFFFFFFFF, a)
  else if a = 0x8000000000000000 ∧ b = 0xFFFFFFFFFFFFFFFF then (0x8000000000000000, 0)
  else (BitVec.ofInt 64 (Int.tdiv a.toInt b.toInt), BitVec.ofInt 64 (a.toInt - b.toInt * Int.tdiv a.toInt b.toInt))

/-- What an unsigned division gives (Tables 4.1 and 4.2): quotient and remainder. -/
def Sys2Proof.Claims.unsignedDivision (a b : Word) : Word × Word :=
  if b = 0 then (0xFFFFFFFFFFFFFFFF, a)
  else (BitVec.ofNat 64 (a.toNat / b.toNat), BitVec.ofNat 64 (a.toNat - b.toNat * (a.toNat / b.toNat)))

/-- R93, Table 4.2: division never faults; it completes on every pair of operands, the corner cases of Table 4.2 among them. -/
def Obligations.DivisionNeverFaults : Prop :=
  ∀ d a b s,
    exec (.div d a b) s = .next (s.wrS d (signedDivision (s.rdS a) (s.rdS b)).1).step4 ∧
    exec (.rem d a b) s = .next (s.wrS d (signedDivision (s.rdS a) (s.rdS b)).2).step4 ∧
    exec (.divu d a b) s = .next (s.wrS d (unsignedDivision (s.rdS a) (s.rdS b)).1).step4 ∧
    exec (.remu d a b) s = .next (s.wrS d (unsignedDivision (s.rdS a) (s.rdS b)).2).step4

/-- The immediate operations of one source, each with what Table 4.3 writes to S[d]. -/
def Sys2Proof.Claims.immediateOps : List ((Nat → Nat → Nat → Instr) × (Word → Nat → Word)) :=
  [(.addi, fun a i => a + (BitVec.ofNat 14 i).signExtend 64),
   (.andi, fun a i => a &&& (BitVec.ofNat 14 i).setWidth 64), (.ori, fun a i => a ||| (BitVec.ofNat 14 i).setWidth 64),
   (.xori, fun a i => a ^^^ (BitVec.ofNat 14 i).setWidth 64),
   (.slti, fun a i => if a.toInt < ((BitVec.ofNat 14 i).signExtend 64).toInt then 1 else 0),
   (.sltiu, fun a i => if a.toNat < ((BitVec.ofNat 14 i).signExtend 64).toNat then 1 else 0)]

/-- The shifts by a literal of Table 4.3. -/
def Sys2Proof.Claims.shiftOps : List ((Nat → Nat → Nat → Instr) × (Word → Nat → Word)) :=
  [(.slli, fun a n => a <<< n), (.srli, fun a n => a >>> n), (.srai, fun a n => a.sshiftRight n), (.roli, fun a n => a.rotateLeft n)]

/-- R96, Table 4.3: every immediate operation completes, writes S[d] and nothing else, and goes on at the next word. -/
def Sys2Proof.Claims.immediateOperationsWriteTheirResult : Prop :=
  (∀ r ∈ immediateOps, ∀ d a i s, i < 2 ^ 14 → exec (r.1 d a i) s = .next (s.wrS d (r.2 (s.rdS a) i)).step4) ∧
  (∀ r ∈ shiftOps, ∀ d a n s, n < 64 → exec (r.1 d a n) s = .next (s.wrS d (r.2 (s.rdS a) n)).step4) ∧
  (∀ d i s, i < 2 ^ 20 → exec (.li d i) s = .next (s.wrS d ((BitVec.ofNat 20 i).signExtend 64)).step4) ∧
  (∀ d i s, i < 2 ^ 20 → exec (.lsi d i) s = .next (s.wrS d ((s.rdS d <<< 20) ||| (BitVec.ofNat 20 i).setWidth 64)).step4)

/-- R97: the bit-field operations complete: a field of width w + 1 from bit st on is extracted, zero- or sign-extended, or
inserted, and no other bit of S[d] changes. -/
def Sys2Proof.Claims.bitFieldOperationsMoveTheField : Prop :=
  ∀ d a w st s, st + w < 64 →
    exec (.bfx d a w st) s = .next (s.wrS d (((s.rdS a).extractLsb' st (w + 1)).setWidth 64)).step4 ∧
    exec (.bfxS d a w st) s = .next (s.wrS d (((s.rdS a).extractLsb' st (w + 1)).signExtend 64)).step4 ∧
    ∃ v : Word, exec (.bfi d a w st) s = .next (s.wrS d v).step4 ∧
      ∀ i, i < 64 → v.getLsbD i = if st ≤ i ∧ i ≤ st + w then (s.rdS a).getLsbD (i - st) else (s.rdS d).getLsbD i

/-- The branches on one register, with their conditions (R98). -/
def Sys2Proof.Claims.branchesOnOne : List ((Nat → Nat → Instr) × (Word → Prop)) :=
  [(.bez, fun a => a = 0), (.bnz, fun a => a ≠ 0), (.bltz, fun a => a.toInt < 0), (.bgez, fun a => 0 ≤ a.toInt),
   (.bgtz, fun a => 0 < a.toInt), (.blez, fun a => a.toInt ≤ 0)]

/-- The branches on two registers, with their conditions (R98, Table 2.5). -/
def Sys2Proof.Claims.branchesOnTwo : List ((Nat → Nat → Nat → Instr) × (Word → Word → Prop)) :=
  [(.beq, fun a b => a = b), (.bne, fun a b => a ≠ b), (.blt, fun a b => a.toInt < b.toInt), (.bge, fun a b => b.toInt ≤ a.toInt),
   (.bltu, fun a b => a.toNat < b.toNat), (.bgeu, fun a b => b.toNat ≤ a.toNat)]

/-- R98, R44: a branch whose condition holds goes to PC + 4 × its signed displacement; otherwise execution goes on at PC + 4. It
writes no register. -/
def Sys2Proof.Claims.branchesGoWhereTheirConditionSays : Prop :=
  (∀ r ∈ branchesOnOne, ∀ a o s,
    (r.2 (s.rdS a) → exec (r.1 a o) s = .next (s.goTo (s.pc + 4 * (BitVec.ofNat 16 o).signExtend 64))) ∧
    (¬ r.2 (s.rdS a) → exec (r.1 a o) s = .next (s.goTo (s.pc + 4)))) ∧
  (∀ r ∈ branchesOnTwo, ∀ a b o s,
    (r.2 (s.rdS a) (s.rdS b) → exec (r.1 a b o) s = .next (s.goTo (s.pc + 4 * (BitVec.ofNat 10 o).signExtend 64))) ∧
    (¬ r.2 (s.rdS a) (s.rdS b) → exec (r.1 a b o) s = .next (s.goTo (s.pc + 4)))) ∧
  (∀ o s, exec (.br o) s = .next (s.goTo (s.pc + 4 * (BitVec.ofNat 16 o).signExtend 64)))

/-- R99, R383: `call` links and jumps; `jr` and `jalr` go to an aligned S[a], which is read before S[d] is written; `nop` only goes
on. -/
def Sys2Proof.Claims.callsAndJumpsLinkAndGoAligned : Prop :=
  (∀ d i s, exec (.call d i) s = .next ((s.wrS d (s.pc + 4)).goTo (s.pc + 4 * (BitVec.ofNat 20 i).signExtend 64))) ∧
  (∀ a s, (s.rdS a).toNat % 4 = 0 → exec (.jr a) s = .next (s.goTo (s.rdS a))) ∧
  (∀ d a s, (s.rdS a).toNat % 4 = 0 → exec (.jalr d a) s = .next ((s.wrS d (s.pc + 4)).goTo (s.rdS a))) ∧
  (∀ s, exec .nop s = .next s.step4)

/-- Where a scalar access goes (R43, R228): offset of size n, mode, offset field. -/
def Sys2Proof.Claims.accessAddress (s : State) (n a m o : Nat) : Nat :=
  (if m = 1 then s.rdS a else s.rdS a + sext 10 o * BitVec.ofNat 64 n).toNat

/-- The base register after a scalar access: the increment modes add the offset (R228). -/
def Sys2Proof.Claims.afterIncrement (s t : State) (n a m o : Nat) : State :=
  if m = 0 then t else t.wrS a (s.rdS a + sext 10 o * BitVec.ofNat 64 n)

/-- The instruction took effect and its stream goes on at the next word. -/
def Sys2Proof.Claims.onward (s t : State) : Prop := t.pc = s.pc + 4 ∧ t.note = .done

/-- S[d] received v (nothing is written for d = 0), and no other scalar register of the acting agent changed. -/
def Sys2Proof.Claims.received (s t : State) (d : Nat) (v : Word) : Prop :=
  t.rdS d = (if d = 0 then 0 else v) ∧ ∀ n, n ≠ d → t.rdS n = s.rdS n

/-- The A-stream of core c took exception `code` at its word (R375, R377): the core is frozen, its composite record names the code
and the word's address, its delivery is due, and no scalar register changed. -/
def Sys2Proof.Claims.trapped (s t : State) (c code : Nat) : Prop :=
  (t.coreAt c).frozen = some (.strm 0 code) ∧ (t.coreAt c).rcdDue = true ∧ bf ((t.coreAt c).rcd.get 0 0) 7 0 = code ∧
  (t.coreAt c).rcd.get 0 17 = s.pc ∧ (t.coreAt c).s = (s.coreAt c).s

/-- What a read at its home leaves behind in the device (R220, R371): the time of the last access to memory, and the dies' counts for
reuse ranges. Nothing else of the state moves. -/
def Sys2Proof.Claims.counted (s : State) (f : Nat) (r : Sparse (Nat × Nat × Nat × Nat)) : State :=
  { s with lastMem := s.dtime, fresh := f, ranges := r }

/-- The scalar loads: size, and whether the value is sign-extended. -/
def Sys2Proof.Claims.scalarLoads : List ((Nat → Nat → Nat → Nat → Instr) × Nat × Bool) :=
  [(.ldB, 1, false), (.ldH, 2, false), (.ldW, 4, false), (.ldD, 8, false), (.ldBs, 1, true), (.ldHs, 2, true), (.ldWs, 4, true)]

/-- R228: a scalar load from plain memory (of a core on a strong page, with no stash and nothing held back; or of a sequencer)
completes: S[d] receives the bytes, little-endian, zero- or sign-extended, the increment modes then move the base register, and
memory stays as it is. An unaligned load reads byte by byte (R227), and says the same where no store of any agent waits.
Choices of the model: log entry 13. -/
def Obligations.ScalarLoadsReadMemory : Prop :=
  ∀ r ∈ scalarLoads, ∀ d a m o s ia e k,
    Plain s s.req (accessAddress s r.2.1 a m o) r.2.1 { r := true } ia e k →
    (s.req.isCore = true → e.ord = 0 ∧ Settled s s.req.ag) →
    (accessAddress s r.2.1 a m o % r.2.1 = 0 ∨ s.pend = []) →
    ∃ f g, exec (r.1 d a m o) s = .next (afterIncrement s
      ((counted s f g).wrS d
        (if r.2.2 then (BitVec.ofNat (8 * r.2.1) (leNat (s.mem.bytes k r.2.1))).signExtend 64
         else BitVec.ofNat 64 (leNat (s.mem.bytes k r.2.1)))) r.2.1 a m o).step4

/-- The scalar stores: size. -/
def Sys2Proof.Claims.scalarStores : List ((Nat → Nat → Nat → Nat → Instr) × Nat) := [(.stB, 1), (.stH, 2), (.stW, 4), (.stD, 8)]

/-- The bytes that a scalar store of size n writes: the low bytes of S[d], little-endian. -/
def Sys2Proof.Claims.storedBytes (s : State) (n d : Nat) : List Byte := leBytes n (s.rdS d).toNat

/-- A granted store of the acting agent as it waits to perform (R262): an aligned one whole, an unaligned one byte by byte (R227). -/
def Sys2Proof.Claims.waitingStores (s : State) (e : Entry) (ia : Nat) (bs : List Byte) (aligned : Prop) [Decidable aligned] : List Pend :=
  let one (a : Nat) (d : List Byte) : Pend :=
    { agent := s.req.ag, kind := s.req.kind, num := s.req.agent, ctx := s.req.ctx, ia := a, data := d, ord := e.ord, no := s.issued,
      epoch := s.qepoch }
  if aligned then [one ia bs] else (List.range bs.length).map fun i => one (ia + i) [byteAt bs i]

/-- R228, R229, R262: a scalar store to plain memory, away from stream slots, completes: it is granted at the address that the
instruction gives and waits to perform there with the low bytes of S[d], each byte on its own where it is unaligned (R227); every byte
of memory reads as before, a copy in the core's scalar cache follows it, and the increment modes move the base register.
Choices of the model: log entry 13. -/
def Obligations.ScalarStoresAreGranted : Prop :=
  ∀ r ∈ scalarStores, ∀ d a m o s ia e k,
    Plain s s.req (accessAddress s r.2 a m o) r.2 { w := true } ia e k →
    (s.req.isCore = true → Settled s s.req.ag) → s.guarded s.req.ctx ia r.2 = false →
    exec (r.1 d a m o) s = .next (afterIncrement s
      { s.scFollow s.req ia (storedBytes s r.2 d) with
        pend := s.pend ++ waitingStores s e ia (storedBytes s r.2 d) (accessAddress s r.2 a m o % r.2 = 0)
        issued := s.issued + 1 } r.2 a m o).step4

/-- The word at an address that no window of the requester shows. -/
def Sys2Proof.Claims.unmapped (s : State) (va : Nat) : Prop := findWindow s.req.win va (List.range 16) = none

/-- R202, R375: a scalar load or store of a core's A-stream at an address that no window shows raises 0x04: the core freezes at the
word, with the fault and its virtual address in the composite record; no register is written. -/
def Sys2Proof.Claims.unmappedAccessesTrap : Prop :=
  ∀ i : Instr, ∀ n a m o s c,
    ((∃ r ∈ scalarLoads, ∃ d, r.2.1 = n ∧ i = r.1 d a m o) ∨ (∃ r ∈ scalarStores, ∃ d, r.2 = n ∧ i = r.1 d a m o)) →
    s.cur = .strm c .a → Still s c → unmapped s (accessAddress s n a m o) →
    ∃ t, exec i s = .next t ∧ (t.coreAt c).frozen = some (.strm 0 0x04) ∧ (t.coreAt c).rcdDue = true ∧
      bf ((t.coreAt c).rcd.get 0 0) 7 0 = 0x04 ∧ bf ((t.coreAt c).rcd.get 0 3) 55 0 = accessAddress s n a m o % 2 ^ 56 ∧
      (t.coreAt c).rcd.get 0 17 = s.pc ∧ (t.coreAt c).s = (s.coreAt c).s

/-- The lane addresses of a vector load (R230): lane l of 1,024. -/
def Sys2Proof.Claims.laneAddress (s : State) (a : Nat) (step : Word) (l : Nat) : Nat := (s.rdS a + BitVec.ofNat 64 l * step).toNat

/-- The core's `qv`q with an entry behind the others whose lanes are f, not yet visible to its reader (R231). -/
def Sys2Proof.Claims.withEntry (c : Core) (q : Nat) (f : Nat → Lane) : Core :=
  { c with q := { c.q with qv := c.q.qv.set [] q (c.q.qv.get [] q ++ [{ lanes := Sparse.ofFn 0 f 0 1024, ready := false }]) } }

/-- R230, R231: a vector load whose 1,024 lanes lie aligned in plain memory, with room in its queue and nothing of the core's
outstanding or cached, completes: an entry with the words of its lanes joins `qv`q. `vld.bc` reads one word for every lane. No store
waits: one that waits may perform between the lanes.
Choices of the model: log entry 13. -/
def Obligations.VectorLoadsFillAQueueEntry : Prop :=
  ∀ q a b s c st (ia k : Nat → Nat) (e : Nat → Entry),
    s.cur = .strm c st → c < 320 → Settled s c → s.pend = [] → (s.coreAt c).scLine = [] → Sparse.wf {} s.cores = true →
    ((s.coreAt c).q.qv.get [] q).length < 8 →
    ((∀ l, l < 1024 → laneAddress s a 4 l % 4 = 0 ∧ Plain s s.req (laneAddress s a 4 l) 4 { r := true } (ia l) (e l) (k l)) →
      ∃ f g, exec (.vld q a) s = .next (((counted s f g).updCore c fun x =>
        withEntry x q fun l => BitVec.ofNat 32 (leNat (s.mem.bytes (k l) 4))).step4)) ∧
    ((∀ l, l < 1024 → laneAddress s a (s.rdS b) l % 4 = 0 ∧
        Plain s s.req (laneAddress s a (s.rdS b) l) 4 { r := true } (ia l) (e l) (k l)) →
      ∃ f g, exec (.vldS q a b) s = .next (((counted s f g).updCore c fun x =>
        withEntry x q fun l => BitVec.ofNat 32 (leNat (s.mem.bytes (k l) 4))).step4)) ∧
    ((s.rdS a).toNat % 4 = 0 → Plain s s.req (s.rdS a).toNat 4 { r := true } (ia 0) (e 0) (k 0) →
      ∃ f g, exec (.vldBc q a) s = .next (((counted s f g).updCore c fun x =>
        withEntry x q fun _ => BitVec.ofNat 32 (leNat (s.mem.bytes (k 0) 4))).step4))

/-- A core's queues with a pushed entry (R232): queue 0, 1 or 2 for `qs0`, `qs1`, `qz1`. -/
def Sys2Proof.Claims.pushed (c : Core) (q : Nat) (v : Word) : Core :=
  if q < 2 then { c with q := { c.q with qs := c.q.qs.set [] q (c.q.qs.get [] q ++ [v]) } }
  else { c with q := { c.q with qz1 := c.q.qz1 ++ [v.setWidth 32] } }

/-- R232, R135: `qpush` to a queue that is not full, `qpop` from a queue that is not empty, and `wlc` complete. -/
def Sys2Proof.Claims.queueAndLoopWritesComplete : Prop :=
  ∀ s c st, s.cur = .strm c st →
    (∀ q a, q < 3 → ((s.coreAt c).q.qs.get [] q).length < 16 → (s.coreAt c).q.qz1.length < 16 →
      exec (.qpush q a) s = .next (s.setCore c (pushed (s.coreAt c) q (s.rdS a))).step4) ∧
    (∀ d q v l, q < 2 → (s.coreAt c).q.qx.get [] q = v :: l →
      exec (.qpop d q) s = .next ((s.setCore c
        ({ s.coreAt c with q := { (s.coreAt c).q with qx := (s.coreAt c).q.qx.set [] q l } }.popMarks (6 + q) 1)).wrS d v).step4) ∧
    (∀ d v l, (s.coreAt c).q.qy0 = v :: l →
      exec (.qpop d 2) s = .next ((s.setCore c
        ({ s.coreAt c with q := { (s.coreAt c).q with qy0 := l } }.popMarks 10 1)).wrS d (v.setWidth 64)).step4) ∧
    (∀ n a, exec (.wlc n a) s = .next (s.setCore c
      ({ s.coreAt c with lc := (s.coreAt c).lc.set 0 n (s.rdS a) }.fresh [64 + n])).step4)

/-- The atomics that have a width bit, with their operation (Table 2.4) and whether they acquire and release. -/
def Sys2Proof.Claims.wideAtomics : List ((Nat → Nat → Nat → Nat → Nat → Instr) × Nat) :=
  [(.amoAddRlx, 0), (.amoAndRlx, 1), (.amoOrRlx, 2), (.amoXorRlx, 3), (.amoMinRlx, 4), (.amoMaxRlx, 5), (.amoMinuRlx, 6),
   (.amoMaxuRlx, 7), (.amoSwapRlx, 8), (.amoCasRlx, 9),
   (.amoAddAcq, 0), (.amoAndAcq, 1), (.amoOrAcq, 2), (.amoXorAcq, 3), (.amoMinAcq, 4), (.amoMaxAcq, 5), (.amoMinuAcq, 6),
    (.amoMaxuAcq, 7), (.amoSwapAcq, 8), (.amoCasAcq, 9),
   (.amoAddRel, 0), (.amoAndRel, 1), (.amoOrRel, 2), (.amoXorRel, 3), (.amoMinRel, 4), (.amoMaxRel, 5), (.amoMinuRel, 6),
    (.amoMaxuRel, 7), (.amoSwapRel, 8), (.amoCasRel, 9),
   (.amoAddRc, 0), (.amoAndRc, 1), (.amoOrRc, 2), (.amoXorRc, 3), (.amoMinRc, 4), (.amoMaxRc, 5), (.amoMinuRc, 6),
    (.amoMaxuRc, 7), (.amoSwapRc, 8), (.amoCasRc, 9)]

/-- The atomics on FP32 values, with their operation. -/
def Sys2Proof.Claims.floatAtomics : List ((Nat → Nat → Nat → Nat → Instr) × Nat) :=
  [(.amoFaddRlx, 10), (.amoFmaxRlx, 11), (.amoFminRlx, 12), (.amoFaddAcq, 10), (.amoFmaxAcq, 11), (.amoFminAcq, 12),
   (.amoFaddRel, 10), (.amoFmaxRel, 11), (.amoFminRel, 12), (.amoFaddRc, 10), (.amoFmaxRc, 11), (.amoFminRc, 12)]

/-- What R253 stores: operation o on w-bit values, the old value, the operand, and the expected value of `cas`. -/
def Sys2Proof.Claims.atomicResult (o w old x e : Nat) : Nat :=
  match o with
  | 0 => (old + x) % 2 ^ w
  | 1 => old &&& x
  | 2 => old ||| x
  | 3 => old ^^^ x
  | 4 => if (BitVec.ofNat w old).toInt ≤ (BitVec.ofNat w x).toInt then old else x
  | 5 => if (BitVec.ofNat w x).toInt ≤ (BitVec.ofNat w old).toInt then old else x
  | 6 => min old x
  | 7 => max old x
  | 8 => x
  | 9 => if old = e then x else old
  | 10 => (fAdd fp32 0 0 old x).bits
  | 11 => minMax fp32 true old x
  | _ => minMax fp32 false old x

/-- An atomic of w bits at S[a] has taken effect: S[d] holds the old value, memory the new one, and no other byte of memory has
changed. -/
def Sys2Proof.Claims.atomicDone (s t : State) (o w d b k : Nat) : Prop :=
  let old := leNat (s.mem.bytes k (w / 8))
  let new := leBytes (w / 8) (atomicResult o w old ((s.rdS b).toNat % 2 ^ w) ((s.rdS d).toNat % 2 ^ w))
  t.pc = s.pc + 4 ∧ t.note = .done ∧ t.rdS d = (if d = 0 then 0 else BitVec.ofNat 64 old) ∧
  (∀ n, n ≠ d → t.rdS n = s.rdS n) ∧
  ∀ j, t.mem.get 0 j = if k ≤ j ∧ j < k + w / 8 then byteAt new (j - k) else s.mem.get 0 j

/-- The conditions of a plain atomic of w bits: aligned plain memory in HBM or the second tier, no stream slot there, nothing of the
agent's outstanding, and no threshold that an event could pass. -/
structure Sys2Proof.Claims.AtomicReady (s : State) (w a ia : Nat) (e : Entry) (k : Nat) : Prop where
  aligned : (s.rdS a).toNat % 4 = 0
  plain : Plain s s.req (s.rdS a).toNat (w / 8) { r := true, w := true } ia e k
  tier : e.tier < 2
  slots : s.slots = [] ∧ s.slotTable? s.req.ctx = none
  core : ∀ c st, s.cur = .strm c st → c < 320 ∧ Settled s c
  remote : s.remote = []
  quiet : s.noThreshold s.req.ctx

/-- R252, R253: every atomic, of each of its four orders and at every scope, completes in plain memory: it reads the old value into
S[d] and stores the result of its operation, and no other byte of memory changes. An address that is not a multiple of 4 raises 0x05,
and one whose bytes lie in two 64 KiB pieces 0x08; no register is written then. -/
def Obligations.AtomicsReadAndStore : Prop :=
  (∀ r ∈ wideAtomics, ∀ d a b w sc s ia e k, w < 2 → sc < 8 → AtomicReady s (if w = 1 then 32 else 64) a ia e k →
    ∃ t, exec (r.1 d a b w sc) s = .next t ∧ atomicDone s t r.2 (if w = 1 then 32 else 64) d b k) ∧
  (∀ r ∈ floatAtomics, ∀ d a b sc s ia e k, sc < 8 → AtomicReady s 32 a ia e k →
    ∃ t, exec (r.1 d a b sc) s = .next t ∧ atomicDone s t r.2 32 d b k) ∧
  (∀ i : Instr, ∀ a s c, (∃ r ∈ wideAtomics, ∃ d b w sc, i = r.1 d a b w sc) ∨ (∃ r ∈ floatAtomics, ∃ d b sc, i = r.1 d a b sc) →
    s.cur = .strm c .a → Still s c → (s.rdS a).toNat % 4 ≠ 0 → ∃ t, exec i s = .next t ∧ trapped s t c 0x05) ∧
  (∀ r ∈ wideAtomics, ∀ d a b sc s c ia, s.cur = .strm c .a → Still s c → (s.rdS a).toNat % 4 = 0 →
    s.translate? s.req (s.rdS a).toNat 8 { r := true, w := true } = .ok ia → s.winBad s.req.ctx (s.rdS a).toNat = false →
    ia / 65536 ≠ (ia + 7) / 65536 → ∃ t, exec (r.1 d a b 0 sc) s = .next t ∧ trapped s t c 0x08)

/-- The state after an acquire at a scope by the acting agent (R271): from `seg` outward a core's scalar cache is empty. -/
def Sys2Proof.Claims.acquired (s : State) (sc : Nat) : State := if 2 ≤ sc ∧ s.req.isCore then s.scClear s.req.ag else s

/-- The state with a release mark behind the waiting stores (R266). -/
def Sys2Proof.Claims.releaseMarked (s : State) : State :=
  let mark : Pend := { agent := s.req.ag, kind := s.req.kind, num := s.req.agent, ctx := s.req.ctx, ia := 0, data := [], ord := 3, no := s.issued, epoch := s.qepoch }
  { s with pend := s.pend ++ [mark] }

/-- R254, R271: `fence.acq` completes whatever is outstanding; the other fences complete at once where nothing of the agent's is
outstanding (for `fence.drain` no command either); and a `fence.rel` within the segment leaves a mark behind the agent's waiting
stores. -/
def Sys2Proof.Claims.fencesComplete : Prop :=
  ∀ sc s, sc < 8 →
    exec (.fenceAcq sc) s = .next (acquired s sc).step4 ∧
    (Settled s s.req.ag →
      exec (.fenceRel sc) s = .next s.step4 ∧ exec (.fenceAr sc) s = .next (acquired s sc).step4 ∧
      ((∀ i, (s.eslot s.req.ag i).st ≠ .flight) → exec (.fenceDrain sc) s = .next (acquired s sc).step4)) ∧
    (sc < 2 → (∃ o ∈ s.pend, o.agent = s.req.ag) →
      exec (.fenceRel sc) s = .next (releaseMarked s).step4)

/-- The engine slot that the handle in S[a] names (R249). -/
def Sys2Proof.Claims.namedSlot (s : State) (c a : Nat) : ESlot := s.eslot c ((s.rdS a).toNat % 64)

/-- The handle in S[a] is that of its slot's present command (R249). -/
def Sys2Proof.Claims.current (s : State) (c a : Nat) : Prop :=
  (s.rdS a).toNat / 64 ≠ 0 ∧ (namedSlot s c a).gen = (s.rdS a).toNat / 64

/-- R249, R250: for the handle of an earlier command `cancel` and `hwait` do nothing and `htest` gives 1; for the present one
`hwait` passes unless it is in flight, and `htest` gives 0 in flight, 1 completed, 2 cancelled or stopped; a handle with bits
63:32 set raises 0x05. -/
def Sys2Proof.Claims.handlesTellTheirCommand : Prop :=
  ∀ s c a, s.cur = .strm c .a →
    ((s.rdS a).toNat < 2 ^ 32 → ¬ current s c a →
      exec (.cancel a) s = .next s.step4 ∧ exec (.hwait a) s = .next s.step4 ∧
      ∀ d, exec (.htest d a) s = .next (s.wrS d 1).step4) ∧
    ((s.rdS a).toNat < 2 ^ 32 → current s c a →
      ((namedSlot s c a).cmd = none → exec (.cancel a) s = .next s.step4) ∧
      ((namedSlot s c a).st ≠ .flight → exec (.hwait a) s = .next s.step4) ∧
      ∀ d, exec (.htest d a) s = .next (s.wrS d (match (namedSlot s c a).st with
        | .flight => 0
        | .cancelled => 2
        | .stopped => 2
        | _ => 1)).step4) ∧
    (2 ^ 32 ≤ (s.rdS a).toNat → Still s c → ∀ d,
      (∃ t, exec (.cancel a) s = .next t ∧ trapped s t c 0x05) ∧ (∃ t, exec (.hwait a) s = .next t ∧ trapped s t c 0x05) ∧
      ∃ t, exec (.htest d a) s = .next t ∧ trapped s t c 0x05)

/-- The addresses of the words of the frame tables that a walk to an intermediate address reads (R206). -/
def Sys2Proof.Claims.tableWords (s : State) (ia : Nat) : List Nat :=
  let k := physKey 0 (bf (s.mgr 0x1080) 47 12 * 4096 + 8 * (ia / 2 ^ 29 % 2 ^ 19))
  let l2 := bf (s.raw64 k) 47 12 * 4096
  let a := physKey 0 (l2 + 16 * (ia / 2 ^ 21 % 256 * 32))
  let b := physKey 0 (l2 + 16 * (ia / 2 ^ 16 % 8192))
  [k, a, a + 8, b, b + 8]

/-- Where a command of slot `slot` may write global memory, each run lies in plain memory, clear of the frame tables' words for any of
them (R206, R250). -/
def Sys2Proof.Claims.writesPlainMemory (s : State) (c slot : Nat) (cmd : Cmd) : Prop :=
  ∀ w ∈ cmd.spots (s.coreAt c), ∃ ia e k, s.translate? (s.engReq c slot cmd) w.1 w.2 { w := true } = .ok ia ∧
    Mapped s (s.coreCtx c) ia w.2 e k ∧
    ∀ w' ∈ cmd.spots (s.coreAt c), ∀ ia', s.translate? (s.engReq c slot cmd) w'.1 w'.2 { w := true } = .ok ia' →
      ∀ x ∈ tableWords s ia', x + 8 ≤ k ∨ k + w.2 ≤ x

/-- R250: `cancel` of a command in flight completes: the command is cancelled, its slot holds it no more, and no scalar register
changes. What its destination then holds is open. -/
def Sys2Proof.Claims.cancelEndsACommandInFlight : Prop :=
  ∀ s c st a cmd, s.cur = .strm c st → (s.rdS a).toNat < 2 ^ 32 → current s c a → (namedSlot s c a).cmd = some cmd →
    (cmd.kind ≠ 5 → cmd.dstSpace = 0 → writesPlainMemory s c ((s.rdS a).toNat % 64) cmd) →
    ∃ t, exec (.cancel a) s = .next t ∧ (namedSlot t c a).st = .cancelled ∧ (namedSlot t c a).cmd = none ∧
      (namedSlot t c a).gen = (namedSlot s c a).gen ∧ onward s t ∧ ∀ n, t.rdS n = s.rdS n

/-- The layout record that an operand names (R242, R243): twelve registers from S[a], or 96 bytes of the scratchpad at S[a]. -/
def Sys2Proof.Claims.recordOf (s : State) (mem a : Nat) : Layout :=
  if mem = 0 then (List.range 12).map fun i => s.rdS (a + i)
  else (List.range 12).map fun i => BitVec.ofNat 64 (leNat (s.core.sbytes ((s.rdS a).toNat + 8 * i) 8))

/-- A copy's command as it is issued (R242, R243): the operands name its records; without a destination record it works in place; of a
scratchpad end it holds the format words of its banks in order (R87, R238). -/
def Sys2Proof.Claims.copyCmd (s : State) (kind x y sc d a b : Nat) : Cmd :=
  let src := recordOf s x a
  let dst := if y = 0 ∧ b = 0 then [] else recordOf s y b
  let banks (r : Layout) : List Word := (List.range (2 ^ rIlv r)).map fun i => s.core.bank (rBank r + i)
  let fs := if rSpace src = 1 then bf (s.core.bank (rBank src)) 5 0 else rFmt src
  { kind := kind, scope := sc, src := src, dst := dst, win := s.req.win, nmode := s.core.nmode, fs := fs
    fd := if y = 0 ∧ b = 0 then bf (s.core.bank (rBank src)) 5 0
      else if rSpace dst = 1 then bf (s.core.bank (rBank dst)) 5 0 else rFmt dst
    bs := banks src, bd := banks (if y = 0 ∧ b = 0 then src else dst), desc := s.rdS d, no := s.issued }

/-- Every check of R234 to R243 passes for a copy command at its issue, and engine slot `slot` is free for it. -/
structure Sys2Proof.Claims.CopyReady (s : State) (kind x y sc d a b slot : Nat) (cmd : Cmd) (single : Bool) : Prop where
  isCmd : cmd = copyCmd s kind x y sc d a b
  isSingle : single = (decide (y = 0) && decide (b = 0))
  srcThere : x ≠ 0 → s.core.spadCheck (s.rdS a).toNat 96 8 = none
  dstThere : y ≠ 0 → s.core.spadCheck (s.rdS b).toNat 96 8 = none
  source : rBad cmd.src false (decide (kind = 1)) single sc = false
  sourceEnd : rSpace cmd.src = 1 → rFmt cmd.src = cmd.fs ∧ sBad s.core (rEnd cmd.src (cFmtOf cmd.fs)) cmd.fs = false ∧
    sFault s.core (rEnd cmd.src (cFmtOf cmd.fs)) cmd.fs = none
  target : single = false → rBad cmd.dst true (decide (kind = 2)) false sc = false
  pair : pairOk kind (rSpace cmd.src) (if single then 5 else rSpace cmd.dst) = true
  targetFmt : single = false → rSpace cmd.dst = 1 → rFmt cmd.dst = cmd.fd
  targetEnd : cmd.dst = [] ∨ rSpace cmd.dst = 1 →
    sBad s.core cmd.dstEnd cmd.fd = false ∧ sFault s.core cmd.dstEnd cmd.fd = none
  ordering : rAcq cmd.src = true ∨ rRel cmd.flags = true ∨ sc = 0
  signature : cFmtOf cmd.fs = .sig ∨ cFmtOf cmd.fd = .sig → cFmtOf cmd.fs = cFmtOf cmd.fd
  constants : single = false → rSpace cmd.dst = 4 → cmd.fs = 7
  rotation : kind = 3 → isCont cmd.fs = false ∧ isCont cmd.fd = false ∧ (cFmtOf cmd.fs).scaled = false ∧
    (cFmtOf cmd.fd).scaled = false ∧ rFill cmd.src = 0 ∧ rSize cmd.src 0 % 2 = 0 ∧ 8 ≤ cmd.fs ∧ cmd.fs ≤ 15 ∧
    8 ≤ cmd.fd ∧ cmd.fd ≤ 15 ∧ s.core.spadCheck (rFval cmd.src) (8 * (rSize cmd.src 0 / 2)) 8 = none
  srcList : kind = 1 → s.core.spadCheck (rList cmd.src) (4 * rSize cmd.src 1) 4 = none
  dstList : kind = 2 → s.core.spadCheck (rList cmd.dst) (4 * rSize cmd.dst 1) 4 = none
  counts : single = false → rCount cmd.src = rCount cmd.dst ∧ rSize cmd.src 0 = rSize cmd.dst 0
  apart : rSpace cmd.src = 1 → cmd.dst = [] ∨ rSpace cmd.dst = 1 →
    sOverlap (rEnd cmd.src (cFmtOf cmd.fs)) cmd.dstEnd (cFmtOf cmd.fs) (cFmtOf cmd.fd) = false
  reads : rSpace cmd.src = 0 → kind ≠ 1 → ∀ p ∈ rTouch cmd.src false,
    (∃ ia, s.translate? s.req p.1 p.2 { r := true } = .ok ia) ∧ s.winBad s.req.ctx p.1 = false
  writes : single = false → rSpace cmd.dst = 0 → kind ≠ 2 → ∀ p ∈ rTouch cmd.dst true,
    (∃ ia, s.translate? s.req p.1 p.2 { w := true } = .ok ia) ∧ s.winBad s.req.ctx p.1 = false
  follow : kind = 4 → s.noNarrow (bf (s.rdS d) 63 62) (bf (s.rdS d) 61 56) = false ∧ descOk (s.rdS d) = true
  free : s.core.freeSlot? = some slot
  flushed : s.core.inRegion = true ∨ s.core.held = []
  quiet : ∀ o ∈ s.pend, o.agent ≠ s.coreNo

/-- The generation of the next command of a slot (R249). -/
def Sys2Proof.Claims.nextGeneration (g : Nat) : Nat := if g = 2 ^ 26 - 1 then 1 else g + 1

/-- The copy writes global memory from inside a replayable region: it is queued (R251). -/
def Sys2Proof.Claims.queues (c : Core) (cmd : Cmd) : Bool := c.inRegion && decide (cmd.dst ≠ []) && decide (rSpace cmd.dst = 0)

/-- The state in which a core's engine slot has taken a command, and the new handle is in S[d] (R249); a queued one has its place
among what the region holds back (R251). -/
def Sys2Proof.Claims.issued (s : State) (c slot : Nat) (cmd : Cmd) (d : Nat) : State :=
  let g := nextGeneration (s.eslot c slot).gen
  let place : Held := .cmd slot cmd.no none (if rRel cmd.flags then some cmd.scope else none)
  ({ s.setCore c { s.coreAt c with
      eng := (s.coreAt c).eng.set {} slot { gen := g, st := .flight, cmd := some cmd }
      held := if queues (s.coreAt c) cmd then (s.coreAt c).held ++ [place] else (s.coreAt c).held } with
    issued := s.issued + 1 }).wrS d (BitVec.ofNat 64 (g * 64 + slot))

/-- The copy commands with their kinds (R242). -/
def Sys2Proof.Claims.copies : List ((Nat → Nat → Nat → Nat → Nat → Nat → Instr) × Nat) :=
  [(.copy, 0), (.gather, 1), (.scatter, 2), (.rcopy, 3), (.copyMma, 4)]

/-- R242, R243, R249, R251: a copy command whose records pass every check is issued: it takes the first free engine slot, whose handle
S[d] receives, and inside a replayable region a copy into global memory is queued at its place; nothing else changes, and the stream
goes on. -/
def Sys2Proof.Claims.copiesAreIssued : Prop :=
  ∀ r ∈ copies, ∀ d a b y x sc s c st slot cmd single, s.cur = .strm c st →
    CopyReady s r.2 x y sc d a b slot cmd single →
    exec (r.1 d a b y x sc) s = .next (issued s c slot cmd d).step4

/-- The waits with their conditions on the word and S[b] (R255). -/
def Sys2Proof.Claims.waits : List ((Nat → Nat → Nat → Instr) × (Word → Word → Prop)) :=
  [(.waitwEq, fun x y => x = y), (.waitwNe, fun x y => x ≠ y), (.waitwGeu, fun x y => y.toNat ≤ x.toNat),
   (.waitwLtu, fun x y => x.toNat < y.toNat)]

/-- The word of a `waitw` on core c stands at ia: where a wait in progress has translated it (R203, R255), or, at the first look, where
a window shows S[a]. -/
def Sys2Proof.Claims.awaits (s : State) (c ia : Nat) : Prop := ∀ w, (s.coreAt c).waitw = some w → w.ia = some ia

/-- The stream waits in its `waitw` w: nothing is written, and w stands as it did or, at the first look, begins. -/
def Sys2Proof.Claims.waitsOn (s t : State) (c : Nat) (w : Waitw) : Prop :=
  t.pc = s.pc ∧ t.note = .stalled ∧ (∀ n, t.rdS n = s.rdS n) ∧ (t.coreAt c).waitw = some w ∧ t.mem = s.mem

/-- R255: `waitw` of a word in plain memory completes with S[d] = 1 when its condition holds, and with 0 when its limit has passed and
the condition does not hold; otherwise it waits and writes nothing: from its first look on, whose limit is S[d] and whose time is now,
and at every later look, where the wait stands as it did. An address that is not a multiple of 8 raises 0x05 at the first look. -/
def Sys2Proof.Claims.waitsEndWhenTheirConditionHolds : Prop :=
  (∀ r ∈ waits, ∀ d a b s c st ia e k, s.cur = .strm c st → (s.rdS a).toNat % 8 = 0 →
    Plain s s.req (s.rdS a).toNat 8 { r := true } ia e k → Settled s c → awaits s c ia →
    let x := BitVec.ofNat 64 (leNat (s.mem.bytes k 8))
    (r.2 x (s.rdS b) → ∃ t, exec (r.1 d a b) s = .next t ∧ received s t d 1 ∧ onward s t ∧ (t.coreAt c).waitw = none ∧
      t.mem = s.mem) ∧
    (¬ r.2 x (s.rdS b) → ∀ w, (s.coreAt c).waitw = some w → w.limit ≠ 0 → w.limit ≤ s.dtime - w.since →
      ∃ t, exec (r.1 d a b) s = .next t ∧ received s t d 0 ∧ onward s t ∧ (t.coreAt c).waitw = none ∧ t.mem = s.mem) ∧
    (¬ r.2 x (s.rdS b) → ∀ w, (s.coreAt c).waitw = some w → w.limit = 0 ∨ s.dtime - w.since < w.limit →
      ∃ t, exec (r.1 d a b) s = .next t ∧ waitsOn s t c w) ∧
    (¬ r.2 x (s.rdS b) → (s.coreAt c).waitw = none →
      ∃ t w, exec (r.1 d a b) s = .next t ∧ waitsOn s t c w ∧ w.since = s.dtime ∧ w.limit = (s.rdS d).toNat ∧ w.ia = some ia)) ∧
  (∀ r ∈ waits, ∀ d a b s c, s.cur = .strm c .a → Still s c → (s.coreAt c).waitw = none → (s.rdS a).toNat % 8 ≠ 0 →
    ∃ t, exec (r.1 d a b) s = .next t ∧ trapped s t c 0x05)

/-- The stash banks that a `resv` of n windows takes (R257): the highest free ones, downwards. -/
def Sys2Proof.Claims.stashWindows (c : Core) (va n : Nat) : List StashWin :=
  (c.freeBanks.take n).zipIdx.map fun x => ⟨va + 131072 * x.2, x.1⟩

/-- Banks that a task declared (R28). -/
def Sys2Proof.Claims.declaredBanks (c : Core) : Nat := match c.task with | some t => t.stashBytes / 131072 | none => 0

/-- R257: `resv` of length 0 unmaps the window at S[a], if there is one; of whole banks it maps windows where the declared stash has
room and no window stands. S[d] receives how many windows are mapped. -/
def Obligations.ReservationsMapTheStash : Prop :=
  ∀ d a b s c st, s.cur = .strm c st →
    ((s.rdS b).toNat = 0 → (s.coreAt c).stLine = [] →
      ∃ t, exec (.resv d a b) s = .next t ∧ onward s t ∧
        (t.coreAt c).stash = (s.coreAt c).stash.filter (fun w => decide ((s.coreAt c).stashWin? (s.rdS a).toNat ≠ some w)) ∧
        received s t d (BitVec.ofNat 64 (t.coreAt c).stash.length)) ∧
    ((s.rdS b).toNat ≠ 0 → (s.rdS a).toNat % 131072 = 0 → (s.rdS b).toNat % 131072 = 0 →
      (∃ ia, s.translate? s.req (s.rdS a).toNat (s.rdS b).toNat { r := true } = .ok ia) →
      s.winBad s.req.ctx (s.rdS a).toNat = false →
      (s.coreAt c).stash.length + (s.rdS b).toNat / 131072 + ((s.coreAt c).heldBytes + 131071) / 131072 ≤ declaredBanks (s.coreAt c) →
      ((s.coreAt c).stash.any fun w => meets w.va 131072 (s.rdS a).toNat (s.rdS b).toNat) = false →
      ∃ t, exec (.resv d a b) s = .next t ∧ onward s t ∧
        (t.coreAt c).stash = (s.coreAt c).stash ++ stashWindows (s.coreAt c) (s.rdS a).toNat ((s.rdS b).toNat / 131072) ∧
        received s t d (BitVec.ofNat 64 (t.coreAt c).stash.length))

/-- The n bytes from va lie in one 4 KiB piece, which a window shows the acting core at ia, in a page of its context; the core is
settled and nothing waits anywhere. -/
structure Sys2Proof.Claims.OnePage (s : State) (c va n : Nat) (p : Perm) (ia : Nat) (e : Entry) : Prop where
  piece : 0 < n ∧ va % 4096 + n ≤ 4096 ∧ ia % 4096 = va % 4096
  xlate : s.translate? s.req va n p = .ok ia
  window : s.winBad s.req.ctx va = false
  entry : s.entry? ia = some e
  present : e.v = true
  owner : e.ctx = s.req.ctx
  settled : Settled s c
  quiet : s.pend = []

/-- R258, R215: `disc` of lines of a polder page that leaves a line of its block undiscarded: the lines read zero, no other polder
byte changes, and S[d] receives 0. -/
def Sys2Proof.Claims.discardedPolderLinesReadZero : Prop :=
  ∀ d a b sc s c st ia e, s.cur = .strm c st → c < 512 →
    OnePage s c (s.rdS a).toNat (s.rdS b).toNat { w := true } ia e →
    (s.rdS a).toNat % 128 = 0 → (s.rdS b).toNat % 128 = 0 → e.absent = false → e.pol = true →
    s.blocks.get 0 (ia / 65536) ≠ 0 → (∀ x, s.stashed x = []) →
    (∃ i, i < 512 ∧ s.polDisc.get false (ia / 65536 * 512 + i) = false ∧
      (ia / 65536 * 512 + i < ia / 128 ∨ (ia + (s.rdS b).toNat) / 128 ≤ ia / 65536 * 512 + i)) →
    ∃ t, exec (.disc d a b sc) s = .next t ∧ onward s t ∧ received s t d 0 ∧
      ∀ j, t.pol.get 0 j = if ia ≤ j ∧ j < ia + (s.rdS b).toNat then 0 else s.pol.get 0 j

/-- Every 64 KiB piece of the page has die t as its home (R204, R216). -/
def Sys2Proof.Claims.homesAt (s : State) (e : Entry) (ia t : Nat) : Prop := ∀ b ∈ e.pieces ia, s.homeOf e (65536 * b) = t

/-- R259, R216, R260: `migr` moves the page's home to die S[b] (1) unless every piece of it is there (0); `pin` and `unpin` set the
page's bit 54 where it is not polder, not cache-coherent and not as wanted (1), else nothing (0): a polder page and a page with `cc` = 1
are left unchanged. The page's stored entry says so. That `migr` of a page whose polder blocks have no room on the die waits is the
model's choice: log entry 91. -/
def Sys2Proof.Claims.pageOperationsChangeTheEntry : Prop :=
  ∀ d a b s c st ia e, s.cur = .strm c st → c < 512 →
    (∀ sc, OnePage s c (s.rdS a).toNat 1 { w := true } ia e → (s.rdS b).toNat ≤ 11 →
      (homesAt s e ia (s.rdS b).toNat →
        ∃ t, exec (.migr d a b sc) s = .next t ∧ onward s t ∧ received s t d 0 ∧ t.mem = s.mem) ∧
      (¬ homesAt s e ia (s.rdS b).toNat → s.noRoom e ia (s.rdS b).toNat = true →
        ∃ t, exec (.migr d a b sc) s = .next t ∧ t.pc = s.pc ∧ t.note = .stalled ∧ t.mem = s.mem ∧ ∀ n, t.rdS n = s.rdS n) ∧
      (¬ homesAt s e ia (s.rdS b).toNat → s.noRoom e ia (s.rdS b).toNat = false →
        ∃ t, exec (.migr d a b sc) s = .next t ∧ onward s t ∧ received s t d 1 ∧
          t.raw64 (physKey 0 e.addr) = setBf (setBf e.e0 36 36 1) 35 32 (s.rdS b).toNat)) ∧
    (OnePage s c (s.rdS a).toNat (s.rdS b).toNat { r := true } ia e → e.isPolder = true ∨ e.cc = true →
      (∃ t, exec (.pin d a b) s = .next t ∧ onward s t ∧ received s t d 0 ∧ t.mem = s.mem) ∧
      ∃ t, exec (.unpin d a b) s = .next t ∧ onward s t ∧ received s t d 0 ∧ t.mem = s.mem) ∧
    (OnePage s c (s.rdS a).toNat (s.rdS b).toNat { r := true } ia e → e.isPolder = false → e.cc = false →
      (e.pin = false →
        (∃ t, exec (.pin d a b) s = .next t ∧ onward s t ∧ received s t d 1 ∧
          t.raw64 (physKey 0 e.addr) = setBf e.e0 54 54 1) ∧
        ∃ t, exec (.unpin d a b) s = .next t ∧ onward s t ∧ received s t d 0 ∧ t.mem = s.mem) ∧
      (e.pin = true →
        (∃ t, exec (.unpin d a b) s = .next t ∧ onward s t ∧ received s t d 1 ∧
          t.raw64 (physKey 0 e.addr) = setBf e.e0 54 54 0) ∧
        ∃ t, exec (.pin d a b) s = .next t ∧ onward s t ∧ received s t d 0 ∧ t.mem = s.mem))


/-- The special registers of a context that hold what was written to them, with no effect of their own when written (R100): the
event configurations, `trsel`, `hquota`, `ftsel`, the windows, the quotas that only the host driver changes, and the rest that no
rule gives an effect. -/
def Sys2Proof.Claims.storedRegister (n : Nat) : Bool :=
  decide (96 ≤ n) && srDefined n && !srReadOnly n &&
  !(decide (104 ≤ n) && decide (n < 110)) && !(decide (112 ≤ n) && decide (n < 118)) && !(decide (320 ≤ n) && decide (n < 323)) &&
  !([120, 121, 128, 131, 132, 133, 134, 136, 137, 184, 185, 186, 192, 193, 194, 196, 197, 198, 199, 323, 385, 386, 388, 390, 391, 392,
    395, 396, 397].contains n)

/-- The acting core's task may use special register n (R34, R100). -/
def Sys2Proof.Claims.mayUse (s : State) (c n : Nat) : Prop :=
  srSupervisor n = true → ∃ t, (s.coreAt c).task = some t ∧ t.sup = true

/-- `qdone` (R223): an epoch d such that nothing in flight carries it or an older one, and no later epoch that is over is such. -/
def Sys2Proof.Claims.latestDone (s : State) : Nat := (s.pend.map Pend.epoch).foldl min s.qepoch - 1

/-- What special register n of a core's task holds (Table 4.4 and the tables of the chapters it names): the core's own registers; what
the device counts or latches for the context; then the registers that hold what was written to them. -/
def Sys2Proof.Claims.registerValue (s : State) (c n : Nat) : Word :=
  if n = 1 then BitVec.ofNat 64 s.dtime
  else if n = 2 then BitVec.ofNat 64 ((if (s.coreAt c).task.any Task.sup then 2 ^ 32 else 0) + s.coreCtx c * 2 ^ 24 + c / 8 * 2 ^ 16 + c)
  else if n = 3 then (match (s.coreAt c).task with | some t => t.wid | none => 0)
  else if n = 4 then (match (s.coreAt c).task with | some t => BitVec.ofNat 64 t.lva | none => 0)
  else if n = 16 then (s.coreAt c).nmode
  else if n < 32 then (s.coreAt c).lc.get 0 (n - 24)
  else if n < 96 then (s.coreAt c).bfmt.get 8 (n - 64)
  else
    let ctx := s.coreCtx c
    if n = 120 then (s.coreAt c).leftq.get 0 ctx
    else if n = 131 then
      (match (s.coreAt (bf (s.sr ctx 130) 8 0)).task with
       | some t =>
         if (s.coreAt (bf (s.sr ctx 130) 8 0)).frozen.isSome ∧ t.ctx = ctx then
           (s.coreAt (bf (s.sr ctx 130) 8 0)).rcd.get 0 (bf (s.sr ctx 130) 22 16)
         else 0
       | none => 0)
    else if n = 193 then BitVec.ofNat 64 (s.ctxAt ctx).blocks
    else if n = 194 then BitVec.ofNat 64 (packFields 16 ((List.range 4).map fun k => ((s.ctxAt ctx).lf.get [] k).length))
    else if n = 198 then BitVec.ofNat 64 s.qepoch
    else if n = 199 then BitVec.ofNat 64 (latestDone s)
    else if n = 323 then s.tsync
    else if n = 385 then setBf (s.sr ctx 385) 47 24 (s.rowsHeld ctx)
    else if n = 386 then setBf (s.sr ctx 386) 31 16 (s.slotsUsed ctx)
    else if n = 388 then BitVec.ofNat 64 (s.keyMask ctx)
    else if n = 397 then BitVec.ofNat 64 (256 * (if s.reduced then 1 else 0) + s.tier % 4)
    else s.sr ctx n

/-- Registers that `registerValue` gives: all that are defined but `clkc`, `evcnt`c, `ftop` and `tqctl`. -/
def Sys2Proof.Claims.readable (n : Nat) : Prop := srDefined n = true ∧ n ≠ 0 ∧ ¬ (112 ≤ n ∧ n < 118) ∧ n ≠ 196 ∧ n ≠ 396

/-- The window of event class k of a core's task, in ns (R91, Table 3.10). -/
def Sys2Proof.Claims.classWindow (s : State) (c k : Nat) : Nat := 1000 * bf (s.sr (s.coreCtx c) (96 + k)) 47 32

/-- The queue that `tqsel` names, and whether it is the context's (R361, R364, Table 12.1). -/
def Sys2Proof.Claims.selectedQueue (s : State) (c : Nat) : Nat := bf (s.sr (s.coreCtx c) 395) 7 0
def Sys2Proof.Claims.queueOwned (s : State) (c : Nat) : Prop := bf (s.mgr (0x1300 + 8 * selectedQueue s c)) 55 50 = s.coreCtx c

/-- R91, R217, R361, R363: `mfs` of the registers that a rule of their own governs. `evcnt`c reads the count of its window, and zero
where the window's time has passed. `ftop` reads the entry that `ftsel` names, with `plc`, `pol` and `ord` in its low bits, or raises
0x05. `tqctl` reads the word of the queue that `tqsel` names, with its pending launches, where it is the context's; of another's queue it
reads an open value (log entry 92). -/
def Sys2Proof.Claims.governedRegistersRead : Prop :=
  ∀ s c n m d, s.cur = .strm c .a →
    (∀ k, k < 6 → 8 * n + m = 112 + k →
      (classWindow s c k = 0 ∨ s.dtime < (s.coreAt c).evwin.get 0 k + classWindow s c k →
        exec (.mfs d n m) s = .next (s.wrS d (BitVec.ofNat 64 ((s.coreAt c).evcnt.get 0 k))).step4) ∧
      (classWindow s c k ≠ 0 → (s.coreAt c).evwin.get 0 k + classWindow s c k ≤ s.dtime →
        ∃ t, exec (.mfs d n m) s = .next t ∧ onward s t ∧ received s t d 0 ∧ (t.coreAt c).evcnt.get 0 k = 0)) ∧
    (8 * n + m = 196 → mayUse s c 196 →
      let ia := bf (s.sr (s.coreCtx c) 195) 47 16 * 65536
      (∀ e, s.entry? ia = some e → e.v = true → e.ctx = s.coreCtx c →
        exec (.mfs d n m) s = .next (s.wrS d (setBf e.e0 3 0
          (8 * (if e.plc then 1 else 0) + 4 * (if e.pol then 1 else 0) + e.ord))).step4) ∧
      ((∀ e, s.entry? ia = some e → e.v = false ∨ e.ctx ≠ s.coreCtx c) → Still s c →
        ∃ t, exec (.mfs d n m) s = .next t ∧ trapped s t c 0x05)) ∧
    (8 * n + m = 396 → mayUse s c 396 → (s.ctxAt (s.coreCtx c)).bad.get false 396 = false →
      (queueOwned s c → exec (.mfs d n m) s = .next (s.wrS d (setBf (s.mgr (0x1300 + 8 * selectedQueue s c)) 10 0
        (s.launches.filter fun l => decide (bf (l.lrec.get 0 4) 11 4 = selectedQueue s c)).length)).step4) ∧
      (¬ queueOwned s c → ∃ t v, exec (.mfs d n m) s = .next t ∧ onward s t ∧ received s t d v))

/-- The registers of Tables 15.4, 6.6 and 14.2, any access to which by a user task raises 0x02 (R379, R363). -/
def Sys2Proof.Claims.fenced (n : Nat) : Prop := (128 ≤ n ∧ n < 192) ∨ 384 ≤ n

/-- R100, R101, R379, R363: `mfs` of a register that holds a value completes with it in S[d]; `mfs` of `clkc` completes with the core's
count, which moves on by an open amount; a number that Table 4.4 and the chapters it names do not define raises 0x01, and a user task's
access to a register marked supervisor 0x02, for `mfs` and `mts`; an `mts` to a register that is read-only for every level raises
0x01, but 0x02 in a user task for the registers of which R379 and R363 say that a user task's access to any of them raises it.
Choices of the model: log entries 107 (R100 gives 0x01 first, R379 and R363 give 0x02) and 48 (what the request registers read back). -/
def Sys2Proof.Claims.specialRegistersRead : Prop :=
  ∀ s c n m d, s.cur = .strm c .a →
    (readable (8 * n + m) → mayUse s c (8 * n + m) → (s.ctxAt (s.coreCtx c)).bad.get false (8 * n + m) = false →
      exec (.mfs d n m) s = .next (s.wrS d (registerValue s c (8 * n + m))).step4) ∧
    (8 * n + m = 0 → ∃ t v, exec (.mfs d n m) s = .next t ∧ onward s t ∧ received s t d v ∧ (t.coreAt c).clkc = v) ∧
    (srDefined (8 * n + m) = false → Still s c →
      (∃ t, exec (.mfs d n m) s = .next t ∧ trapped s t c 0x01) ∧ ∃ t, exec (.mts d n m) s = .next t ∧ trapped s t c 0x01) ∧
    (srSupervisor (8 * n + m) = true → (∀ t, (s.coreAt c).task = some t → t.sup = false) → Still s c →
      (∃ t, exec (.mfs d n m) s = .next t ∧ trapped s t c 0x02) ∧
      (srReadOnly (8 * n + m) = false ∨ fenced (8 * n + m) → ∃ t, exec (.mts d n m) s = .next t ∧ trapped s t c 0x02)) ∧
    (srReadOnly (8 * n + m) = true → ¬ fenced (8 * n + m) ∨ mayUse s c (8 * n + m) → Still s c →
      ∃ t, exec (.mts d n m) s = .next t ∧ trapped s t c 0x01)

/-- R89, R100: `mts` to `nmode` keeps bit 0, and to a stored register of the context the bits that its table gives it (Tables 3.10, 8.2,
8.5, 8.6, 13.1, 14.2 and 15.4); nothing else changes. -/
def Sys2Proof.Claims.specialRegistersAreWritten : Prop :=
  ∀ s c st n m a, s.cur = .strm c st →
    (8 * n + m = 16 → exec (.mts a n m) s = .next (s.setCore c { s.coreAt c with nmode := s.rdS a &&& 1 }).step4) ∧
    (storedRegister (8 * n + m) = true → mayUse s c (8 * n + m) →
      exec (.mts a n m) s = .next (s.setSr (s.coreCtx c) (8 * n + m) (s.rdS a &&& BitVec.ofNat 64 (srMask (8 * n + m)))).step4)

/-- The A-stream of core c took a software exception (R383): the record holds code, tcode, `call`, and as the word to resume at `pc`. -/
def Sys2Proof.Claims.excepted (s t : State) (c code tcode : Nat) (call : Bool) (pc : Word) (how : Frz) : Prop :=
  (t.coreAt c).frozen = some how ∧ (t.coreAt c).rcdDue = true ∧ bf ((t.coreAt c).rcd.get 0 0) 7 0 = code ∧
  bf ((t.coreAt c).rcd.get 0 0) 24 16 = tcode ∧ bit ((t.coreAt c).rcd.get 0 0) 14 = call ∧
  (t.coreAt c).rcd.get 0 17 = pc ∧ ((t.coreAt c).strmAt .a).pc = pc ∧ (t.coreAt c).s = (s.coreAt c).s ∧ t.mem = s.mem

/-- R383: `trap` #n raises 0x13 and resumes at the next word; `brk` #n raises 0x14 and resumes at its own word; `ecall` #n, with
nothing of the core outstanding, raises 0x13 with `call` set and resumes at the next word. The record names n. -/
def Sys2Proof.Claims.systemWordsRaiseTheirExceptions : Prop :=
  ∀ s c n m, s.cur = .strm c .a → Still s c → n < 64 → m < 8 →
    (∃ t, exec (.trap n m) s = .next t ∧ excepted s t c 0x13 (8 * n + m) false (s.pc + 4) (.after 0 0x13)) ∧
    (∃ t, exec (.brk n m) s = .next t ∧ excepted s t c 0x14 (8 * n + m) false s.pc (.strm 0 0x14)) ∧
    (Settled s c →
      ∃ t, exec (.ecall n m) s = .next t ∧ excepted s t c 0x13 (8 * n + m) true (s.pc + 4) (.after 0 0x13))

/-- `trsel` of a supervisor's context names frozen core f, of a task of that context, with an action (R382). -/
structure Sys2Proof.Claims.Selects (s : State) (c f act : Nat) (how : Frz) (t : Task) : Prop where
  supervisor : ∃ u, (s.coreAt c).task = some u ∧ u.sup = true
  core : bf (s.sr (s.coreCtx c) 130) 8 0 = f ∧ f < 320 ∧ f ≠ c
  action : bf (s.sr (s.coreCtx c) 130) 63 61 = act
  task : (s.coreAt f).task = some t ∧ t.ctx = s.coreCtx c
  frozen : (s.coreAt f).frozen = some how
  settled : Settled s c

/-- The same, of a core whose record has been delivered (R380). -/
structure Sys2Proof.Claims.Delivered (s : State) (c f act : Nat) (how : Frz) (t : Task) : Prop extends Selects s c f act how t where
  delivered : (s.coreAt f).rcdDue = false

/-- R382, Table 15.5: `eret` completes. Resumed, the task named runs on at its recorded words (action 0), or past the word at which its
A-stream faulted (action 1); requeued, it leaves its core and stands in the queue (action 2); discarded, it leaves its core for good
(action 3), where its scratchpad and arrival counts stand and its leftover queue entries are counted (R32). A record that is still to be
delivered is counted in `trcnt` first (R380). In a user task `eret` raises 0x02 (R34).
Choices of the model: log entries 11 (what of a core stands after its task has left) and 109 (a discard counts the entries). -/
def Obligations.ReturnFromException : Prop :=
  (∀ s c, s.cur = .strm c .a → Still s c → (∀ u, (s.coreAt c).task = some u → u.sup = false) →
    ∃ t, exec .eret s = .next t ∧ trapped s t c 0x02) ∧
  ∀ s c st f t, s.cur = .strm c st → (
    (∀ how, Selects s c f 0 how t → (s.coreAt f).rcdDue = true → bit (s.sr (s.coreCtx c) 128) 0 = false → how ≠ .cmpl → how ≠ .restore →
      ∃ u, exec .eret s = .next u ∧ onward s u ∧ (u.coreAt f).frozen = none ∧ (u.coreAt f).rcdDue = false ∧
        u.sr (s.coreCtx c) 129 = s.sr (s.coreCtx c) 129 + 1) ∧
    (∀ how, Delivered s c f 0 how t → how ≠ .cmpl → how ≠ .restore →
      ∃ u, exec .eret s = .next u ∧ onward s u ∧ (u.coreAt f).frozen = none ∧ (u.coreAt f).rcdDue = false ∧
        (u.coreAt f).task = some t ∧ (u.coreAt f).strm = (s.coreAt f).strm ∧ (u.coreAt f).s = (s.coreAt f).s) ∧
    (∀ code, Delivered s c f 1 (.strm 0 code) t → code ≠ 0x0C →
      ∃ u, exec .eret s = .next u ∧ onward s u ∧ (u.coreAt f).frozen = none ∧ (u.coreAt f).task = some t ∧
        ((u.coreAt f).strmAt .a).pc = ((s.coreAt f).strmAt .a).pc + 4 ∧ (u.coreAt f).s = (s.coreAt f).s) ∧
    (∀ how, Delivered s c f 2 how t → t.inRegion = true → t.idem = true →
      (∀ o ∈ s.pend, o.agent ≠ f) → (s.coreAt f).stLine = [] →
      ∃ u, exec .eret s = .next u ∧ onward s u ∧ (u.coreAt f).task = none ∧ (u.coreAt f).frozen = none ∧
        ∃ r ∈ u.requeued, r.task = t ∧ r.page = none) ∧
    (∀ how, Delivered s c f 3 how t → (∀ o ∈ s.pend, o.agent ≠ f) → (s.coreAt f).stLine = [] → s.forksOf f = [] →
      ∃ u, exec .eret s = .next u ∧ onward s u ∧ (u.coreAt f).task = none ∧ (u.coreAt f).frozen = none ∧
        u.requeued = s.requeued ∧ (u.coreAt f).spad = (s.coreAt f).spad ∧ (u.coreAt f).arr = (s.coreAt f).arr ∧
        (u.coreAt f).leftq.get 0 t.ctx =
          BitVec.ofNat 64 (satAdd 64 ((s.coreAt f).leftq.get 0 t.ctx).toNat (s.coreAt f).q.total)))

/-- The core's task after its replayable region has ended (R36). -/
def Sys2Proof.Claims.regionEnded (c : Core) : Core := { c with task := c.task.map fun t => { t with inRegion := false } }

/-- R323, R36, R324, R32: `irv` outside a replayable region only goes on, and ends a region that holds nothing back; `end` ends its
stream and notes which, and ends a sequencer's stream. -/
def Sys2Proof.Claims.regionsAndStreamsEnd : Prop :=
  (∀ s c st, s.cur = .strm c st → (s.coreAt c).held = [] →
    ((s.coreAt c).inRegion = false → exec .irv s = .next s.step4) ∧
    ((s.coreAt c).inRegion = true → (∀ o ∈ s.pend, o.agent ≠ c) →
      exec .irv s = .next (s.setCore c (regionEnded (s.coreAt c))).step4)) ∧
  (∀ s c st, s.cur = .strm c st → ∃ t, exec .endA s = .next t ∧ t.note = .done ∧ (t.coreAt c).lastEnd = st.code ∧
    ((t.coreAt c).strmAt st).st = .ended ∧ ((t.coreAt c).strmAt st).pc = s.pc ∧ (t.coreAt c).s = (s.coreAt c).s) ∧
  (∀ s q, s.cur = .seqr q → (∀ o ∈ s.pend, o.agent ≠ 512 + q) → ∃ t, exec .endA s = .next t ∧ t.note = .done ∧
    (t.seqrAt q).running = false ∧ (t.seqrAt q).s = (s.seqrAt q).s ∧ t.mem = s.mem)

/-- Every other member of a gang has arrived at slot n or ended: the arrival of member w advances the phase (R326). -/
def Sys2Proof.Claims.lastToArrive (g : Gang) (n : Nat) (w : Word) : Prop := ∀ m ∈ g.members, m = w ∨ m ∈ g.ended ∨ (n, m) ∈ g.arrived

/-- Gang g is that of core c's task, the member's identifier is w, slot n and the scope pass the checks of R327, and the core has
nothing outstanding. -/
structure Sys2Proof.Claims.AtBarrier (s : State) (c n sc : Nat) (g : Gang) (w : Word) (t : Task) : Prop where
  task : (s.coreAt c).task = some t ∧ t.wid = w ∧ t.gang = some g.id
  gang : s.gangs.find? (fun x => decide (x.id = g.id)) = some g
  slot : n < 8 ∧ n < t.nbar
  scope : 2 + g.span ≤ sc ∧ sc ≤ 4
  settled : Settled s c

/-- The gang's barrier instance in a state (R326). -/
def Sys2Proof.Claims.gangIn (s : State) (g : Gang) : Option Gang := s.gangs.find? fun x => decide (x.id = g.id)

/-- The arrival of member w at slot n (R326): the phase advances and the slot's arrived bits clear where it is the last, else its
bit is set. -/
def Sys2Proof.Claims.arrivedNow (g g' : Gang) (n : Nat) (w : Word) : Prop :=
  (lastToArrive g n w → g'.phase.get 0 n = g.phase.get 0 n + 1 ∧ ∀ m, (n, m) ∉ g'.arrived) ∧
  (¬ lastToArrive g n w → g'.phase = g.phase ∧ g'.arrived = g.arrived ++ [(n, w)])

/-- R326, R327: `bar.arr` and `bar.sync` of a member that has not arrived arrive; `bar.arr` then goes on, and `bar.sync` does if its
arrival advanced the phase, else it waits. `bar.wait` goes on where the member has not arrived, and otherwise waits. -/
def Sys2Proof.Claims.barriersArriveAndWait : Prop :=
  ∀ s c n sc g w t, s.cur = .strm c .a → AtBarrier s c n sc g w t →
    ((n, w) ∉ g.arrived →
      (∃ u g', exec (.barArr n sc) s = .next u ∧ onward s u ∧ gangIn u g = some g' ∧ arrivedNow g g' n w) ∧
      (∃ u, exec (.barWait n sc) s = .next u ∧ onward s u ∧ gangIn u g = some g) ∧
      ((s.coreAt c).barSync = none →
        ∃ u g', exec (.barSync n sc) s = .next u ∧ gangIn u g = some g' ∧ arrivedNow g g' n w ∧
          (lastToArrive g n w → onward s u ∧ (u.coreAt c).barSync = none) ∧
          (¬ lastToArrive g n w → u.pc = s.pc ∧ u.note = .stalled ∧ (u.coreAt c).barSync = some n)) ∧
      ((s.coreAt c).barSync = some n →
        ∃ u, exec (.barSync n sc) s = .next u ∧ onward s u ∧ gangIn u g = some g ∧ (u.coreAt c).barSync = none)) ∧
    ((n, w) ∈ g.arrived →
      (∃ u, exec (.barArr n sc) s = .next u ∧ u.pc = s.pc ∧ u.note = .stalled ∧ gangIn u g = some g) ∧
      (∃ u, exec (.barWait n sc) s = .next u ∧ u.pc = s.pc ∧ u.note = .stalled ∧ gangIn u g = some g))

/-- The launch record that stands at key k of memory (R24). -/
def Sys2Proof.Claims.recordIn (s : State) (k : Nat) : Sparse Word := recWords (s.mem.bytes k 256)

/-- A launch record names a range whose pages are to move to HBM (R219). -/
def Sys2Proof.Claims.fetches (r : Sparse Word) : Prop := ∃ i, i < 3 ∧ bf (r.get 0 (26 + 2 * i)) 35 32 = 3

/-- R322, R25, R26, R317: what `launch` of a record r does at s. With room for it, a record that passes the checks and waits for no
word is accepted behind the others, ready where it has no deadline ahead, and one that fails a check is not; where the record names a
status word, or pages to fetch while stores wait, none of this is claimed. Without room the stream stalls, and holds the record. -/
def Sys2Proof.Claims.launchDoes (s : State) (c a : Nat) (r : Sparse Word) : Prop :=
  let right := match (s.coreAt c).task with | some t => t.sup | none => false
  (s.launchRoom r = true → r.get 0 23 = 0 → (fetches r → s.pend = []) →
    (s.launchReason r (s.coreCtx c) false right = 0 → bf (r.get 0 4) 26 24 = 0 →
      ∃ t l, exec (.launch a) s = .next t ∧ onward s t ∧ t.launches = s.launches ++ [l] ∧ t.accepted = s.accepted + 1 ∧
        l.id = s.accepted ∧ l.lva = (s.rdS a).toNat ∧ l.lrec = r ∧ l.next = 0 ∧ l.sat = true ∧
        l.ready = (if bit (r.get 0 4) 19 = false ∨ (r.get 0 13).toNat ≤ s.dtime then some s.dtime else none)) ∧
    (s.launchReason r (s.coreCtx c) false right ≠ 0 →
      ∃ t, exec (.launch a) s = .next t ∧ onward s t ∧ t.launches = s.launches ∧ t.accepted = s.accepted)) ∧
  (s.launchRoom r = false →
    ∃ t, exec (.launch a) s = .next t ∧ t.pc = s.pc ∧ t.note = .stalled ∧ (t.coreAt c).launchRec = some r ∧
      t.launches = s.launches ∧ t.accepted = s.accepted)

/-- Row n of Table 1.4, 1 to 8, as a check that a record fails (R25, R24, R219, R28, R34), of a launcher of context lctx: `any` for the physical
function, which may name every context; `right` for a launcher that may create supervisor tasks. Of the quota of segments a launch with
barriers needs its gang's cores (R325). -/
def Sys2Proof.Claims.failsCheck (s : State) (r : Sparse Word) (lctx : Nat) (any right : Bool) (n : Nat) : Prop :=
  let L (i : Nat) : Nat := (r.get 0 i).toNat
  let width (i : Nat) : Nat := L 3 / 2 ^ (7 * (i - 1)) % 128
  let ctx := L 4 / 2 ^ 12 % 64
  let queue := s.queueWord (L 4 / 16 % 256)
  let nrows := L 11 / 2 ^ 32 % 65536
  let nbar := L 11 / 2 ^ 28 % 16
  let cores := 8 * ((List.range 40).filter fun g => bit (s.sr ctx 384) g).length
  match n with
  | 1 =>
    (∃ x ∈ [(0, 0xFF00000000000000), (1, 0xFF00000000000000), (2, 0xFF00000000000000), (3, 0xFFFF1C0000000000), (4, 0xFFFFFFFFF8000008),
      (11, 0xFFFF0000000F0080), (31, 0xFFFFFFFFFFFFFFFF)], r.get 0 x.1 &&& x.2 ≠ 0) ∨
    (∃ i ∈ [25, 27, 29], (r.get 0 i ≠ 0 ∨ r.get 0 (i + 1) ≠ 0) ∧ (r.get 0 i &&& 0xFF0000000000FFFF ≠ 0 ∨
      r.get 0 (i + 1) &&& 0xFFFFFFF000000000 ≠ 0 ∨ L (i + 1) / 2 ^ 32 % 16 ∉ [1, 2, 3])) ∨
    L 3 / 2 ^ 45 % 8 = 7 ∨ ((r.get 0 4).getLsbD 19 = false ∧ r.get 0 13 ≠ 0)
  | 2 => 64 < width 1 + width 2 + width 3 + width 4 + width 5 + width 6
  | 3 => ∃ i ∈ [1, 2, 3, 4, 5, 6], 2 ^ width i ≤ L (4 + i)
  | 4 => 60 < L 11 % 128 ∨ 96 < L 11 / 2 ^ 20 % 256 ∨ 128 < L 11 / 256 % 256 ∨ 8 < nbar ∨ 32768 < nrows ∨ ¬ 8 ∣ nrows ∨
    3 * 2 ^ 20 < (L 12 % 2 ^ 32 + 4095) / 4096 * 4096 + (L 12 / 2 ^ 32 + 131071) / 131072 * 131072
  | 5 => L 0 = 0 ∨ (∃ i ∈ [0, 2], ¬ 4 ∣ L i) ∨ ∃ i ∈ [1, 14, 16, 18, 20, 22, 23], ¬ 8 ∣ L i
  | 6 => (ctx ≠ lctx ∧ any = false) ∨ queue.getLsbD 63 = false ∨ queue.toNat / 2 ^ 50 % 64 ≠ ctx ∨ 4 < L 4 / 2 ^ 24 % 8
  | 7 => (r.get 0 4).getLsbD 20 = true ∧ right = false
  | 8 => (s.sr ctx 385).toNat % 2 ^ 24 < nrows ∨ cores = 0 ∨ (0 < nbar ∧ cores < recGroup r)
  | _ => False

/-- R25: the reason is that of the first row of Table 1.4 that the record fails, and 0 where it fails none of the first eight.
Choices of the model: log entries 43, 108. -/
def Sys2Proof.Claims.recordsAreChecked : Prop :=
  ∀ s r lctx any right, let reason := s.launchReason r lctx any right
    (reason = 0 ↔ ∀ n, ¬ failsCheck s r lctx any right n) ∧
    ∀ n, n ≠ 0 → (reason = n ↔ failsCheck s r lctx any right n ∧ ∀ m, m < n → ¬ failsCheck s r lctx any right m)

/-- R322, R25, R26, R317: `launch` of a record in plain memory completes where its queue has room: a record that passes the checks and
waits for no word is accepted behind the others, ready where it has no deadline ahead; one that fails a check is not. Where the record
names a status word, or pages to fetch while stores wait, none of this is claimed. Where there is no room the stream stalls and holds the record it has read, and a launch
that has stalled does the same with the record it holds, whatever memory holds now. -/
def Sys2Proof.Claims.launchesAreAccepted : Prop :=
  ∀ s c st a, s.cur = .strm c st → (s.rdS a).toNat % 256 = 0 → Settled s c →
    (∀ ia e k, (s.coreAt c).launchRec = none → Plain s s.req (s.rdS a).toNat 256 { r := true } ia e k →
      launchDoes s c a (recordIn s k)) ∧
    (∀ r, (s.coreAt c).launchRec = some r → launchDoes s c a r)

/-- The clauses of recordsAreChecked and launchesAreAccepted. -/
def Obligations.LaunchesAreAccepted : Prop := recordsAreChecked ∧ launchesAreAccepted

/-- The context of core c has sequencer q, which S[b] names (R331). -/
def Sys2Proof.Claims.namesSequencer (s : State) (c b q : Nat) : Prop :=
  (s.rdS b).toNat = q ∧ q < 48 ∧ bit (s.sr (s.coreCtx c) 387) q = true

/-- R331: `fork` on an idle sequencer whose in-mailbox is empty starts it at S[a] with the registers of R331 and gives 1; on a busy one
it starts nothing and gives 0.
Choices of the model: log entry 44. -/
def Obligations.ForksStartSequencers : Prop :=
  ∀ s c st d a b sc q t, s.cur = .strm c st → namesSequencer s c b q → (s.rdS a).toNat % 4 = 0 → Settled s c →
    (s.coreAt c).task = some t → sc < 8 →
    ((s.seqrAt q).running = false → (s.seqrAt q).resetting = false → ((s.coreAt c).inBox.get {} q).msg = none →
      ((s.coreAt c).inBox.get {} q).err = none →
      ∃ u, exec (.fork d a b sc) s = .next u ∧ onward s u ∧ received s u d 1 ∧ (u.seqrAt q).running = true ∧
        (u.seqrAt q).pc = s.rdS a ∧ (u.seqrAt q).owner = some c ∧ (u.seqrAt q).ctx = t.ctx ∧
        (u.seqrAt q).win = (s.ctxAt t.ctx).sr ∧
        ∀ n, (u.seqrAt q).s.get 0 n = if n = 1 then s.rdS d else if n = 2 then BitVec.ofNat 64 c else if n = 3 then BitVec.ofNat 64 q else 0) ∧
    ((s.seqrAt q).running = true ∨ (s.seqrAt q).resetting = true ∨ ((s.coreAt c).inBox.get {} q).msg.isSome = true ∨
        ((s.coreAt c).inBox.get {} q).err.isSome = true →
      exec (.fork d a b sc) s = .next (s.wrS d 0).step4)

/-- The eight words of a message in S[a] to S[a + 7] (R333). -/
def Sys2Proof.Claims.messageOf (s : State) (a : Nat) : List Word := (List.range 8).map fun i => s.rdS (a + i)

/-- R333 on a core: `msend` to an empty out-mailbox puts the message there and gives 1; to a full one, with no stream of the task's on
the sequencer, it gives 0. `mrecv` of a receivable message moves it to S[a] to S[a + 7] and gives 1; with neither message, error nor such
a stream it gives 0; without a message but with an error set it clears the error and raises 0x12 or 0x18, as the error says, with the
error's words in the record. -/
def Sys2Proof.Claims.coresExchangeMessages : Prop :=
  ∀ s c st d a b q, s.cur = .strm c st → namesSequencer s c b q → 1 ≤ a → a ≤ 56 → Settled s c →
    (∀ sc, sc < 8 → ((s.coreAt c).outBox.get {} q).msg = none →
      ∃ t, exec (.msend d a b sc) s = .next t ∧ onward s t ∧ received s t d 1 ∧
        (t.coreAt c).outBox.get {} q = { msg := some (messageOf s a) }) ∧
    (∀ sc m, sc < 8 → ((s.coreAt c).outBox.get {} q).msg = some m → q ∉ s.forksOf c →
      ∃ t, exec (.msend d a b sc) s = .next t ∧ onward s t ∧ received s t d 0 ∧ (t.coreAt c).outBox = (s.coreAt c).outBox) ∧
    (∀ m, ((s.coreAt c).inBox.get {} q).msg = some m → ((s.coreAt c).inBox.get {} q).ready = true →
      ∃ t, exec (.mrecv d a b) s = .next t ∧ onward s t ∧ t.rdS d = (if d = 0 then 0 else 1) ∧
        ((t.coreAt c).inBox.get {} q).msg = none ∧ (∀ i, i < 8 → a + i ≠ d → t.rdS (a + i) = m.getD i 0) ∧
        ∀ n, n ≠ d → (n < a ∨ a + 8 ≤ n) → t.rdS n = s.rdS n) ∧
    (((s.coreAt c).inBox.get {} q).msg = none → ((s.coreAt c).inBox.get {} q).err = none → q ∉ s.forksOf c →
      ∃ t, exec (.mrecv d a b) s = .next t ∧ onward s t ∧ received s t d 0) ∧
    (∀ e, st = .a → Still s c → ((s.coreAt c).inBox.get {} q).msg = none → ((s.coreAt c).inBox.get {} q).err = some e →
      ∃ t, exec (.mrecv d a b) s = .next t ∧ trapped s t c (if bf e.1 7 0 = 0x12 then 0x12 else 0x18) ∧
        (t.coreAt c).rcd.get 0 8 = e.1 ∧ (t.coreAt c).rcd.get 0 9 = e.2 ∧ ((t.coreAt c).inBox.get {} q).err = none)

/-- R333 on a sequencer: without its partner `msend` and `mrecv` give 0; with it `msend` fills the partner's empty in-mailbox, and
`mrecv` empties its out-mailbox of a receivable message; each gives 1. -/
def Sys2Proof.Claims.sequencersExchangeMessages : Prop :=
  ∀ s q d a, s.cur = .seqr q → 1 ≤ a → a ≤ 56 → (∀ o ∈ s.pend, o.agent ≠ 512 + q) →
    (s.partner? q = none →
      (∃ t, exec (.msend d a 0 0) s = .next t ∧ onward s t ∧ received s t d 0) ∧
      ∃ t, exec (.mrecv d a 0) s = .next t ∧ onward s t ∧ received s t d 0) ∧
    (∀ c, s.partner? q = some c → (c.inBox.get {} q).msg = none →
      ∃ t c', exec (.msend d a 0 0) s = .next t ∧ onward s t ∧ received s t d 1 ∧ t.partner? q = some c' ∧
        (c'.inBox.get {} q).msg = some (messageOf s a)) ∧
    (∀ c m, s.partner? q = some c → (c.outBox.get {} q).msg = some m → (c.outBox.get {} q).ready = true →
      ∃ t c', exec (.mrecv d a 0) s = .next t ∧ onward s t ∧ t.rdS d = (if d = 0 then 0 else 1) ∧ t.partner? q = some c' ∧
        (c'.outBox.get {} q).msg = none ∧ ∀ i, i < 8 → a + i ≠ d → t.rdS (a + i) = m.getD i 0)

/-- The search command of eight words at scratchpad address S[a] (R334). -/
def Sys2Proof.Claims.searchCommand (s : State) (c a : Nat) : List Word :=
  (List.range 8).map fun i => BitVec.ofNat 64 (leNat ((s.coreAt c).sbytes ((s.rdS a).toNat + 8 * i) 8))

/-- R334, R249: a search whose command passes the six checks is issued: it takes the first free engine slot, whose handle S[d]
receives, and nothing else changes. -/
def Sys2Proof.Claims.searchesAreIssued : Prop :=
  ∀ s c st d a b sc r slot, s.cur = .strm c st → Settled s c → sc < 8 →
    let m := searchCommand s c a
    let w (i : Nat) : Word := m.getD i 0
    (s.coreAt c).spadCheck (s.rdS a).toNat 64 64 = none →
    bf (w 1) 63 56 = 0 → bf (w 2) 63 56 = 0 → bf (w 2) 31 24 = 0 → bf (w 3) 31 0 ≤ 1024 →
    (s.coreAt c).regionOf? c (s.coreCtx c) (bf (w 0) 31 0) = some r → bindV r.bind = true → (s.rdS b).toNat = bindUnit r.bind →
    s.storeOk r.bind = true → (s.coreAt c).spadCheck (bf (w 3) 63 32) (8 + 8 * bf (w 3) 31 0) 8 = none →
    (s.coreAt c).freeSlot? = some slot →
    exec (.srch d a b sc) s = .next (issued s c slot
      { kind := 5, scope := sc, src := m, win := (s.ctxAt (s.coreCtx c)).sr, desc := r.bind, su := bindUnit r.bind, no := s.issued } d).step4

/-- A stream slot's place: S[a] lies in the slot table of the acting core's context, and its 128 plain bytes stand at ia, k in memory,
clear of the frame tables' words for it; nothing waits anywhere, and the core is settled (R342, R354). -/
structure Sys2Proof.Claims.SlotAt (s : State) (c a : Nat) (ia : Nat) (e : Entry) (k : Nat) : Prop where
  table : bf (s.sr (s.coreCtx c) 320) 55 7 * 128 ≤ (s.rdS a).toNat ∧
    (s.rdS a).toNat < bf (s.sr (s.coreCtx c) 320) 55 7 * 128 + 128 * bf (s.sr (s.coreCtx c) 321) 15 0
  aligned : (s.rdS a).toNat % 128 = 0 ∧ ia % 128 = 0
  plain : Plain s s.req (s.rdS a).toNat 128 {} ia e k
  tier : e.tier < 2
  tables : ∀ w ∈ tableWords s ia, w + 8 ≤ k ∨ k + 128 ≤ w
  settled : Settled s c
  quiet : s.pend = []

/-- The slot at ia is in use: its number and record (R342). -/
def Sys2Proof.Claims.inUse (s : State) (c ia g : Nat) (x : SlotDev) : Prop :=
  s.slots.find? (fun d => d.2.used && decide (d.2.ia = ia)) = some (g, x) ∧ x.ia = ia ∧ x.ctx = s.coreCtx c

/-- Word i of the slot at key k of memory. -/
def Sys2Proof.Claims.slotWordIn (s : State) (k i : Nat) : Word := s.raw64 (k + 8 * i)

/-- No byte of memory outside the slot at key k changed. -/
def Sys2Proof.Claims.onlySlot (s t : State) (k : Nat) : Prop := ∀ j, (j < k ∨ k + 128 ≤ j) → t.mem.get 0 j = s.mem.get 0 j

/-- R357: `sread` of a slot in use gives its word S[b] and changes no memory. -/
def Sys2Proof.Claims.slotReadsGiveTheWord : Prop :=
  ∀ s c st d a b ia e k g x, s.cur = .strm c st → SlotAt s c a ia e k → inUse s c ia g x → (s.rdS b).toNat < 16 →
    ∃ t, exec (.sread d a b) s = .next t ∧ onward s t ∧ received s t d (slotWordIn s k (s.rdS b).toNat) ∧ t.mem = s.mem

/-- The acting task is a supervisor's (R34), and S[b] names a `sarm` operation (R358). -/
def Sys2Proof.Claims.mayArm (s : State) (c b op : Nat) : Prop := (∃ t, (s.coreAt c).task = some t ∧ t.sup = true) ∧ (s.rdS b).toNat = op

/-- Field `state` of a slot (Table 13.2). -/
def Sys2Proof.Claims.slotState (s : State) (k : Nat) : Nat := bf (slotWordIn s k 12) 62 61

/-- An eviction of the slot at key k has no page to move (R359): no state page that the windows of q show is a polder page, and the
frame tables' words for them stand clear of the slot. -/
def Sys2Proof.Claims.framesStand (s : State) (q : Req) (k : Nat) : Prop :=
  ∀ j, j ≤ bf (slotWordIn s k 5) 63 56 → ∀ ia, s.translate? q (bf (slotWordIn s k 5) 55 0 + 65536 * j) 1 {} = .ok ia →
    (∀ w ∈ tableWords s ia, w + 8 ≤ k ∨ k + 128 ≤ w) ∧ ∀ x, s.entry? ia = some x → x.isPolder = false

/-- The event ring of the function that acts for a context is disabled (R367). -/
def Sys2Proof.Claims.ringOff (s : State) (ctx : Nat) : Prop := (s.fr (s.fnOf ctx) 0x28).toNat % 16 < 4

/-- An eviction is over (R359, steps 3 and 4): the context's dike has lost the slot's units, and the slot holds none. -/
def Sys2Proof.Claims.evicted (s t : State) (ctx k g : Nat) : Prop :=
  (t.slots.get {} g).evict = none ∧ slotWordIn t k 9 = setBf (slotWordIn s k 9) 11 0 0 ∧
  t.sr ctx 192 = setBf (s.sr ctx 192) 11 0 (bf (s.sr ctx 192) 11 0 - bf (slotWordIn s k 9) 11 0)

/-- R358, R359: the `sarm` operations on a slot in use with no eviction under way. Arm (from idle and evicted) makes it armed and stamps
it, disarm (from armed) idle, retire (from idle and evicted) free, evict (from idle and armed) evicted, with all of its eviction done where
the slot has no state page in the polder; each gives 0 and changes no other word but `W12`, arm `W10` too, and evict `W9`. In another
state the answer is all ones and memory stays. While an eviction is under way every one of them waits. In a user task each raises
0x02. Retire is stated for a slot that owes memory no work: that it does what is owed first is the model's choice, log entry 120. -/
def Sys2Proof.Claims.slotsAreArmedAndRetired : Prop :=
  (∀ s c st d a b ia e k g x, s.cur = .strm c st → SlotAt s c a ia e k → inUse s c ia g x →
    let moves (i : Instr) (from_ : List Nat) (next : Nat) (but : List Nat) (more : State → Prop) : Prop :=
      (x.evict = none → slotState s k ∈ from_ → ∃ t, exec i s = .next t ∧ onward s t ∧ received s t d 0 ∧ slotState t k = next ∧ more t ∧
        onlySlot s t k ∧ ∀ j, j < 16 → j ∉ 12 :: but → slotWordIn t k j = slotWordIn s k j) ∧
      (x.evict = none → slotState s k ∉ from_ →
        ∃ t, exec i s = .next t ∧ onward s t ∧ received s t d 0xFFFFFFFFFFFFFFFF ∧ t.mem = s.mem) ∧
      (x.evict ≠ none → ∃ t, exec i s = .next t ∧ t.pc = s.pc ∧ t.note = .stalled ∧ t.mem = s.mem)
    (mayArm s c b 1 → moves (.sarmArm d a b) [1, 3] 2 [10] fun t => slotWordIn t k 10 = BitVec.ofNat 64 s.dtime) ∧
    (mayArm s c b 2 → moves (.sarmDisarm d a b) [2] 1 [] fun _ => True) ∧
    (mayArm s c b 3 → x.work = [] → moves (.sarmRetire d a b) [1, 3] 0 [] fun t => (t.slots.get {} g).used = false) ∧
    (mayArm s c b 4 → framesStand s (s.devReq 0 (s.coreCtx c)) k → ringOff s (s.coreCtx c) → s.slots.get {} g = x →
      moves (.sarmEvict d a b) [1, 2] 3 [9] fun t => evicted s t (s.coreCtx c) k g)) ∧
  (∀ i : Instr, ∀ s c, (∃ d a b, i ∈ [.sarmCreate d a b, .sarmArm d a b, .sarmDisarm d a b, .sarmRetire d a b, .sarmEvict d a b]) →
    s.cur = .strm c .a → Still s c → (∀ u, (s.coreAt c).task = some u → u.sup = false) → ∃ t, exec i s = .next t ∧ trapped s t c 0x02)


/-- A request of the device for the acting core's context (R351). -/
def Sys2Proof.Claims.deviceRequest (s : State) (c : Nat) : Req := s.devReq 0 (s.coreCtx c)

/-- Where the descriptor of sequence slot n stands (R287). -/
def Sys2Proof.Claims.descriptorAddress (s : State) (c n : Nat) : Nat := bf (s.sr (s.coreCtx c) 322) 55 5 * 32 + 32 * n

/-- R355: `scommit` under the slot's epoch writes the token at the position after the last, moves `G` on, and gives the new `G`; under
another epoch it writes no token and gives all ones. Stated for a sequence slot without a prefix slot, and a token away from stream
slots. -/
def Sys2Proof.Claims.commitsAppendAToken : Prop :=
  ∀ s c st d a b ia e k g x, s.cur = .strm c st → SlotAt s c a ia e k → inUse s c ia g x →
    (bf (s.rdS b) 63 32 ≠ bf (slotWordIn s k 1) 63 32 →
      ∃ t, exec (.scommit d a b) s = .next t ∧ onward s t ∧ received s t d 0xFFFFFFFFFFFFFFFF ∧ onlySlot s t k ∧
        slotWordIn t k 0 = slotWordIn s k 0) ∧
    (∀ ia1 e1 k1 ia2 e2 k2, bf (s.rdS b) 63 32 = bf (slotWordIn s k 1) 63 32 →
      Plain s (deviceRequest s c) (descriptorAddress s c (bf (slotWordIn s k 1) 15 0)) 24 { r := true } ia1 e1 k1 →
      bf (s.raw64 (k1 + 16)) 63 48 = 0xFFFF → bf (slotWordIn s k 0) 31 0 < bf (s.raw64 (k1 + 8)) 63 32 →
      Plain s s.req (bf (s.raw64 k1) 55 0 + bf (slotWordIn s k 0) 31 0 * bf (s.raw64 (k1 + 8)) 31 0) 4 { w := true } ia2 e2 k2 →
      s.guarded s.req.ctx ia2 4 = false → e2.tier < 2 → (k2 + 4 ≤ k ∨ k + 128 ≤ k2) → (∀ w ∈ tableWords s ia, w + 8 ≤ k2 ∨ k2 + 4 ≤ w) →
      ∃ t, exec (.scommit d a b) s = .next t ∧ onward s t ∧
        received s t d (BitVec.ofNat 64 (bf (slotWordIn s k 0) 31 0 + 1)) ∧
        slotWordIn t k 0 = setBf (slotWordIn s k 0) 31 0 (bf (slotWordIn s k 0) 31 0 + 1) ∧
        t.mem.bytes k2 4 = leBytes 4 (bf (s.rdS b) 31 0) ∧
        ∀ j, (j < k ∨ k + 8 ≤ j) → (j < k2 ∨ k2 + 4 ≤ j) → t.mem.get 0 j = s.mem.get 0 j)

/-- R356: `trunc` to the slot's own `G` moves its epoch on and gives `rp`, with no cut; a position outside `P` to `G` raises 0x05. -/
def Sys2Proof.Claims.truncationToTheEndMovesTheEpoch : Prop :=
  ∀ s c d a b ia e k g x, s.cur = .strm c .a → SlotAt s c a ia e k → inUse s c ia g x → (s.coreAt c).trunc = none →
    ((s.rdS b).toNat = bf (slotWordIn s k 0) 31 0 → bf (slotWordIn s k 0) 63 32 ≤ (s.rdS b).toNat →
      ∃ t, exec (.trunc d a b) s = .next t ∧ onward s t ∧ received s t d (BitVec.ofNat 64 (bf (slotWordIn s k 11) 63 32)) ∧
        slotWordIn t k 1 = setBf (slotWordIn s k 1) 63 32 (bf (slotWordIn s k 1) 63 32 + 1) ∧
        ∀ j, (j < k + 8 ∨ k + 16 ≤ j) → t.mem.get 0 j = s.mem.get 0 j) ∧
    ((s.rdS b).toNat < bf (slotWordIn s k 0) 63 32 ∨ bf (slotWordIn s k 0) 31 0 < (s.rdS b).toNat → Still s c →
      ∃ t, exec (.trunc d a b) s = .next t ∧ trapped s t c 0x05 ∧ t.mem = s.mem)

/-- The words of a free slot pass the checks of R358 in a context with room for a slot: reserved bits clear, cursors in order, sizes and
alignments right, the sequence slot's prefix as named, every state page a polder page of the context. -/
structure Sys2Proof.Claims.Creatable (s : State) (c k : Nat) : Prop where
  reserved : bf (slotWordIn s k 4) 63 56 = 0 ∧ bf (slotWordIn s k 7) 59 56 = 0 ∧ bf (slotWordIn s k 9) 15 12 = 0 ∧
    bf (slotWordIn s k 14) 63 59 = 0
  cursors : bf (slotWordIn s k 0) 63 32 ≤ bf (slotWordIn s k 0) 31 0
  sizes : bf (slotWordIn s k 6) 63 56 ≤ bf (slotWordIn s k 5) 63 56 ∧ bf (slotWordIn s k 7) 63 60 ≤ 8
  alignment : bf (slotWordIn s k 5) 15 0 = 0 ∧ bf (slotWordIn s k 6) 15 0 = 0 ∧ bf (slotWordIn s k 7) 7 0 = 0
  sequence : bf (slotWordIn s k 1) 15 0 ≠ 0xFFFF
  descriptor : ∃ ia e k1, Plain s (deviceRequest s c) (descriptorAddress s c (bf (slotWordIn s k 1) 15 0)) 24 { r := true } ia e k1 ∧
    bf (s.raw64 (k1 + 16)) 63 48 = bf (slotWordIn s k 1) 31 16
  pages : ∀ i, i ≤ bf (slotWordIn s k 5) 63 56 → ∃ ia e,
    s.translate? (deviceRequest s c) (bf (slotWordIn s k 5) 55 0 + 65536 * i) 1 {} = .ok ia ∧
    s.winBad (s.coreCtx c) (bf (slotWordIn s k 5) 55 0 + 65536 * i) = false ∧ s.entry? ia = some e ∧ e.v = true ∧ e.isPolder = true ∧
    e.ctx = s.coreCtx c
  quota : s.slotsUsed (s.coreCtx c) < bf (s.sr (s.coreCtx c) 386) 15 0
  number : ∀ n, (s.freeGnum? n).isSome = true

/-- R358, Table 13.6: `sarm` create of a free slot that passes the checks gives it a free number, which S[d] receives, and starts it:
`W12` idle with the number and the late-frame policy kept, `W13` zero, `fdone` at `fin`, `rp` at `G`, `W10` the time; no other word and
no byte outside the slot changes.
Choices of the model: log entries 60, 41. -/
def Obligations.SlotsAreCreated : Prop :=
  ∀ s c st d a b ia e k, s.cur = .strm c st → SlotAt s c a ia e k → mayArm s c b 0 →
    s.slots.find? (fun y => y.2.used && decide (y.2.ia = ia)) = none → Creatable s c k →
    ∃ t g, exec (.sarmCreate d a b) s = .next t ∧ onward s t ∧ received s t d (BitVec.ofNat 64 g) ∧ g < 32768 ∧
      (s.slots.get {} g).used = false ∧ (t.slots.get {} g).used = true ∧ (t.slots.get {} g).ia = ia ∧
      (t.slots.get {} g).ctx = s.coreCtx c ∧
      slotWordIn t k 12 = BitVec.ofNat 64 (2 ^ 61 + bf (slotWordIn s k 12) 60 60 * 2 ^ 60 + g * 2 ^ 32) ∧ slotWordIn t k 13 = 0 ∧
      slotWordIn t k 8 = setBf (slotWordIn s k 8) 63 32 (bf (slotWordIn s k 8) 31 0) ∧
      slotWordIn t k 11 = BitVec.ofNat 64 (bf (slotWordIn s k 0) 31 0 * 2 ^ 32) ∧ slotWordIn t k 10 = BitVec.ofNat 64 s.dtime ∧
      onlySlot s t k ∧ ∀ j, j < 16 → j ∉ [8, 10, 11, 12, 13] → slotWordIn t k j = slotWordIn s k j


/-- A slot of a pair word of an X stream passes the bounds of R29 and R110 for the vector registers it writes, its operands and its
predicates, and every vector queue that an operand names has an entry for each cluster that reads it (R16, R41). -/
structure Sys2Proof.Claims.SlotReady (s : State) (g : XGuard) (ds : List Nat) (ops : List VOp) (ps : List Nat) : Prop where
  stream : ∃ c st, s.cur = .strm c st ∧ st ≠ .a ∧ st ≠ .z
  registers : ∀ d ∈ ds, d < (s.core.task.getD {}).nvreg
  operands : ∀ o ∈ ops, Sys2Proof.Machine.VOp.beyond (s.core.task.getD {}).nvreg o = false
  predicates : ∀ p ∈ ps, p < (s.core.task.getD {}).npred
  guard : g.gpred = 127 ∨ g.gpred < (s.core.task.getD {}).npred
  heads : ∀ j ∈ headsOf ops, ∀ k ∈ clustersOf s.strmNo, (s.core.q.head? j k).isSome = true

/-- Lane l is written: it lies in the span of the stream, and the guard is true there (R50, R109). -/
def Sys2Proof.Claims.writes (s : State) (g : XGuard) (l : Nat) : Prop := s.span.1 ≤ l ∧ l < s.span.1 + s.span.2 ∧ s.on g l = true

/-- Vector register d received, in the lanes that are written and no other, numbers x of which P l x holds. -/
def Sys2Proof.Claims.lanesHold (s t : State) (g : XGuard) (d : Nat) (P : Nat → Nat → Prop) : Prop :=
  (∀ l, writes s g l → P l ((t.core.vreg d).get 0 l).toNat) ∧
  ∀ l, ¬ writes s g l → (t.core.vreg d).get 0 l = (s.core.vreg d).get 0 l

/-- The slot took effect and wrote register d alone: no other vector register, no predicate, no k or s register changed, and the pc is
left to the word. -/
def Sys2Proof.Claims.wroteLanes (s t : State) (g : XGuard) (d : Nat) (P : Nat → Nat → Prop) : Prop :=
  lanesHold s t g d P ∧ (∀ n, n ≠ d → t.core.vreg n = s.core.vreg n) ∧ t.core.p = s.core.p ∧ t.core.k = s.core.k ∧
  t.core.s = s.core.s ∧ t.pc = s.pc ∧ t.note = .done

/-- The FP32 operations of two operands that round (R112): mode, draw, operands. -/
noncomputable def Sys2Proof.Claims.roundingOps : List ((XGuard → Nat → Nat → VOp → VOp → Instr) × (Nat → Nat → Nat → Nat → Res)) :=
  [(.fadd, fAdd fp32), (.fsub, fSub fp32), (.fmul, fMul fp32)]

/-- The fused operations (R112): whether the product and whether the addend are negated. -/
noncomputable def Sys2Proof.Claims.fusedOps : List ((XGuard → Nat → Nat → VOp → VOp → Instr) × Bool × Bool) :=
  [(.fma, false, false), (.fms, true, false), (.fnma, false, true)]

/-- The FP32 functions of one operand (R114). -/
noncomputable def Sys2Proof.Claims.functionOps : List ((XGuard → Nat → Nat → VOp → Instr) × (Nat → Nat → Nat → Res)) :=
  [(.rcp, fRcp), (.rsqrt, fRsqrt), (.exp2, fExp2), (.log2, fLog2)]

/-- The packed 16-bit operations (R115): format, mode, draw, d, a and b elements. -/
noncomputable def Sys2Proof.Claims.packedOps : List ((XGuard → Nat → Nat → Nat → VOp → VOp → Instr) × (FFmt → Nat → Nat → Nat → Nat → Nat → Res)) :=
  [(.hadd, fun f rm w _ x y => fAdd f rm w x y), (.hsub, fun f rm w _ x y => fSub f rm w x y),
   (.hmul, fun f rm w _ x y => fMul f rm w x y), (.hfma, fun f rm w z x y => fFma f false false rm w z x y)]

/-- The packed minimum and maximum (R115). -/
noncomputable def Sys2Proof.Claims.packedExtremes : List ((XGuard → Nat → Nat → VOp → VOp → Instr) × Bool) := [(.hmin, false), (.hmax, true)]

/-- The first draw of lane l (R82). -/
def Sys2Proof.Claims.draw (s : State) (l : Nat) : Nat := drawOf (s.core.gen l)

/-- The magnitude of a pattern (R69): E = 0 has no hidden bit. An infinity counts as the power of two beyond the largest finite value. -/
noncomputable def Sys2Proof.Claims.magnitude (F : FFmt) (b : Nat) : ℚ :=
  let E := b / 2 ^ F.mant % 2 ^ (F.width - 1 - F.mant)
  let M : ℚ := (b % 2 ^ F.mant : Nat)
  if E = 0 then M * 2 ^ (1 - (F.bias : ℤ) - F.mant) else ((2 : ℚ) ^ F.mant + M) * 2 ^ ((E : ℤ) - F.bias - F.mant)

/-- The sign bit of a pattern. -/
def Sys2Proof.Claims.negative (F : FFmt) (b : Nat) : Bool := b.testBit (F.width - 1)

/-- The number that a pattern stands for (R69); -0 and +0 are the same number. -/
noncomputable def Sys2Proof.Claims.number (F : FFmt) (b : Nat) : ℚ := if negative F b then -magnitude F b else magnitude F b

/-- A pattern of FP32, BF16, FP16 or E5M2 is a NaN: an exponent of all ones and a mantissa that is not 0 (Table 3.1). -/
def Sys2Proof.Claims.isNaN (F : FFmt) (b : Nat) : Prop :=
  b / 2 ^ F.mant % 2 ^ (F.width - 1 - F.mant) = 2 ^ (F.width - 1 - F.mant) - 1 ∧ b % 2 ^ F.mant ≠ 0

/-- A pattern of such a format is an infinity (Table 3.1). -/
def Sys2Proof.Claims.isInf (F : FFmt) (b : Nat) : Prop :=
  b / 2 ^ F.mant % 2 ^ (F.width - 1 - F.mant) = 2 ^ (F.width - 1 - F.mant) - 1 ∧ b % 2 ^ F.mant = 0

/-- The pattern with a sign. -/
def Sys2Proof.Claims.withSign (F : FFmt) (neg : Bool) (b : Nat) : Nat := if neg then 2 ^ (F.width - 1) + b else b

/-- The quantum of R80: 2^(max (floor (log2 |x|), emin) - m). -/
noncomputable def Sys2Proof.Claims.quantum (F : FFmt) (x : ℚ) : ℚ := 2 ^ (max (Int.log 2 |x|) (1 - (F.bias : ℤ)) - F.mant)

/-- x truncated toward zero to a multiple of q (R80), as the multiple. -/
def Sys2Proof.Claims.towardZero (q x : ℚ) : ℤ := if 0 ≤ x then ⌊x / q⌋ else ⌈x / q⌉

/-- round (x, F, rm, g) of R80 and Table 3.5: a is x truncated toward zero to a multiple of the quantum, b the next multiple away from
zero; under `rsr` the draw chooses. -/
noncomputable def Sys2Proof.Claims.rounded (F : FFmt) (rm draw : Nat) (x : ℚ) : ℚ :=
  let q := quantum F x
  let a := towardZero q x * q
  let b := if 0 ≤ x then a + q else a - q
  if x = a then x
  else if rm = 0 then
    (if |x - a| < |x - b| then a else if |x - b| < |x - a| then b else if towardZero q x % 2 = 0 then a else b)
  else if rm = 1 then a
  else if rm = 2 then max a b
  else if rm = 3 then min a b
  else if (draw : ℚ) < (|x| - |a|) / q * 2 ^ 32 then b else a

/-- ovf of R83 for a finite result beyond the largest finite value: infinity under the modes that round away from zero, else the largest
finite value; a format without infinities gives its largest finite value, E4M3 under `e4nan` its NaN. `inx`: narrowing. -/
def Sys2Proof.Claims.overflowed (F : FFmt) (rm inx : Nat) (e4nan neg : Bool) (r : Res) : Prop :=
  if F.hasInf then
    (if rm = 0 ∨ rm = 4 ∨ (rm = 2 ∧ neg = false) ∨ (rm = 3 ∧ neg = true) then
      r.bits = withSign F neg (F.maxBits + 1) ∧ r.evs = { ovf := 1, inx := inx }
    else r.bits = withSign F neg F.maxBits ∧ r.evs = { sat := 1, inx := inx })
  else if F = e4m3 ∧ e4nan = true then r.bits = 0x7F ∧ r.evs = { ovf := 1, inx := inx }
  else r.bits = withSign F neg F.maxBits ∧ r.evs = { sat := 1, inx := inx }

/-- arith of R111 for an exact result x other than 0: rounded once; a zero result has the sign of x and counts underflow-to-zero. -/
def Sys2Proof.Claims.arithGives (F : FFmt) (rm draw : Nat) (x : ℚ) (r : Res) : Prop :=
  (magnitude F F.maxBits < |rounded F rm draw x| → overflowed F rm 0 false (decide (x < 0)) r) ∧
  (|rounded F rm draw x| ≤ magnitude F F.maxBits →
    number F r.bits = rounded F rm draw x ∧ negative F r.bits = decide (x < 0) ∧ F.magBits r.bits ≤ F.maxBits ∧
    r.evs = if rounded F rm draw x = 0 then { unf := 1 } else {})

/-- The default NaN, with no event or with one invalid. -/
def Sys2Proof.Claims.givesNaN (F : FFmt) (invalid : Bool) (r : Res) : Prop :=
  F.nan = some r.bits ∧ r.evs = if invalid then { inv := 1 } else {}

/-- R80, R111, R112: in FP32, BF16 and FP16 sums and differences, products and fused sums round the exact result once. A NaN operand gives
the default NaN and no event; a NaN that arises counts invalid; an exact zero counts nothing, and of a sum it keeps the sign of two zeros
of one sign, and is otherwise +0, or -0 under `rdn`; an infinity is returned as it is. `n`: the second term's sign is turned. -/
def Sys2Proof.Claims.arithmeticRoundsOnce : Prop :=
  ∀ F ∈ [fp32, bf16, fp16], ∀ rm draw x y z, rm < 5 → draw < 2 ^ 32 → x < 2 ^ F.width → y < 2 ^ F.width → z < 2 ^ F.width →
    let finite (v : Nat) : Prop := ¬ isNaN F v ∧ ¬ isInf F v
    let fsum (n : Bool) : Res := if n then fSub F rm draw x y else fAdd F rm draw x y
    let turned (n : Bool) (v : ℚ) : ℚ := if n then -v else v
    (∀ n, (isNaN F x ∨ isNaN F y → givesNaN F false (fsum n)) ∧
      (isInf F x → isInf F y → (negative F x ≠ (negative F y != n) → givesNaN F true (fsum n)) ∧
        (negative F x = (negative F y != n) → (fsum n).bits = x ∧ (fsum n).evs = {})) ∧
      (isInf F x → finite y → (fsum n).bits = x ∧ (fsum n).evs = {}) ∧
      (finite x → isInf F y → (fsum n).bits = withSign F (negative F y != n) (F.maxBits + 1) ∧ (fsum n).evs = {}) ∧
      (finite x → finite y →
        (number F x + turned n (number F y) ≠ 0 → arithGives F rm draw (number F x + turned n (number F y)) (fsum n)) ∧
        (number F x + turned n (number F y) = 0 → (fsum n).evs = {} ∧ (fsum n).bits = withSign F
          (if number F x = 0 ∧ negative F x = (negative F y != n) then negative F x else decide (rm = 3)) 0))) ∧
    ((isNaN F x ∨ isNaN F y → givesNaN F false (fMul F rm draw x y)) ∧
      ((isInf F x ∧ finite y ∧ number F y = 0) ∨ (isInf F y ∧ finite x ∧ number F x = 0) → givesNaN F true (fMul F rm draw x y)) ∧
      ((isInf F x ∧ ¬ isNaN F y ∧ number F y ≠ 0) ∨ (isInf F y ∧ ¬ isNaN F x ∧ number F x ≠ 0) →
        (fMul F rm draw x y).bits = withSign F (negative F x != negative F y) (F.maxBits + 1) ∧ (fMul F rm draw x y).evs = {}) ∧
      (finite x → finite y →
        (number F x * number F y ≠ 0 → arithGives F rm draw (number F x * number F y) (fMul F rm draw x y)) ∧
        (number F x * number F y = 0 → number F (fMul F rm draw x y).bits = 0 ∧ (fMul F rm draw x y).evs = {}))) ∧
    ∀ np nd,
      (isNaN F x ∨ isNaN F y ∨ isNaN F z → givesNaN F false (fFma F np nd rm draw z x y)) ∧
      (finite x → finite y → finite z →
        let e := turned nd (number F z) + turned np (number F x * number F y)
        (e ≠ 0 → arithGives F rm draw e (fFma F np nd rm draw z x y)) ∧
        (e = 0 → number F (fFma F np nd rm draw z x y).bits = 0 ∧ (fFma F np nd rm draw z x y).evs = {}))

/-- R83: a conversion from FP32 to a narrower float. A NaN gives the target's default NaN, or +0 and invalid where it has none; a source
subnormal becomes a zero of its sign and counts; a value below the smallest subnormal becomes that or zero, by the draw; any other value is
rounded once, and beyond the largest finite value overflows by the mode; each value that changes counts inexact. -/
def Sys2Proof.Claims.conversionsRoundOnce : Prop :=
  ∀ F ∈ [bf16, fp16, e4m3, e5m2, e2m3, e3m2, e2m1], ∀ e4nan rm draw x, rm < 5 → draw < 2 ^ 32 → x < 2 ^ 32 →
    let r := cvtElem (.flt fp32) (.flt F) e4nan rm draw x
    let neg := negative fp32 x
    let y := number fp32 x
    let minsub : ℚ := 2 ^ (1 - (F.bias : ℤ) - F.mant)
    (isNaN fp32 x → match F.nan with
      | some n => r.bits = n ∧ r.evs = {}
      | none => r.bits = 0 ∧ r.evs = { inv := 1 }) ∧
    (isInf fp32 x → if F.hasInf then r.bits = withSign F neg (F.maxBits + 1) ∧ r.evs = {}
      else if F = e4m3 ∧ e4nan = true then r.bits = 0x7F ∧ r.evs = { inv := 1 }
      else r.bits = withSign F neg F.maxBits ∧ r.evs = { inv := 1, sat := 1 }) ∧
    (y = 0 → r.bits = withSign F neg 0 ∧ r.evs = {}) ∧
    (y ≠ 0 → |y| < 2 ^ (-126 : ℤ) → r.bits = withSign F neg 0 ∧ r.evs = { unf := 1 }) ∧
    (¬ isNaN fp32 x → ¬ isInf fp32 x → 2 ^ (-126 : ℤ) ≤ |y| →
      (|y| < minsub → if (draw : ℚ) < |y| / minsub * 2 ^ 32 then r.bits = withSign F neg 1 ∧ r.evs = { inx := 1 }
        else r.bits = withSign F neg 0 ∧ r.evs = { unf := 1, inx := 1 }) ∧
      (minsub ≤ |y| → magnitude F F.maxBits < |rounded F rm draw y| → overflowed F rm 1 e4nan neg r) ∧
      (minsub ≤ |y| → |rounded F rm draw y| ≤ magnitude F F.maxBits →
        number F r.bits = rounded F rm draw y ∧ negative F r.bits = neg ∧ F.magBits r.bits ≤ F.maxBits ∧
        r.evs = if rounded F rm draw y = y then {} else { inx := 1 }))

/-- R69, R80, R83, R111, R112: what the element functions of the floating-point operations give: the exact result, rounded once. -/
def Obligations.ElementsAreRoundedOnce : Prop := arithmeticRoundsOnce ∧ conversionsRoundOnce

/-- round (x, F, rm, g) of R80 for a real number. -/
noncomputable def Sys2Proof.Claims.realRounded (F : FFmt) (rm draw : Nat) (x : ℝ) : ℝ :=
  let q : ℝ := 2 ^ (max (Int.log 2 |x|) (1 - (F.bias : ℤ)) - F.mant)
  let n : ℤ := if 0 ≤ x then ⌊x / q⌋ else ⌈x / q⌉
  let a := n * q
  let b := if 0 ≤ x then a + q else a - q
  if x = a then x
  else if rm = 0 then (if |x - a| < |x - b| then a else if |x - b| < |x - a| then b else if n % 2 = 0 then a else b)
  else if rm = 1 then a
  else if rm = 2 then max a b
  else if rm = 3 then min a b
  else if (draw : ℝ) < (|x| - |a|) / q * 2 ^ 32 then b else a

/-- arith of R111 in FP32 for an exact real result x other than 0. -/
def Sys2Proof.Claims.realGives (rm draw : Nat) (x : ℝ) (r : Res) : Prop :=
  ((magnitude fp32 fp32.maxBits : ℝ) < |realRounded fp32 rm draw x| → overflowed fp32 rm 0 false (decide (x < 0)) r) ∧
  (|realRounded fp32 rm draw x| ≤ (magnitude fp32 fp32.maxBits : ℝ) →
    (number fp32 r.bits : ℝ) = realRounded fp32 rm draw x ∧ negative fp32 r.bits = decide (x < 0) ∧ fp32.magBits r.bits ≤ fp32.maxBits ∧
    r.evs = if realRounded fp32 rm draw x = 0 then { unf := 1 } else {})

/-- R114, Table 5.2, R111: `rcp`, `rsqrt`, `exp2` and `log2` give the exact 1/x, 1/√x, 2^x and log2 x rounded once, and in the cases of Table
5.2 the value there. That log2 1, an exact zero, is +0, or -0 under `rdn`, is R111's rule. -/
def Sys2Proof.Claims.functionsRoundOnce : Prop :=
  ∀ rm draw x, rm < 5 → draw < 2 ^ 32 → x < 2 ^ 32 →
    let y := number fp32 x
    let neg := negative fp32 x
    let finite : Prop := ¬ isNaN fp32 x ∧ ¬ isInf fp32 x
    let gives (r : Res) (b : Nat) : Prop := r.bits = b ∧ r.evs = {}
    (isNaN fp32 x → givesNaN fp32 false (fRcp rm draw x) ∧ givesNaN fp32 false (fRsqrt rm draw x) ∧
      givesNaN fp32 false (fExp2 rm draw x) ∧ givesNaN fp32 false (fLog2 rm draw x)) ∧
    (y = 0 → gives (fRcp rm draw x) (withSign fp32 neg 0x7F800000) ∧ gives (fRsqrt rm draw x) (withSign fp32 neg 0x7F800000) ∧
      gives (fExp2 rm draw x) 0x3F800000 ∧ gives (fLog2 rm draw x) 0xFF800000) ∧
    (isInf fp32 x → gives (fRcp rm draw x) (withSign fp32 neg 0) ∧
      (neg = false → gives (fRsqrt rm draw x) 0 ∧ gives (fExp2 rm draw x) 0x7F800000 ∧ gives (fLog2 rm draw x) 0x7F800000) ∧
      (neg = true → givesNaN fp32 true (fRsqrt rm draw x) ∧ gives (fExp2 rm draw x) 0 ∧ givesNaN fp32 true (fLog2 rm draw x))) ∧
    (finite → y ≠ 0 →
      arithGives fp32 rm draw (1 / y) (fRcp rm draw x) ∧ realGives rm draw ((2 : ℝ) ^ (y : ℝ)) (fExp2 rm draw x) ∧
      (y < 0 → givesNaN fp32 true (fRsqrt rm draw x) ∧ givesNaN fp32 true (fLog2 rm draw x)) ∧
      (0 < y → realGives rm draw (1 / √(y : ℝ)) (fRsqrt rm draw x) ∧
        (y ≠ 1 → realGives rm draw (Real.logb 2 (y : ℝ)) (fLog2 rm draw x)) ∧
        (y = 1 → gives (fLog2 rm draw x) (if rm = 3 then 0x80000000 else 0))))

/-- R113, R115: the greater (`mx`) or lesser of two patterns: of one NaN and another operand the other; of two NaNs the default NaN; -0 lies
below +0. -/
def Sys2Proof.Claims.extremesAreChosen : Prop :=
  ∀ F ∈ [fp32, bf16, fp16], ∀ mx x y, x < 2 ^ F.width → y < 2 ^ F.width →
    let r := minMax F mx x y
    (isNaN F x → isNaN F y → F.nan = some r) ∧ (isNaN F x → ¬ isNaN F y → r = y) ∧ (¬ isNaN F x → isNaN F y → r = x) ∧
    (¬ isNaN F x → ¬ isNaN F y →
      (number F x < number F y → r = if mx then y else x) ∧ (number F y < number F x → r = if mx then x else y) ∧
      (number F x = number F y → (r = x ∨ r = y) ∧ (negative F x ≠ negative F y → negative F r = !mx)))

/-- A source value of a quantisation (R74): an FP32 number whose subnormals are flushed to zero. -/
noncomputable def Sys2Proof.Claims.flushed (x : Nat) : ℚ := if |number fp32 x| < 2 ^ (-126 : ℤ) then 0 else number fp32 x

/-- cvt of R83 for a narrowing conversion of a flushed value y of the given sign, with ovf as given. -/
def Sys2Proof.Claims.narrowsTo (F : FFmt) (rm draw : Nat) (neg : Bool) (y : ℚ) (r : Res) (ovf : Prop) : Prop :=
  let minsub : ℚ := 2 ^ (1 - (F.bias : ℤ) - F.mant)
  (y = 0 → r.bits = withSign F neg 0 ∧ r.evs = {}) ∧
  (y ≠ 0 → |y| < minsub → if (draw : ℚ) < |y| / minsub * 2 ^ 32 then r.bits = withSign F neg 1 ∧ r.evs = { inx := 1 }
    else r.bits = withSign F neg 0 ∧ r.evs = { unf := 1, inx := 1 }) ∧
  (minsub ≤ |y| → magnitude F F.maxBits < |rounded F rm draw y| → ovf) ∧
  (minsub ≤ |y| → |rounded F rm draw y| ≤ magnitude F F.maxBits →
    number F r.bits = rounded F rm draw y ∧ negative F r.bits = neg ∧ F.magBits r.bits ≤ F.maxBits ∧
    r.evs = if rounded F rm draw y = y then {} else { inx := 1 })

/-- round of R80 to an integer (q = 1). -/
def Sys2Proof.Claims.wholeRounded (rm draw : Nat) (y : ℚ) : ℤ :=
  let a := towardZero 1 y
  let b := if 0 ≤ y then a + 1 else a - 1
  if y = a then a
  else if rm = 0 then (if |y - a| < |y - b| then a else if |y - b| < |y - a| then b else if a % 2 = 0 then a else b)
  else if rm = 1 then a
  else if rm = 2 then max a b
  else if rm = 3 then min a b
  else if (draw : ℚ) < (|y| - |(a : ℚ)|) * 2 ^ 32 then b else a

/-- The flushed values of a quantisation, as the model forms them. -/
def Sys2Proof.Claims.quantValues (xs : List Nat) : List Val := xs.map fun x => (quantIn x true).1

/-- R74, R83: the scale of an MX block is 255 where a value is NaN or infinite, 0 where all are zero, and otherwise
floor (log2 a) - emax + 127 for the greatest magnitude a, limited to 0 to 254; a subnormal counts underflow as it is flushed. An element is its
value divided by the scale, rounded once, and saturates (an E4M3 element by R83 under `e4nan`); MXINT8 to a multiple of 2^-6, from -127
to 127. In a block of scale 255 an element is its format's NaN, or 0.
Choices of the model: log entry 110. -/
def Sys2Proof.Claims.blocksAreScaled : Prop :=
  (∀ f ∈ [(0x10, (8 : ℤ)), (0x11, 15), (0x12, 2), (0x13, 4), (0x14, 2), (0x15, 0)], ∀ xs, (∀ x ∈ xs, x < 2 ^ 32) →
    ((∃ x ∈ xs, isNaN fp32 x ∨ isInf fp32 x) → mxScale f.1 (quantValues xs) = 255) ∧
    ((∀ x ∈ xs, ¬ isNaN fp32 x ∧ ¬ isInf fp32 x) →
      ((∀ x ∈ xs, flushed x = 0) → mxScale f.1 (quantValues xs) = 0) ∧
      ∀ m ∈ xs, flushed m ≠ 0 → (∀ x ∈ xs, |flushed x| ≤ |flushed m|) →
        (mxScale f.1 (quantValues xs) : ℤ) = min (max (Int.log 2 |flushed m| - f.2 + 127) 0) 254)) ∧
  (∀ x, x < 2 ^ 32 → ¬ isNaN fp32 x → ¬ isInf fp32 x →
    (quantIn x true).2 = if flushed x = number fp32 x then {} else { unf := 1 }) ∧
  ∀ e4nan rm draw x, rm < 5 → draw < 2 ^ 32 → x < 2 ^ 32 →
    let v := (quantIn x true).1
    (∀ F ∈ [(0x10, some e4m3), (0x11, some e5m2), (0x12, some e2m3), (0x13, some e3m2), (0x14, some e2m1), (0x15, none)],
      let r := mxElement F.1 255 (.flt fp32) e4nan rm draw v
      r.bits = (F.2.bind FFmt.nan).getD 0 ∧ (isNaN fp32 x ∨ isInf fp32 x → r.evs = { inv := 1 }) ∧
      (¬ isNaN fp32 x → ¬ isInf fp32 x → r.evs = {})) ∧
    (¬ isNaN fp32 x → ¬ isInf fp32 x → ∀ scale, scale < 255 →
      (∀ F ∈ [(0x10, e4m3), (0x11, e5m2), (0x12, e2m3), (0x13, e3m2), (0x14, e2m1)],
        let r := mxElement F.1 scale (.flt fp32) e4nan rm draw v
        narrowsTo F.2 rm draw (negative fp32 x) (flushed x / 2 ^ ((scale : ℤ) - 127)) r
          (if F.2 = e4m3 ∧ e4nan = true then r.bits = 0x7F ∧ r.evs = { ovf := 1, inx := 1 }
           else r.bits = withSign F.2 (negative fp32 x) F.2.maxBits ∧ r.evs = { sat := 1, inx := 1 })) ∧
      (let y := flushed x / 2 ^ ((scale : ℤ) - 133)
       let z := wholeRounded rm draw y
       let limited := max (-127) (min 127 z)
       let r := mxElement 0x15 scale (.flt fp32) e4nan rm draw v
       (r.bits : ℤ) = limited % 256 ∧ r.evs = { sat := if limited = z then 0 else 1, inx := if (limited : ℚ) = y then 0 else 1 }))

/-- R75, R83: the scale of ts_quant is the default NaN where a value is NaN or infinite, 1 where all are zero, and otherwise the greatest
magnitude divided by 448, rounded once to nearest; an element is its value divided by that scale, as E4M3, or 0x7F under the NaN. -/
def Sys2Proof.Claims.groupsAreScaled : Prop :=
  (∀ xs, (∀ x ∈ xs, x < 2 ^ 32) →
    ((∃ x ∈ xs, isNaN fp32 x ∨ isInf fp32 x) → tsScale (quantValues xs) = 0x7FC00000) ∧
    ((∀ x ∈ xs, ¬ isNaN fp32 x ∧ ¬ isInf fp32 x) →
      ((∀ x ∈ xs, flushed x = 0) → tsScale (quantValues xs) = 0x3F800000) ∧
      ∀ m ∈ xs, flushed m ≠ 0 → (∀ x ∈ xs, |flushed x| ≤ |flushed m|) →
        number fp32 (tsScale (quantValues xs)) = rounded fp32 0 0 (|flushed m| / 448))) ∧
  ∀ e4nan rm draw x scale, rm < 5 → draw < 2 ^ 32 → x < 2 ^ 32 →
    let v := (quantIn x true).1
    (let r := tsElement 0x7FC00000 (.flt fp32) e4nan rm draw v
     r.bits = 0x7F ∧ (isNaN fp32 x ∨ isInf fp32 x → r.evs = { inv := 1 }) ∧ (¬ isNaN fp32 x → ¬ isInf fp32 x → r.evs = {})) ∧
    (¬ isNaN fp32 x → ¬ isInf fp32 x → scale < 0x7F800000 → scale ≠ 0 →
      let r := tsElement scale (.flt fp32) e4nan rm draw v
      narrowsTo e4m3 rm draw (negative fp32 x) (flushed x / number fp32 scale) r (overflowed e4m3 rm 1 e4nan (negative fp32 x) r))

/-- The balanced tree over 2^k values: the node over the trees of its two halves; and the events of its nodes. -/
def Sys2Proof.Claims.balanced (node : Nat → Nat → Nat × Evs) : Nat → List Nat → Nat × Evs
  | 0, xs => (xs.headD 0, {})
  | k + 1, xs =>
    let a := balanced node k (xs.take (2 ^ k))
    let b := balanced node k (xs.drop (2 ^ k))
    let r := node a.1 b.1
    (r.1, (a.2.add b.2).add r.2)

/-- R85, R127: a reduction of 2^k values is the balanced tree over them; its nodes are the sum that arithmeticRoundsOnce pins, the extremes
that extremesAreChosen pins, the sum modulo 2^32, and the greater and the lesser of two integers. -/
def Sys2Proof.Claims.treesAreBalanced : Prop :=
  (∀ node k xs ev, xs.length = 2 ^ k →
    treeRed node k xs ev = ((balanced node k xs).1, ev.add (balanced node k xs).2)) ∧
  ∀ rm x y, x < 2 ^ 32 → y < 2 ^ 32 →
    redNode 0 rm x y = ((fAdd fp32 rm 0 x y).bits, (fAdd fp32 rm 0 x y).evs) ∧
    redNode 1 rm x y = (minMax fp32 true x y, {}) ∧ redNode 2 rm x y = (minMax fp32 false x y, {}) ∧
    redNode 3 rm x y = ((x + y) % 2 ^ 32, {}) ∧
    (redNode 4 rm x y).1 = (if toS 32 x < toS 32 y then y else x) ∧ (redNode 5 rm x y).1 = (if toS 32 y < toS 32 x then y else x) ∧
    redNode 6 rm x y = (max x y, {}) ∧ redNode 7 rm x y = (min x y, {})

/-- The clauses of functionsRoundOnce, extremesAreChosen, blocksAreScaled, groupsAreScaled and treesAreBalanced. -/
def Obligations.FunctionsQuantisationsAndTreesGiveTheirValues : Prop :=
  functionsRoundOnce ∧ extremesAreChosen ∧ blocksAreScaled ∧ groupsAreScaled ∧ treesAreBalanced

/-- R111 to R115: every FP32 and packed 16-bit operation completes. Each written lane holds the element function of the lane's operands
under the rounding mode, with the lane's own draw; in a packed lane the second element draws after the first.
Choices of the model: log entry 56. -/
def Obligations.FloatingOperationsWriteTheirLanes : Prop :=
  ∀ g rm d a b s,
    (∀ r ∈ functionOps, SlotReady s g [d] [a] [] → ∃ t, exec (r.1 g rm d a) s = .next t ∧
      wroteLanes s t g d fun l x => x = (r.2 rm (draw s l) (s.opLane litFp a l)).bits % 2 ^ 32) ∧
    (SlotReady s g [d] [a, b] [] →
    (∀ r ∈ roundingOps, ∃ t, exec (r.1 g rm d a b) s = .next t ∧
      wroteLanes s t g d fun l x => x = (r.2 rm (draw s l) (s.opLane litFp a l) (s.opLane litFp b l)).bits % 2 ^ 32) ∧
    (∀ r ∈ fusedOps, ∃ t, exec (r.1 g rm d a b) s = .next t ∧
      wroteLanes s t g d fun l x => x = (fFma fp32 r.2.1 r.2.2 rm (draw s l) ((s.core.vreg d).get 0 l).toNat (s.opLane litFp a l)
        (s.opLane litFp b l)).bits % 2 ^ 32) ∧
    (∀ r ∈ packedOps, ∀ f, ∃ t, exec (r.1 g f rm d a b) s = .next t ∧
      wroteLanes s t g d fun l x =>
        let F := if f = 0 then bf16 else fp16
        let D := ((s.core.vreg d).get 0 l).toNat
        let A := s.opLane (litHalf F) a l
        let B := s.opLane (litHalf F) b l
        let e0 := r.2 F rm (draw s l) (D % 65536) (A % 65536) (B % 65536)
        let e1 := r.2 F rm (drawOf (genAfter rm e0 (s.core.gen l))) (D / 65536 % 65536) (A / 65536 % 65536) (B / 65536 % 65536)
        x = (e0.bits + 65536 * e1.bits) % 2 ^ 32) ∧
    (∀ r ∈ packedExtremes, ∀ f, ∃ t, exec (r.1 g f d a b) s = .next t ∧
      wroteLanes s t g d fun l x =>
        let F := if f = 0 then bf16 else fp16
        let A := s.opLane (litHalf F) a l
        let B := s.opLane (litHalf F) b l
        x = (minMax F r.2 (A % 65536) (B % 65536) + 65536 * minMax F r.2 (A / 65536 % 65536) (B / 65536 % 65536)) % 2 ^ 32))

/-- An integer held in the range of signed w-bit numbers (Table 5.3). -/
def Sys2Proof.Claims.clampSigned (w : Nat) (i : Int) : Int := max (-((2 ^ (w - 1) : Nat) : Int)) (min (((2 ^ (w - 1) : Nat) : Int) - 1) i)

/-- The packed integer operations (R116, Table 5.3): the result of w-bit elements x and y. -/
noncomputable def Sys2Proof.Claims.integerOps : List ((XGuard → Nat → Nat → VOp → VOp → Instr) × (Nat → Nat → Nat → Nat)) :=
  [(.iadd, fun w x y => (x + y) % 2 ^ w), (.isub, fun w x y => (x + 2 ^ w - y) % 2 ^ w), (.imul, fun w x y => x * y % 2 ^ w),
   (.imulh, fun w x y => twos w (toS w x * toS w y / ((2 ^ w : Nat) : Int))), (.imulhu, fun w x y => x * y / 2 ^ w),
   (.iand, fun _ x y => x &&& y), (.ior, fun _ x y => x ||| y), (.ixor, fun _ x y => x ^^^ y),
   (.iandn, fun w x y => x &&& (2 ^ w - 1 - y)), (.isll, fun w x y => x * 2 ^ (y % w) % 2 ^ w),
   (.isrl, fun w x y => x / 2 ^ (y % w)), (.isra, fun w x y => twos w (toS w x / ((2 ^ (y % w) : Nat) : Int))),
   (.imin, fun w x y => if toS w x < toS w y then x else y), (.imax, fun w x y => if toS w x < toS w y then y else x),
   (.iminu, fun _ x y => min x y), (.imaxu, fun _ x y => max x y),
   (.iadds, fun w x y => twos w (clampSigned w (toS w x + toS w y))), (.iaddus, fun w x y => min (x + y) (2 ^ w - 1)),
   (.isubs, fun w x y => twos w (clampSigned w (toS w x - toS w y))), (.isubus, fun _ x y => x - y)]

/-- Element j of width w of a lane. -/
def Sys2Proof.Claims.element (w j x : Nat) : Nat := x / 2 ^ (w * j) % 2 ^ w

/-- R116: every packed integer operation completes; in each written lane every element of 32, 16 or 8 bits holds the result of Table 5.3
for the elements of the operands, `iabs` the magnitude held below 2^(w-1).
Choices of the model: log entry 56. -/
def Obligations.IntegerOperationsWriteTheirLanes : Prop :=
  ∀ g iw d a b s,
    (∀ r ∈ integerOps, SlotReady s g [d] [a, b] [] → ∃ t, exec (r.1 g iw d a b) s = .next t ∧
      wroteLanes s t g d fun l x => ∀ j, j < 32 / iwBits iw →
        element (iwBits iw) j x = r.2 (iwBits iw) (element (iwBits iw) j (s.opLane (litPacked (iwBits iw)) a l))
          (element (iwBits iw) j (s.opLane (litPacked (iwBits iw)) b l))) ∧
    (SlotReady s g [d] [a] [] → ∃ t, exec (.iabs g iw d a) s = .next t ∧
      wroteLanes s t g d fun l x => ∀ j, j < 32 / iwBits iw →
        element (iwBits iw) j x = min (toS (iwBits iw) (element (iwBits iw) j (s.opLane (litPacked (iwBits iw)) a l))).natAbs
          (2 ^ (iwBits iw - 1) - 1))

/-- The slot took effect and wrote predicate pd alone, in the lanes that are written and no other, where lane l holds v l. -/
def Sys2Proof.Claims.wrotePredicate (s t : State) (g : XGuard) (pd : Nat) (v : Nat → Bool) : Prop :=
  (∀ l, l < 1024 → writes s g l → (t.core.p.get 0 pd).getLsbD l = v l) ∧
  (∀ l, l < 1024 → ¬ writes s g l → (t.core.p.get 0 pd).getLsbD l = (s.core.p.get 0 pd).getLsbD l) ∧
  (∀ n, n ≠ pd → t.core.p.get 0 n = s.core.p.get 0 n) ∧ t.core.v = s.core.v ∧ t.core.k = s.core.k ∧ t.core.s = s.core.s ∧
  t.pc = s.pc ∧ t.note = .done

/-- The conditions of `fcmp` (R117): a NaN is unordered with everything, and only `ne` and `unord` hold on it. -/
noncomputable def Sys2Proof.Claims.floatConditions : List (Nat → Nat → Prop) :=
  let un (x y : Nat) : Prop := isNaN fp32 x ∨ isNaN fp32 y
  let n := number fp32
  [fun x y => ¬ un x y ∧ n x = n y, fun x y => un x y ∨ n x ≠ n y, fun x y => ¬ un x y ∧ n x < n y, fun x y => ¬ un x y ∧ n x ≤ n y,
   fun x y => ¬ un x y ∧ n y < n x, fun x y => ¬ un x y ∧ n y ≤ n x, un, fun x y => ¬ un x y]

/-- A literal operand is one that a word can hold. -/
def Sys2Proof.Claims.encodable (o : VOp) : Prop := ∀ n, o = .lit n → n < 64

/-- The conditions of `icmp` (R118): signed, then unsigned. -/
def Sys2Proof.Claims.integerConditions : List (Nat → Nat → Prop) :=
  [fun x y => x = y, fun x y => x ≠ y, fun x y => toS 32 x < toS 32 y, fun x y => toS 32 x ≤ toS 32 y,
   fun x y => toS 32 y < toS 32 x, fun x y => toS 32 y ≤ toS 32 x, fun x y => x < y, fun x y => x ≤ y, fun x y => y < x,
   fun x y => y ≤ x]

/-- The operations on two predicates (R120). -/
noncomputable def Sys2Proof.Claims.predicateOps : List ((XGuard → Nat → Nat → Nat → Instr) × (Bool → Bool → Bool)) :=
  [(.pand, fun x y => x && y), (.por, fun x y => x || y), (.pxor, fun x y => x != y), (.pandn, fun x y => x && !y),
   (.porn, fun x y => x || !y)]

/-- P[n][l] of the acting stream's core. -/
def Sys2Proof.Claims.predicateLane (s : State) (n l : Nat) : Bool := (s.core.p.get 0 n).getLsbD l

/-- R117, R118, R120: compares and predicate operations complete and write, in the written lanes of their predicate and no other, the
outcome of the condition or of the operation. The eight conditions of an FP32 compare are those of the numbers, with -0 equal to +0; where
an operand is a NaN, `ne` and `unord` hold and the other six fail.
Choices of the model: log entry 56. -/
def Obligations.ComparesAndPredicatesWriteTheirLanes : Prop :=
  ∀ g pd a b s,
    (SlotReady s g [] [a, b] [pd] →
      (∀ cc P, encodable a → encodable b → floatConditions[cc]? = some P → ∃ t v, exec (.fcmp g cc pd a b) s = .next t ∧
        wrotePredicate s t g pd v ∧ ∀ l, v l = true ↔ P (s.opLane litFp a l) (s.opLane litFp b l)) ∧
      (∀ cc P, integerConditions[cc]? = some P → ∃ t v, exec (.icmp g cc pd a b) s = .next t ∧ wrotePredicate s t g pd v ∧
        ∀ l, v l = true ↔ P (s.opLane litRaw a l) (s.opLane litRaw b l))) ∧
    (∀ r ∈ predicateOps, ∀ pa pb, SlotReady s g [] [] [pd, pa, pb] →
      ∃ t, exec (r.1 g pd pa pb) s = .next t ∧
        wrotePredicate s t g pd fun l => r.2 (predicateLane s pa l) (predicateLane s pb l)) ∧
    (∀ pa, SlotReady s g [] [] [pd, pa] →
      ∃ t, exec (.pnot g pd pa) s = .next t ∧ wrotePredicate s t g pd fun l => !predicateLane s pa l) ∧
    (SlotReady s g [] [] [pd] →
      (∃ t, exec (.pset g pd) s = .next t ∧ wrotePredicate s t g pd fun _ => true) ∧
      ∃ t, exec (.pclr g pd) s = .next t ∧ wrotePredicate s t g pd fun _ => false)

/-- The moves across the lanes of a span (R129, Table 5.4): for lane offset i of n lanes, its own b value r, and the lanes A and B by
offset. -/
noncomputable def Sys2Proof.Claims.crossOps : List ((XGuard → Nat → VOp → VOp → Instr) × (Nat → Nat → Nat → (Nat → Nat) → (Nat → Nat) → Nat)) :=
  [(.vperm, fun n _ r A _ => A (r % n)), (.vbcast, fun n _ r A _ => A (r % n)),
   (.vrot, fun n i r A _ => A ((i + n - r % n) % n)), (.vshl, fun _ i r A _ => if r ≤ i then A (i - r) else 0),
   (.vshr, fun n i r A _ => if i + r < n then A (i + r) else 0), (.vzip, fun _ i _ A B => if i % 2 = 0 then A (i / 2) else B (i / 2)),
   (.vunzip, fun n i _ A B => if 2 * i < n then A (2 * i) else B (2 * i - n))]

/-- The bit-field operations (R130) at start st on the a and b lanes. -/
noncomputable def Sys2Proof.Claims.laneFieldOps : List ((XGuard → Nat → Nat → VOp → VOp → Instr) × (Nat → Nat → Nat → Nat)) :=
  [(.vbfx, fun st x y => x / 2 ^ st % 2 ^ (min (y % 64) 32)),
   (.vbfxS, fun st x y => if y % 64 = 0 then 0 else twos 32 (toS (min (y % 64) 32) (x / 2 ^ st % 2 ^ (min (y % 64) 32)))),
   (.vfsh, fun st x y => (x * 2 ^ 32 + y) / 2 ^ st % 2 ^ 32)]

/-- R113, R119, R129, R130: the operations that move bits complete: FP32 extremes and sign operations, `sel`, the moves across lanes,
`vcomp`, and the bit fields.
Choices of the model: log entry 56. -/
def Obligations.MovesAndBitFieldsWriteTheirLanes : Prop :=
  ∀ g d a b s,
    (SlotReady s g [d] [a, b] [] →
      (∃ t, exec (.fmin g d a b) s = .next t ∧
        wroteLanes s t g d fun l x => x = minMax fp32 false (s.opLane litFp a l) (s.opLane litFp b l) % 2 ^ 32) ∧
      (∃ t, exec (.fmax g d a b) s = .next t ∧
        wroteLanes s t g d fun l x => x = minMax fp32 true (s.opLane litFp a l) (s.opLane litFp b l) % 2 ^ 32) ∧
      (∀ r ∈ crossOps, ∃ t, exec (r.1 g d a b) s = .next t ∧
        wroteLanes s t g d fun l x => x = r.2 s.span.2 (l - s.span.1) (s.opLane litRaw b l) (fun j => s.opLane litRaw a (s.span.1 + j))
          (fun j => s.opLane litRaw b (s.span.1 + j)) % 2 ^ 32) ∧
      (∀ r ∈ laneFieldOps, ∀ st, ∃ t, exec (r.1 g st d a b) s = .next t ∧
        wroteLanes s t g d fun l x => x = r.2 st (s.opLane litRaw a l) (s.opLane litRaw b l) % 2 ^ 32)) ∧
    (SlotReady s g [d] [a] [] →
      (∃ t, exec (.fabs g d a) s = .next t ∧ wroteLanes s t g d fun l x => x = s.opLane litFp a l % 2 ^ 31) ∧
      (∃ t, exec (.fneg g d a) s = .next t ∧ wroteLanes s t g d fun l x => x = (s.opLane litFp a l ^^^ 2 ^ 31) % 2 ^ 32)) ∧
    (∀ p, SlotReady s g [d] [a, b] [p] → ∃ t, exec (.sel g p d a b) s = .next t ∧
      wroteLanes s t g d fun l x => x = (if predicateLane s p l then s.opLane litRaw a l else s.opLane litRaw b l) % 2 ^ 32) ∧
    (∀ p, SlotReady s g [d] [a] [p] → ∃ t, exec (.vcomp g d a p) s = .next t ∧
      wroteLanes s t g d fun l x =>
        match ((List.range s.span.2).filter fun j => predicateLane s p (s.span.1 + j))[l - s.span.1]? with
        | some j => x = s.opLane litRaw a (s.span.1 + j) % 2 ^ 32
        | none => x = 0)

/-- Two registers written by a quantisation: the elements in d, the scale of each group in sd (R123, R125). -/
def Sys2Proof.Claims.wroteGroups (s t : State) (g : XGuard) (d sd : Nat) (el sc : Nat → Nat) : Prop :=
  lanesHold s t g d (fun l x => x = el l % 2 ^ 32) ∧ lanesHold s t g sd (fun l x => x = sc l % 2 ^ 32) ∧
  (∀ n, n ≠ d → n ≠ sd → t.core.vreg n = s.core.vreg n) ∧ t.core.p = s.core.p ∧ t.core.k = s.core.k ∧ t.pc = s.pc ∧ t.note = .done

/-- The group of n lanes that holds lane l, as a quantisation sees it: flushed, with +0 for the lanes that the guard shuts out. -/
def Sys2Proof.Claims.groupOf (s : State) (g : XGuard) (a : VOp) (n l : Nat) : List Val :=
  (List.range n).map fun i => if s.on g (l / n * n + i) then (flushSub (fp32.val (s.opLane litFp a (l / n * n + i)),
    fp32.isSub (s.opLane litFp a (l / n * n + i)))).1 else .zero false

/-- The lane's own value, flushed. -/
def Sys2Proof.Claims.flushedLane (s : State) (a : VOp) (l : Nat) : Val := (flushSub (fp32.val (s.opLane litFp a l), fp32.isSub (s.opLane litFp a l))).1

/-- R121 to R126: conversions, quantisations and dequantisations complete; each written lane holds the converted element, and of a
quantisation the scale of its group of 32 or 128 lanes stands in the second register.
Choices of the model: log entries 55, 56, 79. -/
def Obligations.ConversionsWriteTheirLanes : Prop :=
  ∀ g rm fmt d sd a b s,
    (SlotReady s g [d] [a] [] →
      (∃ t, exec (.cvt g rm fmt d a) s = .next t ∧ wroteLanes s t g d fun l x =>
        x = (cvtLane (.flt fp32) ((elemFmt fmt).getD (.flt fp32)) (bit s.core.nmode 0) rm (s.core.gen l) (s.opLane litFp a l)).val % 2 ^ 32) ∧
      ∃ t, exec (.cvtF32 g rm fmt d a) s = .next t ∧ wroteLanes s t g d fun l x =>
        x = (cvtLane ((elemFmt fmt).getD (.flt fp32)) (.flt fp32) (bit s.core.nmode 0) rm (s.core.gen l)
          (s.opLane (if fmt = 8 then litFp else litRaw) a l)).val % 2 ^ 32) ∧
    (SlotReady s g [d] [a, b] [] →
      (∃ t, exec (.mxdq g fmt d a b) s = .next t ∧ wroteLanes s t g d fun l x =>
        x = (mxdqLane fmt (s.core.gen l) (s.opLane litRaw a l) (s.opLane litRaw b l)).val % 2 ^ 32) ∧
      (∃ t, exec (.tsqTsf8w g rm d a b) s = .next t ∧ wroteLanes s t g d fun l x =>
        x = (tsqwLane (bit s.core.nmode 0) rm (s.core.gen l) (s.opLane litFp a l) (s.opLane litFp b l)).val % 2 ^ 32) ∧
      ∃ t, exec (.tsdq g fmt d a b) s = .next t ∧ wroteLanes s t g d fun l x =>
        x = (tsdqLane (s.core.gen l) (s.opLane litRaw a l) (s.opLane litFp b l)).val % 2 ^ 32) ∧
    (SlotReady s g [d, sd] [a] [] → d ≠ sd →
      (∃ t, exec (.mxq g rm fmt d a sd) s = .next t ∧ wroteGroups s t g d sd
        (fun l => (mxElement fmt (mxScale fmt (groupOf s g a 32 l)) (.flt fp32) (bit s.core.nmode 0) rm (draw s l) (flushedLane s a l)).bits)
        fun l => mxScale fmt (groupOf s g a 32 l)) ∧
      ∃ t, exec (.tsqTsf8a g rm d a sd) s = .next t ∧ wroteGroups s t g d sd
        (fun l => (tsElement (tsScale (groupOf s g a 128 l)) (.flt fp32) (bit s.core.nmode 0) rm (draw s l) (flushedLane s a l)).bits)
        fun l => tsScale (groupOf s g a 128 l))

/-- The reductions (R127, R128): the kind of their node, without a rounding mode. -/
noncomputable def Sys2Proof.Claims.extremeReductions : List ((XGuard → Nat → Nat → VOp → Instr) × Nat) :=
  [(.fredmax, 1), (.fredmin, 2), (.iredsum, 3), (.iredmax, 4), (.iredmin, 5), (.iredmaxu, 6), (.iredminu, 7)]

/-- The tree of R85 over the n lanes from lo on, of a reduction of a kind, with the identity for the lanes that the guard shuts out. -/
def Sys2Proof.Claims.reduced (s : State) (g : XGuard) (kind rm : Nat) (a : VOp) (lo n : Nat) : Nat :=
  (treeRed (redNode kind rm) n.log2
    ((List.range n).map fun i => if s.on g (lo + i) then s.opLane litRaw a (lo + i) else redIdentity kind) {}).1

/-- R127, R128, R85: a reduction completes; every written lane of a cluster holds the tree of the cluster's 256 lanes, or for `all`, in
joined mode, that of the 1,024; the wrapped sum of a cluster is the sum of its guarded lanes modulo 2^32.
Choices of the model: log entry 56. -/
def Obligations.ReductionsWriteTheirLanes : Prop :=
  ∀ g rm all d a s, all < 2 → SlotReady s g [d] [a] [] →
    (all = 1 → s.core.forked = false) →
    let n := if all = 1 then 1024 else 256
    (∃ t, exec (.fredsum g rm all d a) s = .next t ∧
      wroteLanes s t g d fun l x => x = reduced s g 0 rm a (l / n * n) n % 2 ^ 32) ∧
    (∀ r ∈ extremeReductions, ∃ t, exec (r.1 g all d a) s = .next t ∧
      wroteLanes s t g d fun l x => x = reduced s g r.2 0 a (l / n * n) n % 2 ^ 32) ∧
    ∀ lo, reduced s g 3 0 a lo n =
      ((List.range n).map fun i => if s.on g (lo + i) then s.opLane litRaw a (lo + i) else 0).sum % 2 ^ 32


/-- Bytes of a local access's size code (R131). -/
def Sys2Proof.Claims.localSize (sz : Nat) : Nat := if sz = 0 then 4 else if sz = 1 then 2 else 1

/-- The address of lane l of a local access (R131): the sum of its operands, and for the contiguous forms z bytes more a lane. -/
def Sys2Proof.Claims.localAddress (s : State) (run : Bool) (z : Nat) (a b : VOp) (l : Nat) : Nat :=
  (s.opLane litRaw a l + s.opLane litRaw b l + (if run then z * (l - s.span.1) else 0)) % 2 ^ 32

/-- Every written lane's access passes R131's checks, and no scratchpad byte has an uncorrectable error. -/
def Sys2Proof.Claims.localAllowed (s : State) (g : XGuard) (run : Bool) (z : Nat) (a b : VOp) : Prop :=
  (∀ l, writes s g l → s.core.spadCheck (localAddress s run z a b l) z z = none) ∧ s.core.ecc.spad = []

/-- The local loads and stores: whether the lanes are contiguous (R132). -/
noncomputable def Sys2Proof.Claims.localLoads : List ((XGuard → Nat → Nat → VOp → VOp → Instr) × Bool) := [(.lgth, false), (.lld, true)]

noncomputable def Sys2Proof.Claims.localStores : List ((XGuard → Nat → Nat → VOp → VOp → Instr) × Bool) := [(.lsct, false), (.lst, true)]

/-- Lane l's store covers scratchpad byte j. -/
def Sys2Proof.Claims.covers (s : State) (run : Bool) (z : Nat) (a b : VOp) (l j : Nat) : Prop :=
  localAddress s run z a b l ≤ j ∧ j < localAddress s run z a b l + z

/-- R131, R132: local loads complete with the zero-extended elements at the lanes' addresses; local stores complete: a byte that written
lanes cover holds the byte of the highest of them, and every other byte of the scratchpad stays. -/
def Sys2Proof.Claims.localAccessesReachTheScratchpad : Prop :=
  ∀ g sz d a b s, SlotReady s g [d] [a, b] [] →
    (∀ r ∈ localLoads, localAllowed s g r.2 (localSize sz) a b → ∃ t, exec (r.1 g sz d a b) s = .next t ∧
      (wroteLanes s t g d fun l x => x = leNat (s.core.spad.bytes (localAddress s r.2 (localSize sz) a b l) (localSize sz))) ∧
      t.core.spad = s.core.spad) ∧
    (∀ r ∈ localStores, localAllowed s g r.2 (localSize sz) a b → ∃ t, exec (r.1 g sz d a b) s = .next t ∧
      t.note = .done ∧ t.pc = s.pc ∧ t.core.v = s.core.v ∧ t.core.p = s.core.p ∧ t.core.k = s.core.k ∧
      (∀ j, (∀ l, writes s g l → ¬ covers s r.2 (localSize sz) a b l j) → t.core.spad.get 0 j = s.core.spad.get 0 j) ∧
      ∀ j l, writes s g l → covers s r.2 (localSize sz) a b l j →
        (∀ m, l < m → writes s g m → ¬ covers s r.2 (localSize sz) a b m j) →
        t.core.spad.get 0 j = BitVec.ofNat 8 (((s.core.vreg d).get 0 l).toNat / 256 ^ (j - localAddress s r.2 (localSize sz) a b l)))

/-- R53, R52, R134, R293: `vnop` and `knop` have no effect; `zpush` with room adds the entry of the span's first ten lanes to `qz0`;
`msig` writes the signature of each cluster: in lanes 0 to 7 the sign bits of its 256 values, a NaN as 0, then the two halves of a k
register, then zero. -/
def Sys2Proof.Claims.signaturesAndPushesComplete : Prop :=
  ∀ g a d n s,
    (SlotReady s g [] [] [] → exec (.vnop g) s = .next { s with note := .done } ∧ exec (.knop g) s = .next { s with note := .done }) ∧
    (SlotReady s noGuard [] [a] [] → s.core.q.qz0.length < 16 →
      ∃ t e, exec (.zpush a) s = .next t ∧ t.note = .done ∧ t.pc = s.pc ∧ t.core.q.qz0 = s.core.q.qz0 ++ [e] ∧ t.core.v = s.core.v ∧
        ∀ i, i < 10 → e.extractLsb' (32 * i) 32 = BitVec.ofNat 32 (s.opLane litRaw a (s.span.1 + i))) ∧
    (SlotReady s noGuard [d] [a] [] → ∃ t, exec (.msig d a (.k n)) s = .next t ∧
      wroteLanes s t noGuard d fun l x =>
        let j := l % 256
        (j < 8 → ∀ i, i < 32 → x.testBit i =
          let y := s.opLane litRaw a (l / 256 * 256 + 32 * j + i)
          decide (fp32.val y ≠ .nan ∧ y.testBit 31 = false)) ∧
        (j = 8 → x = (s.kSrc (l / 256) n).toNat % 2 ^ 32) ∧ (j = 9 → x = (s.kSrc (l / 256) n).toNat / 2 ^ 32) ∧ (9 < j → x = 0))

/-- The command joins the matrix queue behind the others, and nothing else changes (R162). -/
def Sys2Proof.Claims.enqueued (s : State) (m : MCmd) : State :=
  { s.putCore { s.core with mx := { s.core.mx with mq := s.core.mx.mq ++ [m] } } with note := .done }

/-- The matrix queue takes no command of X: its sixteen places are taken, or a follow-on that arrived before waits for one (R162). -/
def Sys2Proof.Claims.queueFull (s : State) : Prop := 16 ≤ s.core.mx.mq.length ∨ s.core.mx.wait ≠ []

/-- The acting stream drives X. -/
def Sys2Proof.Claims.drivesX (s : State) : Prop := ∃ c st, s.cur = .strm c st ∧ st ≠ .a ∧ st ≠ .z

/-- What a matrix command that passes its checks does: it joins the queue, and while the queue is full its stream waits (R162). -/
def Sys2Proof.Claims.joins (s : State) (i : Instr) (m : MCmd) : Prop :=
  (¬ queueFull s → exec i s = .next (enqueued s m)) ∧ (queueFull s → exec i s = .next (s.waits .mqFull))

/-- Banks b to b + n - 1 exist and are held (R152). -/
def Sys2Proof.Claims.held (s : State) (b n : Nat) : Prop := b + n ≤ 128 ∧ ∀ i, i < n → s.core.mx.held.getLsbD (b + i) = true

/-- The k register of the acting cluster as a number. -/
def Sys2Proof.Claims.kNumber (s : State) (c n : Nat) : Nat := (s.kSrc c n).toNat

/-- R154 to R162: a matrix command whose checks pass joins the queue: an MMA whose tile is full, in joined mode, on sixteen held banks; a
`tfree`; an `accrd` of two held banks; an `acczero` of held ones. An MMA whose tile is not full waits, and so does every one of these
commands while the queue is full. -/
def Sys2Proof.Claims.matrixCommandsJoinTheQueue : Prop :=
  ∀ s, drivesX s →
    (∀ t, joins s (.tfree t) (.tfree t)) ∧
    (∀ t a b fmt h, s.core.forked = false → held s (kNumber s 0 a) 16 → kNumber s 0 b ≤ 32767 →
      (s.core.mx.tileSt t = .full →
        joins s (.mma fmt h t (.k a) (.k b)) (.mma 0 fmt h t (kNumber s 0 a) (kNumber s 0 b) false 0) ∧
        joins s (.mmaTs t (.k a) (.k b)) (.mma 1 0x18 0 t (kNumber s 0 a) (kNumber s 0 b) false 0) ∧
        ((s.reduced = true → fmt ∉ [0x12, 0x13, 0x14]) →
          joins s (.mmaMx fmt h t (.k a) (.k b)) (.mma 2 fmt h t (kNumber s 0 a) (kNumber s 0 b) false 0))) ∧
      (s.core.mx.tileSt t ≠ .full →
        exec (.mma fmt h t (.k a) (.k b)) s = .next (s.waits (.tile t true)) ∧
        exec (.mmaTs t (.k a) (.k b)) s = .next (s.waits (.tile t true)) ∧
        ((s.reduced = true → fmt ∉ [0x12, 0x13, 0x14]) → exec (.mmaMx fmt h t (.k a) (.k b)) s = .next (s.waits (.tile t true))))) ∧
    (∀ rm fmt d a, d < (s.core.task.getD {}).nvreg → held s (kNumber s s.xCluster a) 2 →
      joins s (.accrd rm fmt d (.k a)) (.accrd rm fmt d (kNumber s s.xCluster a) (match s.strmNo with | .xc i => i + 1 | _ => 0))) ∧
    ∀ a n, held s (kNumber s s.xCluster a) n → joins s (.acczero (.k a) n) (.acczero (kNumber s s.xCluster a) n)

/-- Bank run b of n banks may be allocated: a multiple of n, inside the 128, and free (R161). -/
def Sys2Proof.Claims.freeBanks (s : State) (n b : Nat) : Prop := b % n = 0 ∧ b + n ≤ 128 ∧ ∀ i, i < n → s.core.mx.held.getLsbD (b + i) = false

/-- k[d] of every cluster that the stream drives holds v, and no other k register changed. -/
def Sys2Proof.Claims.allK (s t : State) (d : Nat) (v : Word) : Prop :=
  (∀ c ∈ clustersOf s.strmNo, t.core.k.get 0 (32 * c + d) = v) ∧
  ∀ i, (∀ c ∈ clustersOf s.strmNo, i ≠ 32 * c + d) → t.core.k.get 0 i = s.core.k.get 0 i

/-- R157, R148, R161: `tld` into an empty tile begins the load of its image, and of its scale area or zeros; into another it waits.
`balloc` within the declared banks takes the lowest free run and gives its first bank, or all ones where there is none; `bfree` of held
banks frees them. -/
def Sys2Proof.Claims.tilesAndBanksAreTaken : Prop :=
  ∀ s, (∃ c st, s.cur = .strm c st ∧ st ≠ .a ∧ st ≠ .z) →
    (∀ tl a b, s.core.spadCheck (kNumber s s.xCluster a) 8192 128 = none →
      (∀ n, b = .k n → s.core.spadCheck (kNumber s s.xCluster n) 1024 128 = none) → s.core.ecc.spad = [] →
      (s.core.mx.tileSt tl = .empty →
        ∃ t, exec (.tld tl (.k a) b) s = .next t ∧ t.note = .done ∧ t.pc = s.pc ∧ (t.core.mx.tileSt tl).isLoading = true ∧
          (∀ i, i < 8192 → t.core.mx.tile.get 0 (8192 * tl + i) = s.core.spad.get 0 (kNumber s s.xCluster a + i)) ∧
          (∀ i, i < 1024 → t.core.mx.tsc.get 0 (1024 * tl + i) =
            match b with | .k n => s.core.spad.get 0 (kNumber s s.xCluster n + i) | _ => 0) ∧
          ∀ u, u ≠ tl → t.core.mx.tileSt u = s.core.mx.tileSt u) ∧
      (s.core.mx.tileSt tl ≠ .empty → exec (.tld tl (.k a) b) s = .next (s.waits (.tile tl false)))) ∧
    (∀ d n, d < 32 → 0 < n → s.core.mx.heldCount + n ≤ (s.core.task.getD {}).naccb →
      (∀ b, freeBanks s n b → (∀ x, x < b → ¬ freeBanks s n x) →
        ∃ t, exec (.balloc d n) s = .next t ∧ t.note = .done ∧ t.pc = s.pc ∧ allK s t d (BitVec.ofNat 64 b) ∧
          ∀ i, i < 128 → t.core.mx.held.getLsbD i = (s.core.mx.held.getLsbD i || decide (b ≤ i ∧ i < b + n))) ∧
      ((∀ b, ¬ freeBanks s n b) →
        ∃ t, exec (.balloc d n) s = .next t ∧ t.note = .done ∧ t.pc = s.pc ∧ allK s t d 0xFFFFFFFFFFFFFFFF ∧
          t.core.mx.held = s.core.mx.held)) ∧
    ∀ a n, held s (kNumber s s.xCluster a) n →
      ∃ t, exec (.bfree (.k a) n) s = .next t ∧ t.note = .done ∧ t.pc = s.pc ∧ t.core.k = s.core.k ∧
        ∀ i, i < 128 → t.core.mx.held.getLsbD i =
          (s.core.mx.held.getLsbD i && !decide (kNumber s s.xCluster a ≤ i ∧ i < kNumber s s.xCluster a + n))

/-- k[d] of every cluster that the guard lets the op write holds v; no other k register, no vector register, predicate or s register
changed, and the pc is left to the word (R103). -/
def Sys2Proof.Claims.wroteK (s t : State) (g : XGuard) (d : Nat) (v : Word) : Prop :=
  (∀ c ∈ s.kClusters g, t.core.k.get 0 (32 * c + d) = v) ∧
  (∀ i, (∀ c ∈ s.kClusters g, i ≠ 32 * c + d) → t.core.k.get 0 i = s.core.k.get 0 i) ∧
  t.core.v = s.core.v ∧ t.core.p = s.core.p ∧ t.core.s = s.core.s ∧ t.pc = s.pc ∧ t.note = .done

/-- A scalar slot may run: an X stream's, its guard's predicate declared, and the vector slot of its word has not written k[d]. -/
structure Sys2Proof.Claims.ScalarReady (s : State) (g : XGuard) (d : Nat) : Prop where
  slot : SlotReady s g [] [] []
  number : d < 32
  alone : ∀ l, s.latch = some l → l.kd ≠ some d

/-- k[n] as the scalar slot reads it: the acting cluster's copy (R103). -/
def Sys2Proof.Claims.kWord (s : State) (n : Nat) : Word := s.kSrc s.xCluster n

/-- The scalar-slot operations of two registers (R104). -/
noncomputable def Sys2Proof.Claims.scalarPairs : List ((XGuard → Nat → Nat → Nat → Instr) × (Word → Word → Word)) :=
  [(.kadd, fun x y => x + y), (.ksub, fun x y => x - y), (.kand, fun x y => x &&& y), (.kor, fun x y => x ||| y),
   (.kxor, fun x y => x ^^^ y), (.ksll, fun x y => x <<< (y.toNat % 64)), (.ksrl, fun x y => x >>> (y.toNat % 64)),
   (.ksra, fun x y => x.sshiftRight (y.toNat % 64)), (.kmul, fun x y => x * y),
   (.kmin, fun x y => if x.toInt ≤ y.toInt then x else y), (.kmax, fun x y => if x.toInt ≤ y.toInt then y else x),
   (.kminu, fun x y => if x.toNat ≤ y.toNat then x else y), (.kmaxu, fun x y => if x.toNat ≤ y.toNat then y else x),
   (.kslt, fun x y => if x.toInt < y.toInt then 1 else 0), (.ksltu, fun x y => if x.toNat < y.toNat then 1 else 0),
   (.kbfx, fun x y => (x >>> (y.toNat % 64)) &&& 0xFFFF),
   (.kfadd, fun x y => BitVec.ofNat 64 (fAdd fp32 0 0 (x.toNat % 2 ^ 32) (y.toNat % 2 ^ 32)).bits),
   (.kfmul, fun x y => BitVec.ofNat 64 (fMul fp32 0 0 (x.toNat % 2 ^ 32) (y.toNat % 2 ^ 32)).bits),
   (.kfmax, fun x y => BitVec.ofNat 64 (minMax fp32 true (x.toNat % 2 ^ 32) (y.toNat % 2 ^ 32)))]

/-- The scalar-slot operations of a register and a literal (R104). -/
noncomputable def Sys2Proof.Claims.scalarLiterals : List ((XGuard → Nat → Nat → Nat → Instr) × (Word → Nat → Word)) :=
  [(.kaddi, fun x n => x + (BitVec.ofNat 5 n).signExtend 64), (.kslli, fun x n => x <<< n), (.ksrli, fun x n => x >>> n),
   (.ksrai, fun x n => x.sshiftRight n)]

/-- The entry at the acting cluster's head of `qs`q. -/
def Sys2Proof.Claims.scalarHead (s : State) (q : Nat) : Word := (s.core.q.qs.get [] q).getD (s.core.q.hs.get 0 (4 * q + s.xCluster)) 0

/-- R103 to R107: every scalar-slot operation completes and writes k[d] of the clusters whose guard is true, with the value from the acting
cluster's copies; `kpop` gives the entry at its head, `kpush` adds k[a] to a queue with room where the guard is true, `kcpg` sets the
clusters' constant page.
Choices of the model: log entries 54, 101. -/
def Obligations.ScalarSlotWritesItsRegister : Prop :=
  ∀ g d a b n s, ScalarReady s g d →
    (∀ r ∈ scalarPairs, ∃ t, exec (r.1 g d a b) s = .next t ∧ wroteK s t g d (r.2 (kWord s a) (kWord s b))) ∧
    (∀ r ∈ scalarLiterals, ∃ t, exec (r.1 g d a n) s = .next t ∧ wroteK s t g d (r.2 (kWord s a) n)) ∧
    (∃ t, exec (.kli g d n) s = .next t ∧ wroteK s t g d ((BitVec.ofNat 10 n).signExtend 64)) ∧
    (∃ t, exec (.klsh g d n) s = .next t ∧ wroteK s t g d (kWord s d <<< 10 ||| BitVec.ofNat 64 n)) ∧
    (∀ q, (∀ c ∈ clustersOf s.strmNo, s.core.q.hs.get 0 (4 * q + c) < (s.core.q.qs.get [] q).length) →
      ∃ t, exec (.kpop g d q) s = .next t ∧ wroteK s t g d (scalarHead s q) ∧
        (s.strmNo = .x → (∀ c, c < 4 → s.core.q.hs.get 0 (4 * q + c) = 0) →
          t.core.q.qs.get [] q = (s.core.q.qs.get [] q).tail)) ∧
    (∀ q, (s.core.q.qx.get [] q).length < 16 →
      ∃ t, exec (.kpush g a q) s = .next t ∧ t.note = .done ∧ t.pc = s.pc ∧ t.core.k = s.core.k ∧
        t.core.q.qx.get [] q = (if s.on g (256 * s.xCluster) then s.core.q.qx.get [] q ++ [kWord s a] else s.core.q.qx.get [] q)) ∧
    ∃ t, exec (.kcpg g n) s = .next t ∧ t.note = .done ∧ t.pc = s.pc ∧ t.core.k = s.core.k ∧
      (∀ c ∈ s.kClusters g, t.core.cpg.get 0 c = n) ∧ ∀ c, c ∉ s.kClusters g → t.core.cpg.get 0 c = s.core.cpg.get 0 c

/-- The state in which the acting X stream has gone on to pc v, through the ends of loop bodies (R137, R139). -/
def Sys2Proof.Claims.wentOn (s : State) (c : Core) (v : Word) : State := { s.putCore (c.xGo s.strmNo v) with note := .done }

/-- The sync bits after `sbset` (R143). -/
def Sys2Proof.Claims.syncBits (b : BitVec 8) (on off : Nat) : BitVec 8 := (b &&& ~~~ BitVec.ofNat 8 off) ||| BitVec.ofNat 8 on

/-- Forked cluster i waits on sync bits: mask, polarity, and whether it takes them (R144). -/
def Sys2Proof.Claims.syncWaits (c : Core) (i m : Nat) (high take : Bool) : Prop :=
  (c.strmAt (.xc i)).st = .running ∧ (c.strmAt (.xc i)).wait = some (.sync m high take)

/-- No forked cluster but the acting one waits on sync bits. -/
def Sys2Proof.Claims.noneWaits (s : State) : Prop :=
  s.core.forked = true → ∀ i m high take, i < 4 → s.strmNo ≠ .xc i → ¬ syncWaits s.core i m high take

/-- The sync bits b are as a wait wants them (R144). -/
def Sys2Proof.Claims.syncMet (b : BitVec 8) (m : Nat) (high : Bool) : Prop := b &&& BitVec.ofNat 8 m = if high then BitVec.ofNat 8 m else 0

/-- R136 to R145: the control words complete. `loop` and `rep` begin with their count, or pass their body where it is zero; `forkx` starts
the clusters at their offsets; `joinx` passes in joined mode, and in forked mode joins once the others wait, else waits; `sbset` and the
sync waits that hold pass, one that does not hold waits, and a change of the bits lets a waiting cluster pass whose wait then holds; `end`
ends the stream and its loops.
Choices of the model: log entries 57, 86. -/
def Obligations.ControlWordsMoveTheStream : Prop :=
  ∀ s c st, s.cur = .strm c st → st ≠ .a → st ≠ .z →
    (∀ lc inc ki ks n, s.loopsNow.length < 4 → s.pastBody (s.pc.toNat + 8 * n) = false →
      (s.core.lc.get 0 lc ≠ 0 → 0 < n → n < 2 ^ 32 → ∃ t l, exec (.loop lc inc ki ks n) s = .next t ∧ t.note = .done ∧ t.pc = s.pc + 8 ∧
        t.loopsNow = l :: s.loopsNow ∧ l.left = s.core.lc.get 0 lc ∧ l.done = 0 ∧ l.pc = s.pc ∧ l.n = n ∧ l.inc = decide (inc = 1)) ∧
      (s.core.lc.get 0 lc = 0 → exec (.loop lc inc ki ks n) s = .next (wentOn s s.core (s.pc + 8 * BitVec.ofNat 64 (n + 1))))) ∧
    (∀ src inc ki ks n, s.pastBody (s.pc.toNat + 8) = false → s.nextIsControl = false →
      let count := if src = 1 then s.core.lc.get 0 (n % 8) else BitVec.ofNat 64 n
      (count ≠ 0 → ∃ t l, exec (.rep src inc ki ks n) s = .next t ∧ t.note = .done ∧ t.pc = s.pc + 8 ∧
        t.core.reps.get none st.code = some l ∧ l.left = count ∧ l.done = 0) ∧
      (count = 0 → exec (.rep src inc ki ks n) s = .next (wentOn s s.core (s.pc + 16)))) ∧
    (∀ o1 o2 o3, s.loopsNow = [] → s.core.forked = false →
      ∃ t, exec (.forkx o1 o2 o3) s = .next t ∧ t.note = .done ∧ t.core.forked = true ∧ (t.core.strmAt .x).st = .ended ∧
        ((t.core.strmAt (.xc 0)).st = .running ∧ (t.core.strmAt (.xc 0)).pc = s.pc + 8) ∧
        ∀ i o, (i, o) ∈ [(1, o1), (2, o2), (3, o3)] → (t.core.strmAt (.xc i)).st = .running ∧
          (t.core.strmAt (.xc i)).pc = if o = 0 then s.pc + 8 else s.pc + 32 * BitVec.ofNat 64 o) ∧
    (s.loopsNow = [] →
      (s.core.forked = false → exec .joinx s = .next (wentOn s s.core (s.pc + 8))) ∧
      (s.core.forked = true → (∀ i, i < 4 → i ≠ s.xCluster → (s.core.strmAt (.xc i)).wait = some .join) →
        ∃ t, exec .joinx s = .next t ∧ t.note = .done ∧ t.core.forked = false ∧ (t.core.strmAt .x).st = .running ∧
          (t.core.strmAt .x).pc = (s.core.strmAt (.xc 0)).pc + 8) ∧
      (s.core.forked = true → (∃ i, i < 4 ∧ i ≠ s.xCluster ∧ (s.core.strmAt (.xc i)).wait ≠ some .join) →
        exec .joinx s = .next (s.waits .join))) ∧
    (∀ on off, noneWaits s →
      exec (.sbset on off) s = .next (wentOn s { s.core with sb := syncBits s.core.sb on off } (s.pc + 8))) ∧
    (∀ m,
      (syncMet s.core.sb m true → exec (.sbwaitSet m) s = .next (wentOn s s.core (s.pc + 8)) ∧
        (noneWaits s → exec (.sbwaitTake m) s = .next (wentOn s { s.core with sb := s.core.sb &&& ~~~ BitVec.ofNat 8 m } (s.pc + 8)))) ∧
      (syncMet s.core.sb m false → exec (.sbwaitClr m) s = .next (wentOn s s.core (s.pc + 8))) ∧
      (¬ syncMet s.core.sb m true → exec (.sbwaitSet m) s = .next (s.waits (.sync m true false)) ∧
        exec (.sbwaitTake m) s = .next (s.waits (.sync m true true))) ∧
      (¬ syncMet s.core.sb m false → exec (.sbwaitClr m) s = .next (s.waits (.sync m false false)))) ∧
    (∀ on off i m high take, s.core.forked = true → i < 4 → st ≠ .xc i → syncWaits s.core i m high take →
      syncMet (syncBits s.core.sb on off) m high → (∀ j n h u, j < 4 → j ≠ i → st ≠ .xc j → ¬ syncWaits s.core j n h u) →
      s.core.loops.get [] (Strm.xc i).code = [] →
      ∃ t, exec (.sbset on off) s = .next t ∧ t.note = .done ∧ (t.core.strmAt (.xc i)).st = .running ∧
        (t.core.strmAt (.xc i)).wait = none ∧ (t.core.strmAt (.xc i)).pc = (s.core.strmAt (.xc i)).pc + 8 ∧
        t.core.sb = if take then syncBits s.core.sb on off &&& ~~~ BitVec.ofNat 8 m else syncBits s.core.sb on off) ∧
    ∃ t, exec .endX s = .next t ∧ t.note = .done ∧ (t.core.strmAt st).st = .ended ∧ t.loopsNow = [] ∧
      t.core.reps.get none st.code = none ∧ t.core.lastEnd = st.code


/-- A Z-stream acts, and array a's active region is r, none of whose words has an uncorrectable error (R174, R195). -/
structure Sys2Proof.Claims.ArrayActive (s : State) (a h : Nat) (r : Region) : Prop where
  stream : ∃ c, s.cur = .strm c .z
  handle : s.core.z.act.get 0 a = h ∧ h ≠ 0
  region : s.core.regionOf? s.coreNo (s.coreCtx s.coreNo) h = some r
  size : r.len < 1024
  sound : s.core.badRow = []

/-- Row i of a region in the acting core's arrays. -/
def Sys2Proof.Claims.rowOf (s : State) (r : Region) (i : Nat) : BitVec 320 := s.core.rows.get 0 (8192 * r.arr + 8 * r.first + i)

/-- Rows of a region (Table 7.1). -/
def Sys2Proof.Claims.regionRows (r : Region) : Nat := 8 * (r.len + 1)

/-- TG[a][t][i]. -/
def Sys2Proof.Claims.tagOf (s : State) (a t i : Nat) : Bool := (s.core.z.tags.get 0 (8 * a + t)).getLsbD i

/-- n bits of a row from column c on. -/
def Sys2Proof.Claims.fieldOf (x : BitVec 320) (c n : Nat) : Nat := x.toNat / 2 ^ c % 2 ^ n

/-- Tag d of array a holds f in the rows of a region, and every other tag, each row, the y registers and the key stay. -/
def Sys2Proof.Claims.tagged (s t : State) (a d : Nat) (r : Region) (f : Nat → Bool) : Prop :=
  (∀ i, i < regionRows r → tagOf t a d i = f i) ∧ (∀ k, k ≠ 8 * a + d → t.core.z.tags.get 0 k = s.core.z.tags.get 0 k) ∧
  t.core.rows = s.core.rows ∧ t.core.z.y = s.core.z.y ∧ t.core.z.zk = s.core.z.zk ∧ onward s t

/-- The compares (R178): whether they look for inequality, how the match joins the condition tag. -/
noncomputable def Sys2Proof.Claims.arrayCompares : List ((Nat → Nat → Nat → Nat → Nat → Instr) × Bool × (Bool → Bool → Bool)) :=
  [(fun a d _ c w => .zcmpEq a d c w, false, fun _ m => m), (.zcmpEqAnd, false, fun t m => t && m), (.zcmpEqOr, false, fun t m => t || m),
   (fun a d _ c w => .zcmpNe a d c w, true, fun _ m => m), (.zcmpNeAnd, true, fun t m => t && m), (.zcmpNeOr, true, fun t m => t || m)]

/-- The tag operations (R179). -/
noncomputable def Sys2Proof.Claims.tagOps : List ((Nat → Nat → Nat → Nat → Instr) × (Bool → Bool → Bool)) :=
  [(.ztagAnd, fun x y => x && y), (.ztagOr, fun x y => x || y), (.ztagXor, fun x y => x != y), (.ztagAndn, fun x y => x && !y),
   (fun a d c _ => .ztagMov a d c, fun x _ => x), (fun a d c _ => .ztagNot a d c, fun x _ => !x),
   (fun a d _ _ => .ztagSet a d, fun _ _ => true), (fun a d _ _ => .ztagClr a d, fun _ _ => false)]

/-- Y[d] received v, and nothing else of the arrays changed. -/
def Sys2Proof.Claims.yReceived (s t : State) (d : Nat) (v : Lane) : Prop :=
  t.core.z.y.get 0 d = v ∧ (∀ n, n ≠ d → t.core.z.y.get 0 n = s.core.z.y.get 0 n) ∧ t.core.z.tags = s.core.z.tags ∧
  t.core.rows = s.core.rows ∧ t.core.z.zk = s.core.z.zk ∧ onward s t

/-- The rows of a region with tag e set, in ascending order. -/
def Sys2Proof.Claims.taggedRows (s : State) (a e : Nat) (r : Region) : List Nat := (List.range (regionRows r)).filter fun i => tagOf s a e i

/-- R173, R178 to R181: `zreg` of a valid handle whose rows are declared makes its region active and clears the array's tags; a compare
sets a tag where a field equals (or not) that of the key, joined with the condition tag; a tag operation acts bit by bit; `zcnt` and
`zfirst` count the tagged rows and name the first, or all ones; `zfld` latches a column.
Choices of the model: log entries 58, 99. -/
def Obligations.ArrayComparesTagTheRows : Prop :=
  (∀ a s r, (∃ c, s.cur = .strm c .z) →
    s.core.regionOf? s.coreNo (s.coreCtx s.coreNo) (s.core.z.y.get 0 a).toNat = some r →
    ((∃ u ∈ s.core.z.used, u.1 = (s.core.z.y.get 0 a).toNat) ∨
      (s.core.z.used.map Prod.snd).sum + regionRows r ≤ (s.core.task.getD {}).nrows) →
    ∃ t, exec (.zreg a) s = .next t ∧ onward s t ∧ t.core.z.act.get 0 r.arr = (s.core.z.y.get 0 a).toNat ∧
      (∀ e i, e < 8 → tagOf t r.arr e i = false) ∧ t.core.rows = s.core.rows ∧ t.core.z.y = s.core.z.y) ∧
  (∀ a h r s, ArrayActive s a h r →
    (∀ x ∈ arrayCompares, ∀ d e c w, ∃ t, exec (x.1 a d e c w) s = .next t ∧ tagged s t a d r fun i =>
      x.2.2 (tagOf s a e i) (decide (fieldOf (rowOf s r i) c (w + 1) = fieldOf s.core.z.zk c (w + 1)) != x.2.1)) ∧
    (∀ x ∈ tagOps, ∀ d c e, ∃ t, exec (x.1 a d c e) s = .next t ∧
      tagged s t a d r fun i => x.2 (tagOf s a c i) (tagOf s a e i)) ∧
    (∀ e y, ∃ t, exec (.zcnt a e y) s = .next t ∧ yReceived s t y (BitVec.ofNat 32 (taggedRows s a e r).length)) ∧
    (∀ e y, ∃ t, exec (.zfirst a e y) s = .next t ∧ yReceived s t y (match (taggedRows s a e r).head? with
      | some i => BitVec.ofNat 32 i
      | none => 0xFFFFFFFF))) ∧
  ∀ c w s, (∃ n, s.cur = .strm n .z) → ∃ t, exec (.zfld c w) s = .next t ∧ onward s t ∧ t.core.z.latch = some (c, w + 1) ∧
    t.core.z.tags = s.core.z.tags ∧ t.core.rows = s.core.rows

/-- Of the rows of a region those for which `on` holds have v i in their n bits from column c on, and no other bit of any row changed. -/
def Sys2Proof.Claims.fieldsHold (s t : State) (r : Region) (c n : Nat) (on : Nat → Bool) (v : Nat → Nat) : Prop :=
  (∀ i, i < regionRows r → on i = true → fieldOf (rowOf t r i) c n = v i % 2 ^ n ∧
    ∀ j, j < c ∨ c + n ≤ j → (rowOf t r i).getLsbD j = (rowOf s r i).getLsbD j) ∧
  (∀ i, i < regionRows r → on i = false → rowOf t r i = rowOf s r i) ∧
  ∀ k, k < 8192 * r.arr + 8 * r.first ∨ 8192 * r.arr + 8 * r.first + regionRows r ≤ k → t.core.rows.get 0 k = s.core.rows.get 0 k

/-- The array writes (R178): the value of a field of w bits. -/
noncomputable def Sys2Proof.Claims.arrayWrites : List ((Nat → Nat → Nat → Nat → Instr) × (State → Nat → Nat → Nat)) :=
  [(.zwr, fun s c n => fieldOf s.core.z.zk c n), (.zwrc, fun _ _ _ => 0), (.zwrs, fun _ _ n => 2 ^ n - 1)]

/-- The field adds and subtracts (R182): whether the source is the key (else the latched column), and whether they subtract. -/
noncomputable def Sys2Proof.Claims.fieldSums : List ((Nat → Nat → Nat → Nat → Nat → Instr) × Bool × Bool) :=
  [(.zadd, false, false), (.zsub, false, true), (.zaddk, true, false), (.zsubk, true, true)]

/-- The field compares (R183): whether the source is the key, the test of tag 7, and whether the result is tag 6. -/
noncomputable def Sys2Proof.Claims.fieldCompares : List ((Nat → Nat → Nat → Nat → Nat → Instr) × Bool × (Nat → Nat → Bool) × Bool) :=
  [(.zgt, false, fun x y => decide (y < x), false), (.zlt, false, fun x y => decide (x < y), false),
   (.zeqf, false, fun _ _ => false, true), (.zgtk, true, fun x y => decide (y < x), false),
   (.zltk, true, fun x y => decide (x < y), false)]

/-- The source field of row i: the key's own columns, or the latched column. -/
def Sys2Proof.Claims.sourceField (s : State) (r : Region) (key : Bool) (lc c n i : Nat) : Nat :=
  if key then fieldOf s.core.z.zk c n else fieldOf (rowOf s r i) lc n

/-- Tags 6, 7 and d of array a after a field operation (R181): d last. -/
def Sys2Proof.Claims.threeTags (t : State) (a d : Nat) (r : Region) (t6 t7 td : Nat → Bool) : Prop :=
  (∀ i, i < regionRows r → tagOf t a d i = td i) ∧ (d ≠ 6 → ∀ i, i < regionRows r → tagOf t a 6 i = t6 i) ∧
  (d ≠ 7 → ∀ i, i < regionRows r → tagOf t a 7 i = t7 i)

/-- R178, R181 to R185: array writes put a value into a field of the tagged rows. Field sums add or subtract a source field in the rows
of the condition tag, modulo the width, and tag the carry or borrow; field compares tag their outcome; `zmul` puts the product of two
columns of half the width, and `zmov` a column, into a field. -/
def Obligations.FieldOperationsActOnTheRows : Prop :=
  ∀ a h r s, ArrayActive s a h r →
    (∀ x ∈ arrayWrites, ∀ d c w, c + w < 320 → ∃ t, exec (x.1 a d c w) s = .next t ∧ onward s t ∧
      fieldsHold s t r c (w + 1) (fun i => tagOf s a d i) (fun _ => x.2 s c (w + 1)) ∧ t.core.z = s.core.z) ∧
    (∀ x ∈ fieldSums, ∀ d e c w lc, c + w < 320 →
      (x.2.1 = false → s.core.z.latch = some (lc, w + 1) ∧ ¬ (lc < c + (w + 1) ∧ c < lc + (w + 1))) →
      let D (i : Nat) : Nat := fieldOf (rowOf s r i) c (w + 1)
      let S (i : Nat) : Nat := sourceField s r x.2.1 lc c (w + 1) i
      let carry (i : Nat) : Bool := tagOf s a e i && (if x.2.2 then decide (D i < S i) else decide (2 ^ (w + 1) ≤ D i + S i))
      ∃ t, exec (x.1 a d e c w) s = .next t ∧ onward s t ∧
        fieldsHold s t r c (w + 1) (fun i => tagOf s a e i) (fun i => if x.2.2 then D i + 2 ^ (w + 1) - S i else D i + S i) ∧
        threeTags t a d r (fun i => tagOf s a e i) carry carry) ∧
    (∀ x ∈ fieldCompares, ∀ d e c w lc, (x.2.1 = false → s.core.z.latch = some (lc, w + 1)) →
      let D (i : Nat) : Nat := fieldOf (rowOf s r i) c (w + 1)
      let S (i : Nat) : Nat := sourceField s r x.2.1 lc c (w + 1) i
      let t6 (i : Nat) : Bool := tagOf s a e i && decide (D i = S i)
      let t7 (i : Nat) : Bool := tagOf s a e i && x.2.2.1 (D i) (S i)
      ∃ t, exec (x.1 a d e c w) s = .next t ∧ onward s t ∧ t.core.rows = s.core.rows ∧
        threeTags t a d r t6 t7 (if x.2.2.2 then t6 else t7)) ∧
    (∀ e c n lc, 0 < n → c + 3 * n ≤ 320 → s.core.z.latch = some (lc, n) → ¬ (lc < c + 2 * n ∧ c < lc + n) →
      ∃ t, exec (.zmul a e c (2 * n - 1)) s = .next t ∧ onward s t ∧
        fieldsHold s t r c (2 * n) (fun i => tagOf s a e i)
          (fun i => fieldOf (rowOf s r i) lc n * fieldOf (rowOf s r i) (c + 2 * n) n)) ∧
    ∀ d c w lc, c + w < 320 → s.core.z.latch = some (lc, w + 1) →
      ∃ t, exec (.zmov a d c w) s = .next t ∧ onward s t ∧
        fieldsHold s t r c (w + 1) (fun i => tagOf s a d i) (fun i => fieldOf (rowOf s r i) lc (w + 1))

/-- Y[n] as a number. -/
def Sys2Proof.Claims.yNat (s : State) (n : Nat) : Nat := (s.core.z.y.get 0 n).toNat

/-- The parameters of `zsel` in Y[a] to Y[a + 7] pass its checks (R307): the reserved bits are zero, the budget at most 1,024, the output
and the list, if there is one, aligned and inside the task's scratchpad. -/
structure Sys2Proof.Claims.Selectable (s : State) (a : Nat) : Prop where
  zeros : yNat s (a + 1) / 2 ^ 24 = 0 ∧ yNat s (a + 2) / 2 ^ 24 = 0 ∧ yNat s (a + 3) / 2 ^ 24 = 0 ∧ yNat s (a + 7) = 0
  budget : yNat s (a + 4) ≤ 1024
  output : yNat s (a + 5) % 4 = 0 ∧ s.core.spadCheck (yNat s (a + 5))
    (4 * (1 + yNat s (a + 1) / 2 ^ 8 % 256 + yNat s (a + 1) / 2 ^ 16 % 256 + yNat s (a + 4))) 4 = none
  list : yNat s (a + 6) ≠ 2 ^ 32 - 1 → yNat s (a + 6) % 8 = 0 ∧ s.core.spadCheck (yNat s (a + 6)) 8 8 = none ∧
    leNat (s.core.sbytes (yNat s (a + 6) + 4) 4) ≤ 1024 ∧
    s.core.spadCheck (yNat s (a + 6)) (8 + 8 * leNat (s.core.sbytes (yNat s (a + 6) + 4) 4)) 8 = none

/-- Row i of a region is a candidate of a `zsel` with parameters from Y[a] on (R296, R307). -/
def Sys2Proof.Claims.candidateRow (s : State) (a : Nat) (r : Region) (i : Nat) : Bool :=
  isCandidate (rowOf s r i) (yNat s a % 65536) (yNat s a / 65536) (yNat s (a + 1) % 256) (yNat s (a + 3) % 2 ^ 24)

/-- The pages that a `zsel` selects (R296): among the scores of the region's candidates and those of its list. -/
def Sys2Proof.Claims.selectedPages (s : State) (a : Nat) (r : Region) : List Nat :=
  let chip := ((List.range (regionRows r)).filter (candidateRow s a r)).map fun i =>
    (fieldOf (rowOf s r i) 304 9, fieldOf (rowOf s r i) 256 24)
  let list := if yNat s (a + 6) = 2 ^ 32 - 1 then [] else
    s.core.searchList (yNat s (a + 6)) (leNat (s.core.sbytes (yNat s (a + 6) + 4) 4))
  selectPages (chip ++ list) (yNat s (a + 1) / 2 ^ 8 % 256) (yNat s (a + 1) / 2 ^ 16 % 256) (yNat s (a + 2) % 2 ^ 24) (yNat s (a + 4))

/-- A page of the berm (R296): of S sinks, window W and current page c. -/
def Sys2Proof.Claims.bermPage (S W c p : Nat) : Bool := decide (p < min S (c + 1)) || (decide (c + 1 ≤ p + W) && decide (p ≤ c))

/-- The greatest score of a page among the pairs of a pool (R296). -/
def Sys2Proof.Claims.bestScore (pairs : List (Nat × Nat)) (p : Nat) : Nat := ((pairs.filter fun x => x.2 = p).map Prod.fst).foldl max 0

/-- Page q stands before page p in the ordered pool: a greater score, or the same and a greater page (R296). -/
def Sys2Proof.Claims.ranksBefore (pairs : List (Nat × Nat)) (q p : Nat) : Bool :=
  decide (bestScore pairs p < bestScore pairs q ∨ (bestScore pairs p = bestScore pairs q ∧ p < q))

/-- R296: a select gives, in ascending order and without repeats, the pages of the berm and the top of the pool: the pages of the pairs
outside the berm before which fewer than k others stand. A row is a candidate where it is valid, of head h and of a page below the limit,
and of slot q, or of slot q2 where that is one. -/
def Sys2Proof.Claims.selectionsAreBermAndTop : Prop :=
  (∀ pairs S W c k,
    (selectPages pairs S W c k).Pairwise (· < ·) ∧
    ∀ p, p ∈ selectPages pairs S W c k ↔ bermPage S W c p = true ∨ (p ∈ pairs.map Prod.snd ∧
      (((pairs.map Prod.snd).dedup.filter fun q => !bermPage S W c q && ranksBefore pairs q p).length < k))) ∧
  ∀ (x : BitVec 320) (q q2 h v : Nat), isCandidate x q q2 h v = true ↔
    x.getLsbD 318 = true ∧ fieldOf x 296 8 = h ∧ fieldOf x 256 24 < v ∧
      (fieldOf x 280 16 = q ∨ (q2 ≠ 0xFFFF ∧ fieldOf x 280 16 = q2))

/-- R306, R309: `zscore` gives each tagged row the score 256 less the number of bits in which its signature differs from the key's; `zage`
raises the tagged rows' age by 1 up to 15, and `zage.clr` clears it. -/
def Sys2Proof.Claims.scoresAndAgesAreWritten : Prop :=
  ∀ a h r s e, ArrayActive s a h r →
    (∃ t, exec (.zscore a e) s = .next t ∧ onward s t ∧ fieldsHold s t r 304 9 (fun i => tagOf s a e i) fun i =>
      256 - ((List.range 256).countP fun j => (rowOf s r i).getLsbD j != s.core.z.zk.getLsbD j)) ∧
    (∃ t, exec (.zage e a) s = .next t ∧ onward s t ∧ fieldsHold s t r 313 4 (fun i => tagOf s a e i) fun i =>
      min (fieldOf (rowOf s r i) 313 4 + 1) 15) ∧
    ∃ t, exec (.zageClr e a) s = .next t ∧ onward s t ∧ fieldsHold s t r 313 4 (fun i => tagOf s a e i) fun _ => 0

/-- R307, R296, R297: `zsel` with a list that is not stale, or with none, writes the number of pages it selects and the pages in ascending
order to its output, and the number to Y[d]; a selected candidate's age becomes 0, another candidate's rises. With a stale list Y[d]
receives all ones and the scratchpad stays. -/
def Sys2Proof.Claims.selectionWritesItsPages : Prop :=
  ∀ n h r s a d, ArrayActive s n h r → Selectable s a →
    (yNat s (a + 6) = 2 ^ 32 - 1 ∨ leNat (s.core.sbytes (yNat s (a + 6)) 4) = r.rcnt →
      let pages := selectedPages s a r
      ∃ t, exec (.zsel d a n) s = .next t ∧ onward s t ∧ t.core.z.y.get 0 d = BitVec.ofNat 32 pages.length ∧
        t.core.spad.bytes (yNat s (a + 5)) 4 = leBytes 4 pages.length ∧
        (∀ i p, pages[i]? = some p → t.core.spad.bytes (yNat s (a + 5) + 4 + 4 * i) 4 = leBytes 4 p) ∧
        fieldsHold s t r 313 4 (candidateRow s a r) fun i =>
          if pages.contains (fieldOf (rowOf s r i) 256 24) then 0 else min (fieldOf (rowOf s r i) 313 4 + 1) 15) ∧
    (yNat s (a + 6) ≠ 2 ^ 32 - 1 → leNat (s.core.sbytes (yNat s (a + 6)) 4) ≠ r.rcnt →
      ∃ t, exec (.zsel d a n) s = .next t ∧ onward s t ∧ t.core.z.y.get 0 d = 0xFFFFFFFF ∧ t.core.spad = s.core.spad ∧
        t.core.rows = s.core.rows)

/-- A row that is neither valid nor moving (R308). -/
def Sys2Proof.Claims.freeRow (x : BitVec 320) : Bool := !x.getLsbD 318 && !x.getLsbD 319

/-- The region's spills whose rows a test names have been acknowledged (R300). -/
def Sys2Proof.Claims.acknowledged (s : State) (r : Region) (on : Nat → Bool) : Prop :=
  ∀ i, i < regionRows r → on i = true → (rowOf s r i).getLsbD 319 = true →
    ∀ p ∈ s.spills, p.core = s.coreNo → p.row ≠ 8192 * r.arr + 8 * r.first + i

/-- Row i of a region may be spilled among those that a test names: valid and not moving (R308, R311). -/
def Sys2Proof.Claims.spillable (s : State) (r : Region) (on : Nat → Bool) (i : Nat) : Prop :=
  i < regionRows r ∧ on i = true ∧ (rowOf s r i).getLsbD 318 = true ∧ (rowOf s r i).getLsbD 319 = false

/-- Row i is the victim (R308): of those that may be spilled the one of greatest age, then of least page, then the least row. -/
def Sys2Proof.Claims.isVictim (s : State) (r : Region) (on : Nat → Bool) (i : Nat) : Prop :=
  let age (j : Nat) : Nat := fieldOf (rowOf s r j) 313 4
  let page (j : Nat) : Nat := fieldOf (rowOf s r j) 256 24
  spillable s r on i ∧ ∀ j, spillable s r on j → j ≠ i → age j < age i ∨ (age j = age i ∧ (page i < page j ∨ (page i = page j ∧ i < j)))

/-- R308, R310, R311: `zins` puts the key, valid, at age 0 and not moving, into the least free row and gives its number, with bit 31 after a
spill of its own; into a full region without a binding it gives all ones, and into a bound one it starts the spill of its victim and
waits. `zdel` empties the tagged rows and counts the valid ones, once
their spills are acknowledged. `zspill` of a bound region starts the spill of its victim and gives its count, or all ones without a
victim; `zspill.cnt` gives the region's count. -/
def Obligations.RowsAreInsertedDeletedAndSpilled : Prop :=
  ∀ n h r s d, ArrayActive s n h r →
    (∀ i, i < regionRows r → freeRow (rowOf s r i) = true → (∀ j, j < i → freeRow (rowOf s r j) = false) →
      ∃ t, exec (.zins d n) s = .next t ∧ onward s t ∧
        t.core.z.y.get 0 d = BitVec.ofNat 32 (i + (if s.core.z.spb then 2 ^ 31 else 0)) ∧ t.core.z.spb = false ∧
        (∀ j, j < 320 → (rowOf t r i).getLsbD j = if j = 319 then false else if j = 318 then true
          else if 313 ≤ j ∧ j < 317 then false else s.core.z.zk.getLsbD j) ∧
        ∀ k, k ≠ 8192 * r.arr + 8 * r.first + i → t.core.rows.get 0 k = s.core.rows.get 0 k) ∧
    ((∀ i, i < regionRows r → freeRow (rowOf s r i) = false ∧ (rowOf s r i).getLsbD 319 = false) → r.bind.getLsbD 0 = false →
      ∃ t, exec (.zins d n) s = .next t ∧ yReceived s t d 0xFFFFFFFF) ∧
    (∀ i, (∀ j, j < regionRows r → freeRow (rowOf s r j) = false ∧ (rowOf s r j).getLsbD 319 = false) → r.bind.getLsbD 0 = true →
      isVictim s r (fun _ => true) i →
      ∃ t p, exec (.zins d n) s = .next t ∧ t.note = .stalled ∧ t.pc = s.pc ∧ t.core.z.spb = true ∧ t.spills = s.spills ++ [p] ∧
        p.n = (r.rcnt + 1) % 2 ^ 32 ∧ p.row = 8192 * r.arr + 8 * r.first + i ∧ (rowOf t r i).getLsbD 319 = true) ∧
    (∀ e, acknowledged s r (fun i => tagOf s n e i) →
      ∃ t, exec (.zdel d e n) s = .next t ∧ onward s t ∧
        t.core.z.y.get 0 d = BitVec.ofNat 32 ((taggedRows s n e r).countP fun i => (rowOf s r i).getLsbD 318) ∧
        fieldsHold s t r 313 7 (fun i => tagOf s n e i) fun _ => 0) ∧
    (∀ e, r.bind.getLsbD 0 = true →
      (∀ i, isVictim s r (fun j => tagOf s n e j) i →
        ∃ t p, exec (.zspill d e n) s = .next t ∧ onward s t ∧ t.core.z.y.get 0 d = BitVec.ofNat 32 ((r.rcnt + 1) % 2 ^ 32) ∧
          t.spills = s.spills ++ [p] ∧ p.n = (r.rcnt + 1) % 2 ^ 32 ∧ p.row = 8192 * r.arr + 8 * r.first + i ∧
          (rowOf t r i).getLsbD 319 = true ∧ p.image.getLsbD 319 = false ∧
          ∀ j, j < 319 → (rowOf t r i).getLsbD j = (rowOf s r i).getLsbD j ∧ p.image.getLsbD j = (rowOf s r i).getLsbD j) ∧
      ((∀ i, ¬ spillable s r (fun j => tagOf s n e j) i) →
        ∃ t, exec (.zspill d e n) s = .next t ∧ yReceived s t d 0xFFFFFFFF)) ∧
    ∃ t, exec (.zspillCnt d n) s = .next t ∧ yReceived s t d (BitVec.ofNat 32 r.rcnt)

/-- The scalar operations of two y registers (R187). -/
noncomputable def Sys2Proof.Claims.scalarYOps : List ((Nat → Nat → Nat → Instr) × (Lane → Lane → Lane)) :=
  [(.yadd, fun x y => x + y), (.ysub, fun x y => x - y), (.yand, fun x y => x &&& y), (.yor, fun x y => x ||| y)]

/-- The pc of a Z-stream after a branch (R188). -/
def Sys2Proof.Claims.zTarget (s : State) (taken : Prop) [Decidable taken] (i : Nat) : Word :=
  if taken then s.pc + 4 * (BitVec.ofNat 18 i).signExtend 64 else s.pc + 4

/-- R186 to R189: the key, scalar and control words complete: `zkld` takes the oldest entry of `qz0`, `zkset` and `zkget` write and read a
field of the key, the scalar operations write Y[d], `ypush` and `ypop` move an entry of `qy0` and `qz1`, branches go where their condition
says, `zloop` counts down first, `zend` ends the stream, and `znop` only goes on.
Choices of the model: log entry 99. -/
def Obligations.KeysScalarsAndBranchesComplete : Prop :=
  ∀ s n, s.cur = .strm n .z →
    exec .znop s = .next s.step4 ∧
    (∀ e es, s.core.q.qz0 = e :: es → ∃ t, exec .zkld s = .next t ∧ onward s t ∧ t.core.z.zk = e ∧ t.core.q.qz0 = es ∧
      t.core.z.y = s.core.z.y) ∧
    (∀ y c w, ∃ t, exec (.zkset y c w) s = .next t ∧ onward s t ∧ t.core.z.y = s.core.z.y ∧
      ∀ j, j < 320 → t.core.z.zk.getLsbD j =
        if c ≤ j ∧ j ≤ c + w then (s.core.z.y.get 0 y).getLsbD (j - c) else s.core.z.zk.getLsbD j) ∧
    (∀ y c w, ∃ t, exec (.zkget y c w) s = .next t ∧ yReceived s t y (BitVec.ofNat 32 (fieldOf s.core.z.zk c (w + 1)))) ∧
    (∀ x ∈ scalarYOps, ∀ d a b, ∃ t, exec (x.1 d a b) s = .next t ∧
      yReceived s t d (x.2 (s.core.z.y.get 0 a) (s.core.z.y.get 0 b))) ∧
    (∀ d a i, ∃ t, exec (.yaddi d a i) s = .next t ∧ yReceived s t d (s.core.z.y.get 0 a + (BitVec.ofNat 18 i).signExtend 32)) ∧
    (∀ d i, ∃ t, exec (.yli d i) s = .next t ∧ yReceived s t d ((BitVec.ofNat 18 i).signExtend 32)) ∧
    (∀ a, s.core.q.qy0.length < 16 → ∃ t, exec (.ypush a) s = .next t ∧ onward s t ∧
      t.core.q.qy0 = s.core.q.qy0 ++ [s.core.z.y.get 0 a] ∧ t.core.z = s.core.z) ∧
    (∀ d e es, s.core.q.qz1 = e :: es → ∃ t, exec (.ypop d) s = .next t ∧ yReceived s t d e ∧ t.core.q.qz1 = es) ∧
    (∀ i, exec (.zbr i) s = .next (s.goTo (zTarget s True i))) ∧
    (∀ d a i, exec (.zbeq d a i) s = .next (s.goTo (zTarget s (s.core.z.y.get 0 d = s.core.z.y.get 0 a) i)) ∧
      exec (.zbne d a i) s = .next (s.goTo (zTarget s (s.core.z.y.get 0 d ≠ s.core.z.y.get 0 a) i))) ∧
    (∀ d i, ∃ t, exec (.zloop d i) s = .next t ∧ t.note = .done ∧ t.core.z.y.get 0 d = s.core.z.y.get 0 d - 1 ∧
      t.pc = zTarget s (s.core.z.y.get 0 d ≠ 1) i) ∧
    ∃ t, exec .zend s = .next t ∧ t.note = .done ∧ (t.core.strmAt .z).st = .ended ∧ t.core.lastEnd = 6 ∧ t.core.z = s.core.z


/-- A device at work (R393), and a core whose task runs (R375). -/
structure Sys2Proof.Claims.AtWork (s : State) (c : Nat) : Prop where
  live : s.live
  task : (s.coreAt c).task.isSome = true
  running : (s.coreAt c).frozen = none

/-- The state with no stall and no fault noted, as an event that does nothing leaves it. -/
def Sys2Proof.Claims.idleNote (s : State) : State := { s with note := .done }

/-- The accumulator words of banks lo to lo + n - 1 hold f, by their place from the first, and the other words stay (R151). -/
def Sys2Proof.Claims.accHold (s t : State) (c lo n : Nat) (f : Nat → Lane) : Prop :=
  ∀ k, (t.coreAt c).mx.acc.get 0 k =
    if 512 * lo ≤ k ∧ k < 512 * (lo + n) then f (k - 512 * lo) else (s.coreAt c).mx.acc.get 0 k

/-- The lanes of a register that an `accrd` writes (R159): of the joined stream, or of forked cluster cl - 1. -/
def Sys2Proof.Claims.accrdSpan (cl : Nat) : Nat × Nat := if cl = 0 then (0, 1024) else (256 * (cl - 1), 256)

/-- R148, R156 to R160: the events of the matrix engine. A tile load's last byte makes the tile full; the command at the head of the
queue leaves it and takes effect: an MMA on a full tile writes its sixteen banks, and empties its tile if it is to; `tfree` empties a full
tile; `accrd` writes its lanes with the converted words; `acczero` writes zeros. Stated where no follow-on waits for the place in the
queue that the head leaves.
Choices of the model: log entry 52 (when a tile load reads its bytes), 53. -/
def Obligations.MatrixEventsTakeEffect : Prop :=
  ∀ s c, AtWork s c → (s.coreAt c).mx.wait = [] →
    (∀ t img sc, (s.coreAt c).mx.tileSt t = .loading img sc →
      ∃ u, exec (.tileFull c t) s = .next u ∧ u.note = .done ∧ (u.coreAt c).mx.tileSt t = .full ∧
        ∀ i, i < 8192 → (u.coreAt c).mx.tile.get 0 (8192 * t + i) = (s.coreAt c).spadByte (img + i) ∨
          (u.coreAt c).mx.tile.get 0 (8192 * t + i) = (s.coreAt c).mx.tile.get 0 (8192 * t + i)) ∧
    (∀ op fmt h t b w fr hdl rest, (s.coreAt c).mx.mq = .mma op fmt h t b w fr hdl :: rest → (s.coreAt c).mx.tileSt t = .full →
      ∃ u, exec (.mmaExecution c) s = .next u ∧ u.note = .done ∧ (u.coreAt c).mx.mq = rest ∧
        accHold s u c b 16 (fun e => BitVec.ofNat 32 ((s.coreAt c).mx.mmaElem op fmt h t b w e).1) ∧
        (u.coreAt c).mx.tileSt t = (if fr then .empty else .full) ∧ (u.coreAt c).mx.held = (s.coreAt c).mx.held) ∧
    (∀ t rest, (s.coreAt c).mx.mq = .tfree t :: rest → (s.coreAt c).mx.tileSt t = .full →
      ∃ u, exec (.tfreeEffect c) s = .next u ∧ u.note = .done ∧ (u.coreAt c).mx.mq = rest ∧ (u.coreAt c).mx.tileSt t = .empty ∧
        (u.coreAt c).mx.acc = (s.coreAt c).mx.acc) ∧
    (∀ rm fmt d b cl rest, (s.coreAt c).mx.mq = .accrd rm fmt d b cl :: rest →
      ∃ u, exec (.accrdExecution c) s = .next u ∧ u.note = .done ∧ (u.coreAt c).mx.mq = rest ∧
        (u.coreAt c).mx.acc = (s.coreAt c).mx.acc ∧
        ∀ n l, ((u.coreAt c).vreg n).get 0 l =
          if n = d ∧ (accrdSpan cl).1 ≤ l ∧ l < (accrdSpan cl).1 + (accrdSpan cl).2 then
            BitVec.ofNat 32 (cvtLane (.flt fp32) ((elemFmt fmt).getD (.flt fp32)) (s.coreAt c).e4nan rm ((s.coreAt c).gen l)
              ((s.coreAt c).mx.accWord (512 * b + l))).val
          else ((s.coreAt c).vreg n).get 0 l) ∧
    ∀ b n rest, (s.coreAt c).mx.mq = .acczero b n :: rest →
      ∃ u, exec (.acczeroExecution c) s = .next u ∧ u.note = .done ∧ (u.coreAt c).mx.mq = rest ∧ accHold s u c b n fun _ => 0

/-- Engine slot `slot` of a core is done with its command (R249). -/
def Sys2Proof.Claims.slotDone (u : State) (c slot : Nat) : Prop := (u.eslot c slot).st = .completed ∧ (u.eslot c slot).cmd = none

/-- A core with the elements of a command at its destination in a space other than global memory (R238 to R241). -/
def Sys2Proof.Claims.delivered (x : Core) (cmd : Cmd) (els : List (Nat × Nat)) : Core :=
  match cmd.dstSpace with
  | 1 => dstSpad cmd x els
  | 2 => { x with mx := dstTile cmd x.mx els }
  | 3 => { x with mx := dstPanel cmd x.mx els }
  | _ => { x with cb := x.cb.splice 0 (rBase cmd.dst) els.length fun k => BitVec.ofNat 64 (els.getD (k - rBase cmd.dst) (0, 0)).1 }

/-- The n bytes at an intermediate address lie in a backed page of the context, whose frame holds them at key k, sound and under the page's
key, in full service (R206, R208, R365, R389, R391). -/
structure Sys2Proof.Claims.Homed (s : State) (ctx ia n : Nat) (e : Entry) (k : Nat) : Prop where
  noPeer : s.peerWin? ctx ia = none
  entry : s.entry? ia = some e
  goodWalk : s.walkBad? ia = none
  present : e.absent = false
  owner : e.ctx = ctx
  backed : e.pol = false
  inTier : e.frame + ia % e.size < tierSize e.tier
  service : s.reduced = false
  key : k = physKey e.tier (e.frame + ia % e.size)
  clean : s.badIn k n = false
  readable : ∀ i, i < n → s.lkey.get 0 ((k + i) / 128) = 0 ∨ s.lkey.get 0 ((k + i) / 128) = s.lineTag e (ia + i)

/-- Memory holds the bytes from key k on, and every other byte of it is as before. -/
def Sys2Proof.Claims.stored (s u : State) (k : Nat) (bs : List Byte) : Prop :=
  ∀ j, u.mem.get 0 j = if k ≤ j ∧ j < k + bs.length then byteAt bs (j - k) else s.mem.get 0 j

/-- No stream slot is in use, and the context has no slot table, so that no store meets a slot (R343, R350). -/
def Sys2Proof.Claims.noSlots (s : State) (ctx : Nat) : Prop := s.slots = [] ∧ s.slotTable? ctx = none

/-- The arrival counts that a command adds to (R245): its tile's; those of the banks it wrote, the banks of its scales among them; none for
another destination. -/
def Sys2Proof.Claims.arrivesAt (cmd : Cmd) : List Nat :=
  if cmd.dstSpace = 2 then [rBase cmd.dst]
  else if cmd.dstSpace = 1 then
    cmd.dstEnd.banks.map (16 + ·) ++
      (if (cFmtOf cmd.fd).scaled then (cmd.bd.take cmd.dstEnd.rows).map fun w => 16 + bf w 12 8 else [])
  else []

/-- R148, R231, R244, R245, R162, R164, R303, R335, R299: the events of a core's engines. The oldest entry of a vector queue that waits becomes
poppable. A command into an empty tile begins, and the tile is loading. A command from the scratchpad moves its elements to a local
destination and completes, with one arrival more at each bank or tile it wrote, and one whose data has landed completes; the follow-on of
a `copy.mma` enters the matrix queue, or completes with 0x05 where its banks were not held when it arrived. A search's scan finds at most
its budget of pages; its completion writes its list. A spill's entry is written to its store.
Choices of the model: log entries 51, 47, 81, 94. -/
def Obligations.EngineEventsTakeEffect : Prop :=
  ∀ s c, AtWork s c →
    (∀ q pre e post, (s.coreAt c).q.qv.get [] q = pre ++ e :: post → (∀ x ∈ pre, x.ready = true) → e.ready = false →
      ∃ u, exec (.vectorQueueEntryFilled c q) s = .next u ∧ u.note = .done ∧
        (u.coreAt c).q.qv.get [] q = pre ++ { e with ready := true } :: post) ∧
    (∀ slot cmd, (s.eslot c slot).cmd = some cmd → rRel cmd.flags = false →
      (cmd.landed = true → cmd.kind ≤ 3 → cmd.bad = false →
        ∃ u, exec (.copyCompletion c slot) s = .next u ∧ slotDone u c slot ∧ (u.eslot c slot).flt = none ∧ u.mem = s.mem) ∧
      (cmd.landed = false → cmd.begun = false → cmd.kind ≤ 4 → cmd.dstSpace = 2 → rAcq cmd.src = false → rChk cmd.flags = false →
        (s.coreAt c).mx.tileSt (rBase cmd.dst) = .empty →
        ∃ u, exec (.copyCompletion c slot) s = .next u ∧ (u.eslot c slot).cmd = some { cmd with begun := true } ∧
          (u.eslot c slot).st = (s.eslot c slot).st ∧ (u.coreAt c).mx = (s.coreAt c).mx.setTile (rBase cmd.dst) (.filling slot) ∧
          u.mem = s.mem) ∧
      (cmd.landed = false → cmd.begun = false → cmd.kind ≤ 4 → cmd.dstSpace = 2 → (s.coreAt c).mx.tileSt (rBase cmd.dst) ≠ .empty →
        exec (.copyCompletion c slot) s = .next (idleNote s)) ∧
      (cmd.landed = false → cmd.kind = 0 → rSpace cmd.src = 1 → cmd.dstSpace ≠ 0 → rAcq cmd.src = false → rChk cmd.flags = false →
        (cmd.dstSpace = 2 → cmd.begun = true) → (s.coreAt c).earlierDraw cmd.no = false → (s.coreAt c).queued slot cmd.no = false →
        let els := (convAll cmd ((List.range (rCount cmd.src)).map
          (srcSpad (s.coreAt c) (rEnd cmd.src (cFmtOf cmd.fs)) (cFmtOf cmd.fs) cmd.bs)) ⟨(s.coreAt c).gen 1024, {}⟩).1
        ∃ u, exec (.copyCompletion c slot) s = .next u ∧ slotDone u c slot ∧
          (u.coreAt c).spad = (delivered (s.coreAt c) cmd els).spad ∧ (u.coreAt c).mx = (delivered (s.coreAt c) cmd els).mx ∧
          (u.coreAt c).cb = (delivered (s.coreAt c) cmd els).cb ∧
          (∀ i, (u.coreAt c).arr.get 0 i =
            if i ∈ arrivesAt cmd then ((s.coreAt c).arr.get 0 i + 1) % 16 else (s.coreAt c).arr.get 0 i)) ∧
      (cmd.landed = true → cmd.kind = 4 → cmd.bad = false → (s.coreAt c).mx.wait = [slot] → (s.coreAt c).mx.mq.length < 16 →
        ∃ u, exec (.followOnMma c slot) s = .next u ∧ slotDone u c slot ∧ (u.eslot c slot).flt = none ∧ (u.coreAt c).mx.wait = [] ∧
          (u.coreAt c).mx.mq = (s.coreAt c).mx.mq ++ [.mma (bf cmd.desc 63 62) (bf cmd.desc 61 56) (bf cmd.desc 48 48)
            (rBase cmd.dst) (bf cmd.desc 38 32) (bf cmd.desc 14 0) (bit cmd.desc 49)
            (BitVec.ofNat 64 ((s.eslot c slot).gen * 64 + slot))]) ∧
      (cmd.landed = true → cmd.kind = 4 → cmd.bad = true →
        ∃ u f, exec (.followOnMma c slot) s = .next u ∧ slotDone u c slot ∧ (u.eslot c slot).flt = some f ∧ f.code = 0x05 ∧
          f.hdl = BitVec.ofNat 64 ((s.eslot c slot).gen * 64 + slot) ∧ (u.coreAt c).mx.mq = (s.coreAt c).mx.mq)) ∧
    (∀ slot cmd, (s.eslot c slot).cmd = some cmd → cmd.kind = 5 → cmd.found = none → s.scanReady c cmd = true →
      (s.seqrAt cmd.su).resetting = false → s.debt.get 0 (cmd.su / 4) < 8 → s.pend = [] →
      (∀ i, i < 2 ^ bindCap cmd.desc → ∃ e k, Mapped s (s.coreCtx c) (bindBase cmd.desc + 64 * i) 64 e k) →
      ∃ u xs, exec (.searchScan c slot) s = .next u ∧ (u.eslot c slot).cmd = some { cmd with found := some xs } ∧
        xs.length ≤ bf (cmdWord cmd 3) 31 0 ∧ s.debt.get 0 (cmd.su / 4) ≤ u.debt.get 0 (cmd.su / 4) ∧
        u.debt.get 0 (cmd.su / 4) ≤ 8) ∧
    (∀ slot cmd xs, (s.eslot c slot).cmd = some cmd → cmd.found = some xs → (s.coreAt c).stLine = [] →
      ∃ u, exec (.searchCompletion c slot) s = .next u ∧ slotDone u c slot ∧ (u.seqrAt cmd.su).wd = 0 ∧
        (u.coreAt c).spad.bytes (bf (cmdWord cmd 3) 63 32) (8 + 8 * xs.length) = listBytes (bf (cmdWord cmd 0) 63 32) xs) ∧
    ∀ ent p e k, s.spills.find? (fun p => decide (p.core = c) && decide (p.ent = ent)) = some p → c < 320 →
      (s.seqrAt p.su).resetting = false → Mapped s p.ctx p.ia 64 e k → noSlots s p.ctx →
      ∃ u, exec (.spillAcknowledgement c ent) s = .next u ∧ u.note = .done ∧ u.spills = s.spills.filter (fun o => decide (o ≠ p)) ∧
        stored s u k p.bytes

/-- Coordinate d of element e of a window in space 0 (R235); in index mode that of dimension 1 is the list's entry for i1 (R246). -/
def Sys2Proof.Claims.coordinate (r : Layout) (list : Option (Nat → Int)) (e d : Nat) : Int :=
  if rRank r ≤ d then 0 else match list, d with
    | some l, 1 => l (rIdx r e 1)
    | _, _ => rOrg r d + rIdx r e d

/-- Element e lies within the extents (R235). -/
def Sys2Proof.Claims.inside (r : Layout) (list : Option (Nat → Int)) (e : Nat) : Prop :=
  ∀ d, d < rRank r → 0 ≤ coordinate r list e d ∧ coordinate r list e d < rExt r d

/-- The virtual address of element e, of w bytes, in space 0 (R235). -/
def Sys2Proof.Claims.elementAddress (r : Layout) (list : Option (Nat → Int)) (w e : Nat) : Nat :=
  let x := coordinate r list e
  ((rBase r + w * x 0 + x 1 * rStr r 1 + x 2 * rStr r 2 + x 3 * rStr r 3 + x 4 * rStr r 4) % (2 ^ 56 : Int)).toNat

/-- The scratchpad address of element e, of w bytes, of a window in space 1 (R238): rows go round the banks of the interleave. -/
def Sys2Proof.Claims.elementPlace (r : Layout) (w e : Nat) : Nat :=
  let row := e / rSize r 0
  let pitch : Int := if rStr r 1 ≠ 0 ∧ 1 < rRank r then rStr r 1 else (((w * rSize r 0 + 3) / 4 * 4 : Nat) : Int)
  131072 * (rBank r + row % 2 ^ rIlv r) + ((bf (rw r 0) 16 0 : Int) + (row / 2 ^ rIlv r : Nat) * pitch).toNat + w * (e % rSize r 0)

/-- The index list of a record (R246): INT32 entries in the scratchpad. -/
def Sys2Proof.Claims.listEntry (x : Core) (r : Layout) (i : Nat) : Int := toS 32 (leNat (x.spad.bytes (rList r + 4 * i) 4))

/-- The n bytes at a virtual address are plain memory for a request of an engine (R202, R208): a window shows them with the permissions. -/
structure Sys2Proof.Claims.Reached (s : State) (q : Req) (va n : Nat) (p : Perm) (ia : Nat) (e : Entry) (k : Nat) : Prop extends
    Mapped s q.ctx ia n e k where
  xlate : s.translate? q va n p = .ok ia
  window : s.winBad q.ctx va = false

/-- A command in flight that moves elements of w whole bytes, of one plain format at both ends, without flags, for a core that holds nothing
back and has nothing with an error in its scratchpad; no store waits anywhere, no slot is in use. -/
structure Sys2Proof.Claims.Moving (s : State) (c slot : Nat) (cmd : Cmd) (w : Nat) : Prop where
  work : AtWork s c
  inFlight : (s.eslot c slot).cmd = some cmd ∧ cmd.landed = false ∧ cmd.begun = false
  format : ∃ f, cFmtOf cmd.fs = .plain f ∧ f.width = 8 * w ∧ 0 < w
  ends : rRank cmd.src ≤ 5 ∧ rRank cmd.dst ≤ 5 ∧ cmd.dst ≠ [] ∧ rCount cmd.src = rCount cmd.dst ∧ rSize cmd.src 0 = rSize cmd.dst 0
  flags : rAcq cmd.src = false ∧ rRel cmd.dst = false ∧ rChk cmd.dst = false
  clean : (s.coreAt c).ecc.spad = []
  held : (s.coreAt c).held = []
  quiet : s.pend = []
  slots : noSlots s (s.coreCtx c)

/-- The elements of a space-0 window that lie inside the extents are reached, element e at ia e of memory and key k e, all in one page, whose
words in the frame tables stand clear of them. -/
structure Sys2Proof.Claims.InPage (s : State) (q : Req) (r : Layout) (list : Option (Nat → Int)) (w : Nat) (p : Perm) (ia k : Nat → Nat)
    (page : Entry) : Prop where
  reached : ∀ e, e < rCount r → inside r list e → Reached s q (elementAddress r list w e) w p (ia e) page (k e)
  one : ∀ e d, e < rCount r → d < rCount r → page.page (ia e) = page.page (ia d)
  tables : ∀ e d, e < rCount r → d < rCount r → ∀ x ∈ tableWords s (ia d), x + 8 ≤ k e ∨ k e + w ≤ x

/-- R244, R235, R236, R238, R246: a copy or gather from global memory into the scratchpad puts the w bytes of each source element at the
place of the destination element of the same number, and zeros for one that leaves the extents under `fill` 00; memory stays. -/
def Sys2Proof.Claims.copiesReadMemory : Prop :=
  ∀ s c slot cmd w ia k page, Moving s c slot cmd w → cmd.kind ≤ 1 → rSpace cmd.src = 0 → rSpace cmd.dst = 1 → cmd.fd = cmd.fs →
    isCont (rFmt cmd.src) = false →
    let list := if cmd.kind = 1 then some (listEntry (s.coreAt c) cmd.src) else none
    InPage s (s.engReq c slot cmd) cmd.src list w { r := true } ia k page →
    rFill cmd.src = 0 ∨ (∀ e, e < rCount cmd.src → inside cmd.src list e) →
    (∀ e d, e < rCount cmd.dst → d < rCount cmd.dst → e ≠ d →
      elementPlace cmd.dst w e + w ≤ elementPlace cmd.dst w d ∨ elementPlace cmd.dst w d + w ≤ elementPlace cmd.dst w e) →
    ∃ u, exec (.copyCompletion c slot) s = .next u ∧ slotDone u c slot ∧ (u.eslot c slot).flt = none ∧ u.mem = s.mem ∧
      ∀ e, e < rCount cmd.dst →
        (inside cmd.src list e → (u.coreAt c).spad.bytes (elementPlace cmd.dst w e) w = s.mem.bytes (k e) w) ∧
        (¬ inside cmd.src list e → (u.coreAt c).spad.bytes (elementPlace cmd.dst w e) w = List.replicate w 0)

/-- R244, R235, R236, R238, R246: a copy or scatter from the scratchpad into global memory writes the w bytes of each element to the
destination element of the same number, none for one that leaves the extents under `fill` 00; where elements of a scatter meet, the one of
the highest i1 leaves its value. No other byte of memory changes. -/
def Sys2Proof.Claims.copiesWriteMemory : Prop :=
  ∀ s c slot cmd w ia k page, Moving s c slot cmd w → cmd.kind = 0 ∨ cmd.kind = 2 → rSpace cmd.src = 1 → rSpace cmd.dst = 0 →
    cmd.fd = cmd.fs → isCont (rFmt cmd.dst) = false →
    let list := if cmd.kind = 2 then some (listEntry (s.coreAt c) cmd.dst) else none
    InPage s (s.engReq c slot cmd) cmd.dst list w { w := true } ia k page →
    rFill cmd.dst = 0 ∨ (∀ e, e < rCount cmd.dst → inside cmd.dst list e) →
    (∀ e d, e < rCount cmd.dst → d < rCount cmd.dst → e ≠ d → inside cmd.dst list e → inside cmd.dst list d →
      k e + w ≤ k d ∨ k d + w ≤ k e ∨
      (cmd.kind = 2 ∧ elementAddress cmd.dst list w e = elementAddress cmd.dst list w d ∧ rIdx cmd.dst e 1 ≠ rIdx cmd.dst d 1)) →
    ∃ u, exec (.copyCompletion c slot) s = .next u ∧ slotDone u c slot ∧ (u.eslot c slot).flt = none ∧
      (∀ e, e < rCount cmd.dst → inside cmd.dst list e →
        (∀ d, d < rCount cmd.dst → inside cmd.dst list d → k d = k e → rIdx cmd.dst d 1 ≤ rIdx cmd.dst e 1) →
        u.mem.bytes (k e) w = (s.coreAt c).spad.bytes (elementPlace cmd.src w e) w) ∧
      ∀ j, (∀ e, e < rCount cmd.dst → inside cmd.dst list e → j < k e ∨ k e + w ≤ j) → u.mem.get 0 j = s.mem.get 0 j

/-- What a rotation rounds to (R247, R83) for an exact value: the nearest number of the format, ties to even; a value below the smallest
subnormal gives that or zero; beyond the largest finite value, infinity. -/
def Sys2Proof.Claims.nearest (F : FFmt) (v : ℚ) (bits : Nat) : Prop :=
  let minsub : ℚ := 2 ^ (1 - (F.bias : ℤ) - F.mant)
  (v = 0 → number F bits = 0) ∧
  (v ≠ 0 → |v| < minsub → bits = withSign F (decide (v < 0)) 0 ∨ bits = withSign F (decide (v < 0)) 1) ∧
  (minsub ≤ |v| → |rounded F 0 0 v| ≤ magnitude F F.maxBits → number F bits = rounded F 0 0 v) ∧
  (minsub ≤ |v| → magnitude F F.maxBits < |rounded F 0 0 v| → bits = withSign F (decide (v < 0)) (F.maxBits + 1))

/-- R247: `rcopy` between FP32, BF16 and FP16 turns each pair of neighbours by its entry of the rotation table: exact products and sum,
rounded once; a NaN among the four gives the default NaN. No other byte of memory changes.
Choices of the model: log entry 82. -/
def Sys2Proof.Claims.rotationsTurnPairs : Prop :=
  ∀ F ∈ [(8, fp32, 4), (9, bf16, 2), (10, fp16, 2)], ∀ G ∈ [(8, fp32, 4), (9, bf16, 2), (10, fp16, 2)],
  ∀ s c slot cmd ia k from_ ia' k' page, Moving s c slot cmd F.2.2 → cmd.kind = 3 → rSpace cmd.src = 0 → rSpace cmd.dst = 0 →
    cmd.fs = F.1 → cmd.fd = G.1 → rFmt cmd.src = F.1 → rFmt cmd.dst = G.1 → rSize cmd.src 0 % 2 = 0 →
    (∀ e, e < rCount cmd.src → inside cmd.src none e ∧ inside cmd.dst none e) → (s.coreAt c).earlierDraw cmd.no = false →
    InPage s (s.engReq c slot cmd) cmd.src none F.2.2 { r := true } ia k from_ →
    InPage s (s.engReq c slot cmd) cmd.dst none G.2.2 { w := true } ia' k' page →
    (∀ e d, e < rCount cmd.dst → d < rCount cmd.dst → e ≠ d → k' e + G.2.2 ≤ k' d ∨ k' d + G.2.2 ≤ k' e) →
    ∃ u, exec (.copyCompletion c slot) s = .next u ∧ slotDone u c slot ∧ (u.eslot c slot).flt = none ∧
      (∀ e, e < rCount cmd.dst →
        let element (i : Nat) : Nat := leNat (s.mem.bytes (k i) F.2.2)
        let table (o : Nat) : Nat := leNat ((s.coreAt c).spad.bytes (rFval cmd.src + 8 * (e % rSize cmd.src 0 / 2) + o) 4)
        let X := element (e / 2 * 2)
        let Y := element (e / 2 * 2 + 1)
        let result := leNat (u.mem.bytes (k' e) G.2.2)
        (isNaN F.2.1 X ∨ isNaN F.2.1 Y ∨ isNaN fp32 (table 0) ∨ isNaN fp32 (table 4) → G.2.1.nan = some result) ∧
        (¬ isNaN F.2.1 X → ¬ isInf F.2.1 X → ¬ isNaN F.2.1 Y → ¬ isInf F.2.1 Y → ¬ isNaN fp32 (table 0) → ¬ isInf fp32 (table 0) →
          ¬ isNaN fp32 (table 4) → ¬ isInf fp32 (table 4) →
          let x := number F.2.1 X
          let y := number F.2.1 Y
          let c := number fp32 (table 0)
          let s := number fp32 (table 4)
          nearest G.2.1 (if e % 2 = 0 then x * c - y * s else x * s + y * c) result)) ∧
      ∀ j, (∀ e, e < rCount cmd.dst → j < k' e ∨ k' e + G.2.2 ≤ j) → u.mem.get 0 j = s.mem.get 0 j

/-- The clauses of copiesReadMemory, copiesWriteMemory and rotationsTurnPairs. -/
def Obligations.CopiesMoveTheirElements : Prop := copiesReadMemory ∧ copiesWriteMemory ∧ rotationsTurnPairs

/-- R262, R275, R199: a granted store that may go performs: its bytes reach memory, and it waits no more; a release mark that may go
only goes. A write beyond the device is acknowledged, and an interrupt that waited for the device's own writes is raised with the last of
them (R278). A dirty stash line goes back to its home and is clean; a clean one stays. -/
def Sys2Proof.Claims.accessesPerform : Prop :=
  ∀ s, s.live →
    (∀ i p, s.pend[i]? = some p → mayPerform (s.pend.take i) p = true →
      (p.ord = 3 → exec (.accessPerformed i) s = .next { idleNote s with pend := s.pend.eraseIdx i }) ∧
      (∀ e k, p.ord ≠ 3 → Mapped s p.ctx p.ia p.data.length e k → noSlots s p.ctx →
        ∃ u, exec (.accessPerformed i) s = .next u ∧ u.pend = s.pend.eraseIdx i ∧ stored s u k p.data)) ∧
    (∀ i, s.irqDue = [] → exec (.remoteWriteAcknowledgement i) s = .next { idleNote s with remote := s.remote.eraseIdx i }) ∧
    (∀ i, let t := { idleNote s with remote := s.remote.eraseIdx i }
      (t.deviceOwes = true → exec (.remoteWriteAcknowledgement i) s = .next t) ∧
      ∀ f v, t.deviceOwes = false → s.irqDue = [(f, v)] →
        exec (.remoteWriteAcknowledgement i) s = .next ({ t with irqDue := [] }.raise f v)) ∧
    (∀ c line l, (s.coreAt c).stLine.get none line = some l →
      (l.dirty = false → exec (.stashWriteback c line) s = .next (idleNote s)) ∧
      (∀ e k, l.dirty = true → l.ia % 128 = 0 → Homed s (s.coreCtx c) l.ia 128 e k → (s.coreAt c).ecc.spad = [] →
        ∃ u, exec (.stashWriteback c line) s = .next u ∧ (u.coreAt c).stLine.get none line = some { l with dirty := false } ∧
          stored s u k ((s.coreAt c).spad.bytes (128 * line) 128)))

/-- An entry's read and write heats (Table 8.3). -/
def Sys2Proof.Claims.withHeats (e : Entry) (rh wh : Nat) : Word := setBf (setBf e.e0 46 45 rh) 44 43 wh

/-- The requester mask of a device walk's kind (R209). -/
def Sys2Proof.Claims.walkMask (kind : Nat) : Nat := if kind = 0 then 1 else if kind = 1 then 2 else 4

/-- What a die has counted of a reuse range contradicts its hint (R220): 4,096 accesses, and for `stream` (hint 1) more than half of the
re-accesses hit, for another hint more than half of the accesses miss; `x`: accesses, misses, re-accesses, and of these the hits. -/
def Sys2Proof.Claims.rangeContradicts (hint : Nat) (x : Nat × Nat × Nat × Nat) : Prop :=
  4096 ≤ x.1 ∧ (if hint = 1 then x.2.2.1 < 2 * x.2.2.2 else x.1 < 2 * x.2.1)

/-- Every line of the page's frame was stored in clear or under the page's own key and tweak (R365). -/
def Sys2Proof.Claims.ownKey (s : State) (e : Entry) (ia : Nat) : Prop :=
  ∀ i, i < e.size / 128 → s.lkey.get 0 (physKey e.tier e.frame / 128 + i) = 0 ∨
    s.lkey.get 0 (physKey e.tier e.frame / 128 + i) = s.lineTag e (e.page ia + 128 * i)

/-- R208, R209, R218 to R223, R337: the memory side's own work. A walk raises the heat of the requester's page, or opens an episode for a
page that is not there, which a further walk joins until its record is sent. A sweep, one each 1 ms, lowers the heats of a page. A page
moves to a free frame where the rules let it and ask for it, and else stays: its bytes, its entry, and its old frame's place in quarantine.
A hint that the counts of a running task's launch contradict is reported. Epochs pass every 8 µs; `qdone` is the highest epoch before that
of every access in flight, and frames leave quarantine once it has reached theirs. A debt of 8 is repaid. -/
def Sys2Proof.Claims.memoryEventsTakeEffect : Prop :=
  ∀ s, s.live →
    (∀ ctx ia kind e, ia < 2 ^ 48 → s.peerWin? ctx ia = none → s.entry? ia = some e → s.walkBad? ia = none →
      (e.absent = false → e.ctx = ctx →
        ∃ u, exec (.frameWalk ctx ia kind) s = .next u ∧ u.note = .done ∧ u.raw64 (physKey 0 e.addr) =
          (if kind = 1 then withHeats e (bf e.e0 46 45) (min 3 (bf e.e0 44 43 + 1))
           else withHeats e (min 3 (bf e.e0 46 45 + 1)) (bf e.e0 44 43))) ∧
      (e.absent = true → (∀ p ∈ s.episodes, p.page ≠ e.page ia) →
        exec (.frameWalk ctx ia kind) s =
          .next { idleNote s with episodes := s.episodes ++ [⟨e.page ia, ctx, walkMask kind, 1, s.dtime, false⟩] }) ∧
      (∀ p, e.absent = true → s.episodes = [p] → p.page = e.page ia →
        exec (.frameWalk ctx ia kind) s = .next { idleNote s with episodes := [if p.sent then p else
          { p with mask := p.mask ||| walkMask kind, count := min 65535 (p.count + 1) }] })) ∧
    (s.dtime < 1000000 * (s.sweeps + 1) → exec .heatSweep s = .next (idleNote s)) ∧
    (∀ a e, s.pages = [(a, e)] → 1000000 * (s.sweeps + 1) ≤ s.dtime →
      ∃ u, exec .heatSweep s = .next u ∧ u.note = .done ∧ u.sweeps = s.sweeps + 1 ∧
        (bf e.e0 46 45 = 0 → bf e.e0 44 43 = 0 → u.cold.get 0 a = s.cold.get 0 a + 1 ∧ u.mem = s.mem) ∧
        (¬ (bf e.e0 46 45 = 0 ∧ bf e.e0 44 43 = 0) → u.cold.get 0 a = 0 ∧
          u.raw64 (physKey 0 e.addr) = withHeats e (bf e.e0 46 45 - 1) (bf e.e0 44 43 - 1))) ∧
    (∀ ia tier frame e, s.entry? ia = some e →
      s.movable e tier (frame * 65536) = false ∨ s.wantsMove ia e tier s.fresh = false →
      exec (.tierMove ia tier frame) s = .next { idleNote s with fresh := s.fresh + 1 }) ∧
    (∀ ia tier frame e, s.entry? ia = some e → s.movable e tier (frame * 65536) = true → s.wantsMove ia e tier s.fresh = true → s.pend = [] →
      ∃ u, exec (.tierMove ia tier frame) s = .next u ∧ u.note = .done ∧ u.raw64 (physKey 0 e.addr) = setBf e.e0 61 60 tier ∧
        bf (u.raw64 (physKey 0 (e.addr + 8))) 63 28 = frame % 2 ^ 36 ∧
        (bit e.e0 53 = false → u.quar = s.quar ++ [⟨e.tier, e.frame, e.big, s.qepoch⟩]) ∧
        (s.badIn (physKey e.tier e.frame) e.size = false → s.episodes = [] → ownKey s e ia → ∀ j, j < e.size →
          (physKey tier (65536 * frame) + j < physKey 0 e.addr ∨ physKey 0 e.addr + 16 ≤ physKey tier (65536 * frame) + j) →
          u.mem.get 0 (physKey tier (65536 * frame) + j) = s.mem.get 0 (physKey e.tier e.frame + j))) ∧
    (∀ ia e tier f, (∀ h, s.hinted e.ctx (e.page ia) e.size h = false) →
      (tier < e.tier → (s.wantsMove ia e tier f = true ↔ bf e.e0 46 45 = 3 ∨ bf e.e0 44 43 = 3)) ∧
      (e.tier < tier → tier ≠ 2 → (s.wantsMove ia e tier f = true ↔
        tier = e.tier + 1 ∧ 2 ≤ s.cold.get 0 (e.page ia) ∧ s.fewFree e.tier f = true)) ∧
      (e.tier < 2 → s.wantsMove ia e 2 f = true)) ∧
    (∀ ctx lva idx c t d, (s.coreAt c).task = some t → t.ctx = ctx → t.lva = lva → t.w (26 + 2 * idx) ≠ 0 →
      idx < 3 → d < 12 → rangeContradicts (bf (t.w (26 + 2 * idx)) 35 32) (s.ranges.get (0, 0, 0, 0) (16 * (3 * t.launch + idx) + d)) →
      exec (.hintrepReport ctx lva idx) s =
        .next ((idleNote s).setSr ctx 197 (BitVec.ofNat 64 (2 ^ 63 + idx * 2 ^ 56 + lva % 2 ^ 56)))) ∧
    (∀ ctx lva idx, (∀ k, (s.ranges.get (0, 0, 0, 0) k).1 < 4096) → exec (.hintrepReport ctx lva idx) s = .next (idleNote s)) ∧
    exec .quiescenceEpoch s = .next (if 8000 * s.qepoch ≤ s.dtime then { idleNote s with qepoch := s.qepoch + 1 } else idleNote s) ∧
    (0 < s.qepoch → (∀ p ∈ s.pend, 0 < p.epoch) →
      ∀ n, n ≤ s.qdone ↔ n < s.qepoch ∧ ∀ p ∈ s.pend, n < p.epoch) ∧
    (∀ pre q post, s.quar = pre ++ q :: post → (∀ x ∈ pre, x.tier ≠ q.tier) →
      exec (.quarantineRelease q.tier) s = .next (if q.epoch ≤ s.qdone then { idleNote s with quar := pre ++ post } else idleNote s)) ∧
    ∀ d, exec (.refreshDebtRepayment d) s = .next (if s.debt.get 0 d = 8 then { idleNote s with debt := s.debt.set 0 d 0 } else idleNote s)


/-- The state as a request or a register write from outside finds it: the device is in W0, and where it was not it has sent a latency of
0 (R371). -/
def Sys2Proof.Claims.visited (s : State) : State :=
  { s with note := .done, lastReq := s.dtime, tier := 0, ltr := if s.tier = 0 then s.ltr else some 0 }

/-- A function of the device (R362): the physical one, or a virtual one that the host has enabled. -/
def Sys2Proof.Claims.isFunction (s : State) (f : Nat) : Prop := f < 64 ∧ f ≤ s.numVfs

/-- A request of n bytes at a virtual address stays in one 4 KiB piece, and is single-copy atomic or finds no store waiting (R263). -/
def Sys2Proof.Claims.onePiece (s : State) (va n : Nat) : Prop := va % 4096 + n ≤ 4096 ∧ (oneAccess va n = true ∨ s.pend = [])

/-- R368, R369, R278: a host read or write, and a peer's, of plain memory completes: the write's bytes and a peer atomic's result are in
memory, and a read changes no memory. A request of a peer that `pcfg` does not name is a violation, which the log records.
Choices of the model: log entries 13, 23, 26, 65, 90. -/
def Obligations.OutsideRequestsComplete : Prop :=
  (∀ s f o n ia e k, s.halted = false → isFunction s f → o + n ≤ 2 ^ 36 → onePiece s (s.bar2 f o) n →
    (Plain s (s.hostReq f) (s.bar2 f o) n { r := true } ia e k →
      ∃ g r, exec (.hostRead f o n) s = .next (counted (visited s) g r)) ∧
    ∀ bs, bs.length = n → Plain s (s.hostReq f) (s.bar2 f o) n { w := true } ia e k → noSlots s f →
      ∃ u, exec (.hostWrite f o bs) s = .next u ∧ u.note = .done ∧ u.lastReq = s.dtime ∧ u.tier = 0 ∧ stored s u k bs) ∧
  (∀ s p f va n ia e k, s.halted = false → p < 8 → isFunction s f → bit (s.sr f 389) p = true → onePiece s va n →
    (Plain s (s.peerReq p f) va n { r := true } ia e k →
      ∃ g r, exec (.peerRequest p f va (.rd n)) s = .next (counted (visited s) g r)) ∧
    (∀ bs, bs.length = n → Plain s (s.peerReq p f) va n { w := true } ia e k → noSlots s f →
      ∃ u, exec (.peerRequest p f va (.wr bs)) s = .next u ∧ u.note = .done ∧ u.lastReq = s.dtime ∧ stored s u k bs) ∧
    ∀ op w x y, op ≤ 12 → va % 4 = 0 → n = (if w = 0 ∧ op < 10 then 8 else 4) →
      Plain s (s.peerReq p f) va n { r := true, w := true } ia e k → noSlots s f →
      ∃ u, exec (.peerRequest p f va (.amo op w x y)) s = .next u ∧ u.note = .done ∧
        stored s u k (leBytes n (atomicResult op (8 * n) (leNat (s.mem.bytes k n)) (x.toNat % 2 ^ (8 * n)) (y.toNat % 2 ^ (8 * n))))) ∧
  ∀ s p f va r, s.halted = false → p < 8 → isFunction s f → bit (s.sr f 389) p = false → bit (s.sr f 390) 63 = false →
    ∃ u, exec (.peerRequest p f va r) s = .next u ∧ u.note = .done ∧ bit (u.sr f 390) 63 = true ∧ bf (u.sr f 390) 55 53 = 4 ∧
      bf (u.sr f 390) 52 44 = p

/-- R365, R367, R370, R214, R318: what the host driver does through its registers takes effect. A register that stores its value stores
the bits its table gives it. A key slot that no page names is loaded with `kdata`, which is cleared, or unloaded. A frame joins the pool
of `ctxsel`, but for one in quarantine. `lfreq` gives a polder page its late frame. A queue word that breaks no check is stored. The clears clear. -/
def Sys2Proof.Claims.hostRegisterWritesTakeEffect : Prop :=
  ∀ s,
    (∀ f off v, isFunction s f → (s.halted = true → f = 0) → off < 0x1000 → fnMask off ≠ 0 →
      exec (.registerWrite f off v) s = .next ((visited s).setFr f off (BitVec.ofNat 64 v &&& BitVec.ofNat 64 (fnMask off)))) ∧
    (∀ off v, 0x1000 ≤ off → mgMask off ≠ 0 → off ≠ 0x1098 → mgBad off (BitVec.ofNat 64 v) = false →
      exec (.registerWrite 0 off v) s = .next ((visited s).setMg off (BitVec.ofNat 64 v &&& BitVec.ofNat 64 (mgMask off)))) ∧
    (∀ owner slot, owner < 64 → slot < 64 → s.keyUses slot = 0 →
      (∃ u, exec (.kslotLoad owner slot) s = .next u ∧ u.note = .done ∧
        u.kslots.get {} slot = ⟨true, owner, BitVec.ofNat 512 (packFields 64 ((List.range 8).map fun i => (s.mgr (0x1018 + 8 * i)).toNat))⟩ ∧
        (∀ i, i < 8 → u.mgr (0x1018 + 8 * i) = 0) ∧ ∀ n, n ≠ slot → u.kslots.get {} n = s.kslots.get {} n) ∧
      exec (.kslotUnload slot) s = .next { visited s with kslots := s.kslots.set {} slot {} }) ∧
    (∀ frame kind, kind < 4 → s.inQuarantine (poolTier kind) (frame % 2 ^ 36 * 65536) (poolSize kind) = true →
      ∃ u, exec (.lfpush frame kind) s = .next u ∧ u.note = .done ∧ u.ctxs = s.ctxs ∧ u.mgr 0x1008 ≠ 0) ∧
    (∀ frame kind, kind < 4 → ((s.ctxAt s.ctxSel).lf.get [] kind).length < 65535 →
      s.inQuarantine (poolTier kind) (frame % 2 ^ 36 * 65536) (poolSize kind) = false →
      ∃ u, exec (.lfpush frame kind) s = .next u ∧ u.note = .done ∧
        (u.ctxAt s.ctxSel).lf.get [] kind = (s.ctxAt s.ctxSel).lf.get [] kind ++ [frame % 2 ^ 36 * 65536]) ∧
    (∀ ia e p f fs, s.reduced = false → s.entry? ia = some e → e.v = true → e.isPolder = true → e.ctx = s.ctxSel → s.poolFor e false = some p →
      (s.ctxAt e.ctx).lf.get [] p = f :: fs → s.pend = [] →
      ∃ u, exec (.lfreq ia) s = .next u ∧ u.note = .done ∧ (u.ctxAt e.ctx).lf.get [] p = fs ∧
        u.raw64 (physKey 0 e.addr) = setBf (setBf e.e0 61 60 (if p < 2 then 0 else 1)) 57 57 0 ∧
        u.raw64 (physKey 0 (e.addr + 8)) = setBf e.e1 63 28 (f / 65536)) ∧
    (∀ q w, q < 256 → s.pendOf q = 0 →
      ((List.range 64).map fun i => if 64 * (q / 64) + i = q then 0 else bf (s.mgr (0x1300 + 8 * (64 * (q / 64) + i))) 47 41).sum +
        bf (BitVec.ofNat 64 w) 47 41 ≤ 80 →
      exec (.taskQueueWordWrite q w) s = .next ((visited s).setMg (0x1300 + 8 * q) (BitVec.ofNat 64 w &&& BitVec.ofNat 64 queueMask))) ∧
    exec .mgerrClear s = .next ((visited s).setMg 0x1008 0) ∧
    ∀ f, isFunction s f → (s.halted = true → f = 0) → exec (.lostClear f) s = .next ((visited s).setFr f 0x68 0)

/-- A change of the entry e to the words of n breaks a constraint (R207, R223, R365, Table 8.3): `ord` 3, a polder page outside tier 3, a
page with `cc` that is not a pinned 2 MiB page of HBM, an override above 11, a reserved bit, a key slot that is not loaded or not its context's; the change of a valid polder page's `pol`, tier or frame, even where it clears `v`; a frame that is in quarantine. -/
def Sys2Proof.Claims.breaksTable (s : State) (e n : Entry) : Prop :=
  n.ord = 3 ∨ (n.pol = true ∧ n.tier ≠ 3) ∨ (n.cc = true ∧ ¬ (n.big = true ∧ n.tier = 0 ∧ n.pin = true)) ∨ 11 < n.ovr ∨
  bf n.e0 31 0 ≠ 0 ∨ bf n.e1 27 21 ≠ 0 ∨
  (s.kslots.get {} n.key).loaded = false ∨ (s.kslots.get {} n.key).owner ≠ n.ctx ∨
  (e.v = true ∧ e.isPolder = true ∧ (n.isPolder = false ∨ n.frame ≠ e.frame)) ∨
  (n.v = true ∧ n.tier < 3 ∧ (e.v = false ∨ e.tier ≠ n.tier ∨ e.frame ≠ n.frame ∨ e.big ≠ n.big) ∧
    s.inQuarantine n.tier n.frame n.size = true)

/-- R207, R223, Table 8.3: a change of a frame-table entry that breaks no constraint is stored, but for the fields that only the device
writes while the page stays valid; one that breaks a constraint is rejected: no byte of memory changes, and `mgerr` is not zero. -/
def Sys2Proof.Claims.frameTableUpdatesAreStored : Prop :=
  ∀ s ia w0 w1 e, ia < 2 ^ 48 → s.slotFor ia (bit w0 62) = some e →
    let n : Entry := ⟨e.addr, (keepDevice e w0 w1).1, (keepDevice e w0 w1).2⟩
    (breaksTable s e n → ∃ u, exec (.frameTableUpdate ia w0.toNat w1.toNat) s = .next u ∧ u.note = .done ∧ u.mem = s.mem ∧
      u.mgr 0x1008 ≠ 0) ∧
    (¬ breaksTable s e n → s.pend = [] → s.quarLen e.tier < 65536 →
    ∃ u, exec (.frameTableUpdate ia w0.toNat w1.toNat) s = .next u ∧ u.note = .done ∧
      u.raw64 (physKey 0 e.addr) = (keepDevice e w0 w1).1 ∧ u.raw64 (physKey 0 (e.addr + 8)) = (keepDevice e w0 w1).2)

/-- The request by which the host or a task of context ctx writes one of its special registers. -/
def Sys2Proof.Claims.wroteSr (s : State) (ctx n : Nat) (v : Word) : State := (idleNote s).setSr ctx n (v &&& BitVec.ofNat 64 (srMask n))

/-- R37, R87, R91, R167, R171, R201, R210, R217, R220, R298, R341, R364, R366, R379, R384, R389: the special registers with an effect of their
own. Each write that passes its checks stores the value or carries out its request; each clearing write clears.
Choices of the model: log entries 50, 48 (what `pmreq` holds), 41, 40. Of `bfmt` it states the formats without scales alone. -/
def Obligations.ControlRegisterWritesTakeEffect : Prop :=
  ∀ s ctx v, s.live →
    (∀ n, exec (.windowWrite ctx n v) s = .next (wroteSr s ctx (256 + n % 64) (BitVec.ofNat 64 v))) ∧
    (∀ n, s.slotsUsed ctx = 0 → exec (.stbaseWrite ctx n v) s = .next (wroteSr s ctx (320 + n % 3) (BitVec.ofNat 64 v))) ∧
    ((bit (BitVec.ofNat 64 v) 0 = true → s.areaOk ctx (bf (BitVec.ofNat 64 v) 55 19 * 2 ^ 19) (bf (BitVec.ofNat 64 v) 55 19 * 2 ^ 19 + 331776) 82 = true) →
      exec (.trbaseWrite ctx v) s = .next (wroteSr s ctx 128 (BitVec.ofNat 64 v))) ∧
    (∀ n, s.othersLive { ctx := ctx } = false →
      (n % 2 = 0 → bit (BitVec.ofNat 64 v) 0 = true → s.areaOk ctx (bf (BitVec.ofNat 64 v) 55 21 * 2 ^ 21)
        (bf (BitVec.ofNat 64 v) 55 21 * 2 ^ 21 + 320 * s.saveStride ctx) (320 * s.saveStride ctx / 4096 + 1) = true) →
      exec (.svbaseWrite ctx n v) s = .next (wroteSr s ctx (132 + n % 2) (BitVec.ofNat 64 v))) ∧
    (let q := bf (BitVec.ofNat 64 v) 7 0
     bit (s.queueWord q) 63 = true → bf (s.queueWord q) 55 50 = ctx →
      exec (.tqselWrite ctx v) s = .next ((idleNote s).setSr ctx 395 (BitVec.ofNat 64 q))) ∧
    (let u := bf (BitVec.ofNat 64 v) 11 0
     s.dikeOk ctx u (bf (s.sr ctx 192) 43 32) = true →
      exec (.dikeWrite ctx v) s = .next ((idleNote s).setSr ctx 192 (setBf (s.sr ctx 192) 11 0 u))) ∧
    (∀ e, s.ftEntry? ctx = some e → s.pend = [] → v < 16 → v % 4 ≠ 3 → (v.testBit 2 = true → e.tier = 3) →
      (v.testBit 2 = false → e.isPolder = false) →
      ∃ u, exec (.ftopWrite ctx v) s = .next u ∧ u.note = .done ∧
        u.raw64 (physKey 0 e.addr) = setBf (setBf (setBf e.e0 59 58 (v % 4)) 57 57 (v / 4 % 2)) 56 56 (v / 8 % 2)) ∧
    (∀ c n t, (s.coreAt c).task = some t → v < 64 → fmtOk v = true → isCont v = false → (cFmtOf v).scaled = false →
      131072 * (n % 24) < t.spadBytes →
      exec (.bfmtWrite c n v) s = .next ((idleNote s).setCore c { s.coreAt c with bfmt := (s.coreAt c).bfmt.set 8 (n % 24) (BitVec.ofNat 64 v) })) ∧
    (let c := bf (BitVec.ofNat 64 v) 8 0
     ((s.coreAt c).task = none ∨ 319 < c →
      ∃ u, exec (.pmreqWrite ctx v) s = .next u ∧ u.sr ctx 135 = 2 ∧ u.sr ctx 134 = BitVec.ofNat 64 c ∧ u.cores = s.cores) ∧
     ∀ t, (s.coreAt c).task = some t → c < 320 → t.ctx = ctx → t.gang = none → t.inRegion = true → (s.coreAt c).frozen = none →
      ((s.coreAt c).strmAt .a).st = .running → (∀ o ∈ s.pend, o.agent ≠ c) → (s.coreAt c).stLine = [] →
      ∃ u, exec (.pmreqWrite ctx v) s = .next u ∧ u.sr ctx 135 = 1 ∧ u.sr ctx 134 = BitVec.ofNat 64 c ∧ (u.coreAt c).task = none ∧
        u.requeued = s.requeued ++ [{ task := t }]) ∧
    (let c := bf (BitVec.ofNat 64 v) 40 32
     let n := bf (BitVec.ofNat 64 v) 57 48 + 1
     let runs := (s.coreAt c).freeRuns (bf (BitVec.ofNat 64 v) 61 59) n
     bf (BitVec.ofNat 64 v) 61 59 ≤ 4 → c < 320 → bit (s.sr ctx 384) (c / 8) = true →
      s.rowsHeld ctx + 8 * n ≤ bf (s.sr ctx 385) 23 0 → runs ≠ [] → (s.coreAt c).freeEntries ≠ [] →
      (∀ e, ((s.coreAt c).region e).gen < 65536) →
      ∃ u h r run, exec (.regionCreate ctx v) s = .next u ∧ u.sr ctx 393 = BitVec.ofNat 64 h ∧ hCore h = c ∧
        hEnt h ∈ (s.coreAt c).freeEntries ∧ run ∈ runs ∧ (u.coreAt c).region (hEnt h) = r ∧ r.v = true ∧ r.ctx = ctx ∧
        (r.arr, r.first) = run ∧ r.rows = 8 * n ∧ r.gen = nextGen ((s.coreAt c).region (hEnt h)).gen ∧ r.bind = 0 ∧ r.rcnt = 0 ∧
        ∀ i, i < r.rows → (u.coreAt c).rows.get 0 (r.base + i) = 0) ∧
    (let h := bf (BitVec.ofNat 64 v) 31 0
     ∀ r, bf (BitVec.ofNat 64 v) 61 59 ≤ 4 → (s.coreAt (hCore h)).regionOf? (hCore h) ctx h = some r →
      exec (.regionRelease ctx v) s =
        .next ((idleNote s).setCore (hCore h) ((s.coreAt (hCore h)).setRegion (hEnt h) { r with v := false })) ∧
      (bindV (s.sr ctx 394) = false → exec (.regionBind ctx v) s =
        .next ((idleNote s).setCore (hCore h) ((s.coreAt (hCore h)).setRegion (hEnt h) { r with bind := s.sr ctx 394 }))) ∧
      ∀ e, bindV (s.sr ctx 394) = true → 6 ≤ bindCap (s.sr ctx 394) → bindUnit (s.sr ctx 394) ≤ 47 → s.storeOk (s.sr ctx 394) = true →
        s.entry? (bindBase (s.sr ctx 394)) = some e → e.ctx = ctx →
        (Config.hbmStack (e.frame + bindBase (s.sr ctx 394) % e.size)).val = bindUnit (s.sr ctx 394) / 4 →
        exec (.regionBind ctx v) s =
          .next ((idleNote s).setCore (hCore h) ((s.coreAt (hCore h)).setRegion (hEnt h) { r with bind := s.sr ctx 394 }))) ∧
    (∀ c, exec (.evtotClear ctx c) s = .next ((idleNote s).setSr ctx (104 + c % 6) 0)) ∧
    exec (.replcClear ctx) s = .next ((idleNote s).setSr ctx 121 0) ∧
    exec (.hintrepClear ctx) s = .next ((idleNote s).setSr ctx 197 0) ∧
    exec (.mclogClear ctx) s = .next (((idleNote s).setSr ctx 136 0).setSr ctx 137 0) ∧
    exec (.vlogClear ctx) s = .next (((idleNote s).setSr ctx 390 0).setSr ctx 391 0) ∧
    exec (.zslogClear ctx) s = .next ((((idleNote s).setSr ctx 184 0).setSr ctx 185 0).setSr ctx 186 0)


/-- A free core may take the next task of a launch (R4, R30, R321, R385): it lies in a segment of the context's quota, in reduced service on
die 0, and the context's save area, where it is set up, has room for the task. -/
def Sys2Proof.Claims.coreFits (s : State) (l : Launch) (c : Nat) : Prop :=
  let t := l.task l.next none
  (s.coreAt c).task = none ∧ bit (s.sr t.ctx 384) (c / 8) = true ∧ (s.reduced = true → c < 80) ∧
  (bit (s.sr t.ctx 132) 0 = true → 1652 * 1024 + 4096 * t.nvreg + t.spadPlaced ≤ bf (s.sr t.ctx 133) 7 0 * 2 ^ 21)

/-- The cores of segment g that the next task of a launch fits. -/
def Sys2Proof.Claims.fitting (s : State) (l : Launch) (g : Nat) : Set Nat := { c | c / 8 = g ∧ coreFits s l c }

/-- The core is the one that the rules of placement give (R321, R23): of its segment the lowest-numbered that fits; for the first task of an
affinity group, in the segment with the most that fit, of equal ones the lowest; for a later one, in the group's segment where a core of it
fits, else in the lowest where one does. -/
def Sys2Proof.Claims.placedOn (s : State) (die : Nat) (l : Launch) (c : Nat) : Prop :=
  c / 80 = die ∧ coreFits s l c ∧ (∀ x ∈ fitting s l (c / 8), c ≤ x) ∧
  (recAffin l.lrec ≠ 0 →
    (l.next % recGroup l.lrec = 0 → ∀ g, g / 10 = die → (fitting s l g).ncard < (fitting s l (c / 8)).ncard ∨
      ((fitting s l g).ncard = (fitting s l (c / 8)).ncard ∧ c / 8 ≤ g)) ∧
    (l.next % recGroup l.lrec ≠ 0 →
      (l.seg / 10 = die → (fitting s l l.seg).Nonempty → c / 8 = l.seg) ∧
      (l.seg / 10 ≠ die ∨ fitting s l l.seg = ∅ → ∀ x, x / 80 = die → coreFits s l x → c / 8 ≤ x / 8)))

/-- What a task finds at its first clk on core c (R31). That its generators stand at their seeds is that none has drawn yet. -/
structure Sys2Proof.Claims.FirstClk (x : Core) (c : Nat) (t : Task) : Prop where
  scalars : ∀ n, x.s.get 0 n = if n = 1 then t.wid else if n = 2 then BitVec.ofNat 64 t.lva
    else if n = 3 then BitVec.ofNat 64 (c + 65536 * (c / 8)) else 0
  copies : ∀ i n, i < 4 → n < 32 → x.k.get 0 (32 * i + n) = if n = 1 then t.wid else 0
  keys : ∀ n, x.z.y.get 0 n = if n = 1 then t.wid.truncate 32 else 0
  zk : x.z.zk = 0 ∧ x.z.latch = none ∧ x.z.spb = false
  constants : ∀ n, x.cb.get 0 n = 0
  lanes : (∀ n l, Sparse.get 0 (x.v.get [] n) l = 0) ∧ ∀ n, x.p.get 0 n = 0
  loops : (∀ n, x.lc.get 0 n = 0) ∧ (∀ n, x.loops.get [] n = []) ∧ ∀ n, x.reps.get none n = none
  sync : x.sb = 0
  queues : x.q = {}
  tiles : ∀ n, x.mx.tst.get .empty n = .empty
  banks : x.mx.held = 0
  regions : (∀ a, x.z.act.get 0 a = 0) ∧ ∀ n, x.z.tags.get 0 n = 0
  joined : x.forked = false
  scratchpad : (∀ j, x.spad.get 0 j = 0) ∧ ∀ n, x.arr.get 0 n = 0
  stash : x.stash = []
  generators : ∀ l, x.gens.get 0 l = 0

/-- A stream's record as a task begins (R29): it runs from the address that the launch record gives it, or is absent where that is 0. -/
def Sys2Proof.Claims.begins (a : Word) : StrmRec := if a = 0 then {} else { st := .running, pc := a }

/-- A launch that the dispatcher of a die finds alone, and a core that it fits (R320, R321): ready, without barriers or a slot's deadline
to consume; the other queues' reservations stand, and no core is held for another candidate. -/
structure Sys2Proof.Claims.Dispatchable (s : State) (die : Nat) (l : Launch) : Prop where
  service : die < 4 ∧ s.live ∧ (s.reduced = true → die = 0)
  known : s.launches.find? (fun x => decide (x.id = l.id)) = some l
  plain : recNbar l.lrec = 0 ∧ (bit (l.lrec.get 0 4) 19 = false ∨ l.next ≠ 0 ∨ l.slot = none)
  alone : s.cands die = [s.cand (l.task l.next none) (.fresh l.id 1)]
  reserved : s.reserveOk die (bf (l.lrec.get 0 4) 11 4) 1 = true
  holds : ∀ d, s.hold.get none d = none ∨ s.hold.get none d = some (l.id, taskId l.lrec l.next)
  fits : ∃ c, c / 80 = die ∧ coreFits s l c

/-- A launch with a deadline condition and its dependence words holds at the present time (R26). -/
def Sys2Proof.Claims.mayBeReady (s : State) (l : Launch) : Prop :=
  l.ready = none ∧ l.sat = true ∧ (bit (l.lrec.get 0 4) 19 = false ∨ (l.lrec.get 0 13).toNat ≤ s.dtime)

/-- R319, R320, R321, R31, R26: a launch becomes ready when its condition holds, at a deadline too. A dispatcher that finds one launch alone
starts its next task on the core of the die that the placement gives: its visible state as R31 has it, its streams at the record's
addresses; the launch leaves its queue with its last task. -/
def Sys2Proof.Claims.launchesBecomeTasks : Prop :=
  (∀ s pre l post, s.live → s.launches = pre ++ l :: post → (∀ x ∈ pre ++ post, x.id ≠ l.id) → mayBeReady s l →
    exec (.launchReady l.id) s =
      .next { idleNote s with launches := pre ++ { l with ready := some s.dtime, deps := [] } :: post } ∧
    (bit (l.lrec.get 0 4) 19 = true → exec (.deadlineReached l.id) s =
      .next { idleNote s with launches := pre ++ { l with ready := some s.dtime, deps := [] } :: post })) ∧
  ∀ s die l, Dispatchable s die l →
    ∃ u c t, exec (.dispatch die) s = .next u ∧ u.note = .done ∧ placedOn s die l c ∧
      (u.coreAt c).task = some t ∧ t.wid = taskId l.lrec l.next ∧ t.lva = l.lva ∧ t.lrec = l.lrec ∧ t.launch = l.id ∧
      (u.coreAt c).frozen = none ∧ FirstClk (u.coreAt c) c t ∧ (u.coreAt c).strmAt .a = begins (l.lrec.get 0 0) ∧
      (u.coreAt c).strmAt .x = begins (l.lrec.get 0 1) ∧ (u.coreAt c).strmAt .z = begins (l.lrec.get 0 2) ∧
      u.dctr.get 0 die = s.dctr.get 0 die + 1 ∧
      (recTasks l.lrec ≤ l.next + 1 → ∀ x ∈ u.launches, x.id ≠ l.id) ∧
      (l.next + 1 < recTasks l.lrec → u.launches.find? (fun x => decide (x.id = l.id)) =
        some { l with next := l.next + 1, seg := if recAffin l.lrec ≠ 0 ∧ l.next % recGroup l.lrec = 0 then c / 8 else l.seg })

/-- The core took an exception raised against it or at a stream's end (R375): frozen so, the record due, its code as given. -/
def Sys2Proof.Claims.frozenWith (u : State) (c : Nat) (how : Frz) (code : Nat) : Prop :=
  (u.coreAt c).frozen = some how ∧ (u.coreAt c).rcdDue = true ∧ bf ((u.coreAt c).rcd.get 0 0) 7 0 = code

/-- R32, R20, R324: a task whose streams have all ended, with nothing outstanding and no completion add, leaves its core, and the entries
left in its queues are counted; with banks still held it takes 0x0C at the last `end`. After 4,096 clk of blocked streams the core
takes 0x0B; before, nothing happens.
Choices of the model: log entries 6, 11. -/
def Obligations.TasksEndOrDeadlock : Prop :=
  ∀ s c t, s.live → (s.coreAt c).task = some t →
    (s.canEnd c = true → (s.coreAt c).mx.held = 0 → t.w 22 = 0 → t.gang = none → Settled s c →
      ∃ u, exec (.taskEnd c) s = .next u ∧ u.note = .done ∧ (u.coreAt c).task = none ∧ (u.coreAt c).regs = (s.coreAt c).regs ∧
        (u.coreAt c).rows = (s.coreAt c).rows ∧ (u.coreAt c).spad = (s.coreAt c).spad ∧ (u.coreAt c).arr = (s.coreAt c).arr ∧ (u.coreAt c).leftq.get 0 t.ctx =
          BitVec.ofNat 64 (min (((s.coreAt c).leftq.get 0 t.ctx).toNat + (s.coreAt c).q.total) (2 ^ 64 - 1))) ∧
    (s.canEnd c = true → (s.coreAt c).mx.held ≠ 0 → Still s c → (s.coreAt c).lastEnd < 7 →
      ∃ u, exec (.taskEnd c) s = .next u ∧ frozenWith u c (.strm (s.coreAt c).lastEnd 0x0C) 0x0C) ∧
    (Still s c → 4096 ≤ (s.coreAt c).dead →
      ∃ u, exec (.streamDeadlock c) s = .next u ∧ frozenWith u c (.core 0x0B) 0x0B ∧ bf ((u.coreAt c).rcd.get 0 0) 10 8 = 7) ∧
    ((s.coreAt c).dead < 4096 → exec (.streamDeadlock c) s = .next (idleNote s))

/-- A save image of n bytes at a virtual address lies in plain memory for a request with the permissions p (R385): byte o at key k o of memory,
no two at one, clear of the frame tables' words for any of them (R206). -/
structure Sys2Proof.Claims.ImageAt (s : State) (q : Req) (at_ n : Nat) (p : Perm) (k : Nat → Nat) : Prop where
  plain : ∀ o m, 0 < m → o % 4096 + m ≤ 4096 → o + m ≤ n → ∃ ia e, Plain s q (at_ + o) m p ia e (k o) ∧
    ∀ o', o' < n → ∀ x ∈ tableWords s ia, k o' < x ∨ x + 8 ≤ k o'
  run : ∀ o j, o % 4096 + j < 4096 → k (o + j) = k o + j
  apart : ∀ o o', o < n → o' < n → k o = k o' → o = o'

/-- The two cores agree in what a save image holds of a task, but for its wait of a `waitw`, its arrays' tags, its tiles' states and its
engine slots (Table 15.7). -/
def Sys2Proof.Claims.sameImage (x y : Core) : Prop :=
  x.s = y.s ∧ x.k = y.k ∧ x.lc = y.lc ∧ x.strm = y.strm ∧ x.forked = y.forked ∧ x.cpg = y.cpg ∧ x.cb = y.cb ∧ x.v = y.v ∧ x.p = y.p ∧
  x.loops = y.loops ∧ x.reps = y.reps ∧ x.sb = y.sb ∧ x.nmode = y.nmode ∧ x.bfmt = y.bfmt ∧ x.gens = y.gens ∧ x.spad = y.spad ∧
  x.stash = y.stash ∧ x.q = y.q ∧ x.arr = y.arr ∧ x.z.y = y.z.y ∧ x.z.zk = y.z.zk ∧ x.z.latch = y.z.latch ∧ x.z.spb = y.z.spb ∧
  x.mx.tile = y.mx.tile ∧ x.mx.tsc = y.mx.tsc ∧ x.mx.wbuf = y.mx.wbuf ∧ x.mx.acc = y.mx.acc ∧ x.mx.held = y.mx.held ∧ x.mx.mq = y.mx.mq

/-- A task alone on core c, outside a replayable region and with nothing in flight, whose context has a save area (R384). -/
structure Sys2Proof.Claims.Savable (s : State) (c : Nat) (t : Task) : Prop where
  live : s.live
  core : c < 320
  task : (s.coreAt c).task = some t
  alone : t.gang = none
  region : t.inRegion = false
  runs : ((s.coreAt c).strmAt .a).st = .running
  area : bit (s.sr t.ctx 132) 0 = true
  still : Still s c
  settled : Settled s c
  quiet : s.pend = [] ∧ (s.coreAt c).mx.wait = []
  slots : noSlots s t.ctx

/-- The save of core c was abandoned (R386): the task stands frozen with 0x11 and `strm` 7, the fault met in Q7 bits 15:8, and `res` is 3. -/
def Sys2Proof.Claims.saveFailed (s u : State) (c : Nat) (t : Task) (code : Nat) : Prop :=
  u.sr t.ctx 135 = 3 ∧ frozenWith u c .save 0x11 ∧ bf ((u.coreAt c).rcd.get 0 0) 10 8 = 7 ∧
  (u.coreAt c).rcd.get 0 7 = BitVec.ofNat 64 (256 * code) ∧ (u.coreAt c).task = some t ∧ sameImage (u.coreAt c) (s.coreAt c) ∧
  u.saved = s.saved

/-- R384, R385, R386: a request for a task that is alone, outside a region and has nothing in flight, whose image lies in plain memory, saves
it and frees its core: the commit word with the core's next save number, the work
identifier, the image's size and a record with `code` 0 stand in its image, and no other byte of memory changes; the task, with its
state, is kept for its core. A save is abandoned that meets a fault of its commit word, the end of its stride, or an uncorrectable
error of a declared vector register or of the declared scratchpad; then the commit word is zero.
Choices of the model: log entries 37, 38. -/
def Sys2Proof.Claims.tasksAreSaved : Prop :=
  ∀ s v t, let c := bf (BitVec.ofNat 64 v) 8 0
    Savable s c t →
    let q := { s.devReq c t.ctx with kind := 1 }
    let at_ := bf (s.sr t.ctx 132) 55 21 * 2 ^ 21 + c * (bf (s.sr t.ctx 133) 7 0 * 2 ^ 21)
    let size := 1652 * 1024 + 4096 * t.nvreg + t.spadPlaced
    (∀ k, ImageAt s q at_ size { w := true } k → size ≤ bf (s.sr t.ctx 133) 7 0 * 2 ^ 21 → (s.coreAt c).ecc = {} →
      (s.coreAt c).mx.tileBad = [] → (s.coreAt c).mx.tscBad = [] → (s.coreAt c).mx.wbBad = [] → (s.coreAt c).mx.accBad = [] →
      ∃ u w, exec (.pmreqWrite t.ctx v) s = .next u ∧ u.sr t.ctx 135 = 0 ∧ u.sr t.ctx 134 = BitVec.ofNat 64 c ∧ (u.coreAt c).task = none ∧
        u.saved = s.saved ++ [w] ∧ w.core = c ∧ w.task = t ∧ w.body.task = some t ∧ sameImage w.body (s.coreAt c) ∧
        u.raw64 (k 0) = BitVec.ofNat 64 (2 ^ 63 + ((s.coreAt c).saves + 1) % 2 ^ 32) ∧ u.raw64 (k 8) = t.wid ∧
        u.raw64 (k 16) = BitVec.ofNat 64 size ∧ bf (u.raw64 (k 1024)) 7 0 = 0 ∧ u.raw64 (k 1032) = t.wid ∧
        ∀ j, (∀ o, o < size → k o ≠ j) → u.mem.get 0 j = s.mem.get 0 j) ∧
    (∀ ia e k, Plain s q at_ 8 { w := true } ia e k →
      (bf (s.sr t.ctx 133) 7 0 * 2 ^ 21 < size ∧ (s.coreAt c).ecc = {} ∧ (s.coreAt c).mx.tileBad = [] ∧ (s.coreAt c).mx.tscBad = [] ∧
          (s.coreAt c).mx.wbBad = [] ∧ (s.coreAt c).mx.accBad = [] →
        ∃ u, exec (.pmreqWrite t.ctx v) s = .next u ∧ saveFailed s u c t 0 ∧ stored s u k (leBytes 8 0)) ∧
      ((∃ x ∈ (s.coreAt c).ecc.spad, x.1 < t.spadBytes) ∨ (∃ x ∈ (s.coreAt c).ecc.lane, x.1 < 1024 * t.nvreg) →
        ∃ u, exec (.pmreqWrite t.ctx v) s = .next u ∧ saveFailed s u c t 0x10 ∧ stored s u k (leBytes 8 0))) ∧
    ∀ code, s.translate? q at_ 8 { w := true } = .error code → code < 256 →
      ∃ u, exec (.pmreqWrite t.ctx v) s = .next u ∧ saveFailed s u c t code ∧ u.mem = s.mem

/-- A saved task that the dispatcher of a die finds alone, with its core free and fit for it (R384, R320, R321), and its image in plain
memory (R385). -/
structure Sys2Proof.Claims.Restorable (s : State) (die : Nat) (w : Saved) (k : Nat → Nat) : Prop where
  service : die < 4 ∧ s.live ∧ (s.reduced = true → die = 0 ∧ w.core < 80)
  alone : s.cands die = [s.cand w.task (.back [(w.task, some w.core, true)])]
  known : s.saved.find? (fun x => decide (x.task = w.task)) = some w
  body : w.body.task = some w.task
  free : w.core < 320 ∧ (s.coreAt w.core).task = none ∧ bit (s.sr w.task.ctx 384) (w.core / 8) = true
  size : 1652 * 1024 + 4096 * w.task.nvreg + w.task.spadPlaced ≤ bf (s.sr w.task.ctx 133) 7 0 * 2 ^ 21
  reserved : s.reserveOk die (bf (w.task.w 4) 11 4) (if w.core / 80 = die then 1 else 0) = true
  holds : ∀ d, s.hold.get none d = none ∨ s.hold.get none d = some (w.task.launch, w.task.wid)
  image : ImageAt s { s.devReq w.core w.task.ctx with kind := 1 }
    (bf (s.sr w.task.ctx 132) 55 21 * 2 ^ 21 + w.core * (bf (s.sr w.task.ctx 133) 7 0 * 2 ^ 21))
    (1652 * 1024 + 4096 * w.task.nvreg + w.task.spadPlaced) { r := true, w := true } k
  quiet : s.pend = []
  slots : noSlots s w.task.ctx

/-- R387: a saved task whose image lies in plain memory, found alone by the dispatcher, goes on, on its own core, with the state of its save where the commit word has `v` = 1
and the identifier, the checksum and the bytes from 4 KiB on are those of the save; the commit word becomes zero. Without the `v`, or
with another identifier, the core freezes with 0x11, Q7 bit 0 set, and the save stands for another try.
Choices of the model: log entries 37, 38. -/
def Sys2Proof.Claims.tasksAreRestored : Prop :=
  ∀ s die w k, Restorable s die w k →
    (2 ^ 63 ≤ (s.raw64 (k 0)).toNat → s.raw64 (k 8) = w.task.wid → s.raw64 (k 24) = Config.freeWord w.fill →
      (∀ i, i < 1648 * 1024 + 4096 * w.task.nvreg + w.task.spadPlaced → s.mem.get 0 (k (4096 + i)) = fillByte w.fill i) →
      ∃ u, exec (.dispatch die) s = .next u ∧ (u.coreAt w.core).task = some w.task ∧ (u.coreAt w.core).frozen = none ∧
        sameImage (u.coreAt w.core) w.body ∧ (u.coreAt w.core).eng = w.body.eng ∧
        (∀ i, (u.coreAt w.core).mx.tileSt i = if (w.body.mx.tileSt i).isLoading then .full else w.body.mx.tileSt i) ∧
        u.saved = s.saved.filter (fun x => decide (x ≠ w)) ∧ u.dctr.get 0 die = s.dctr.get 0 die + 1 ∧ stored s u (k 0) (leBytes 8 0)) ∧
    ((s.raw64 (k 0)).toNat < 2 ^ 63 ∨ s.raw64 (k 8) ≠ w.task.wid →
      ∃ u, exec (.dispatch die) s = .next u ∧ (u.coreAt w.core).task = some w.task ∧ frozenWith u w.core .restore 0x11 ∧
        bf ((u.coreAt w.core).rcd.get 0 0) 10 8 = 7 ∧ bit ((u.coreAt w.core).rcd.get 0 7) 0 = true ∧ u.saved = s.saved ∧ u.mem = s.mem)

/-- The clauses of tasksAreSaved and tasksAreRestored. -/
def Obligations.TasksAreSavedAndRestored : Prop := tasksAreSaved ∧ tasksAreRestored

/-- The entry at the head of function f's submission ring names a record r at lva, all in plain memory, which its queue has room for
and which passes the checks of R25, with no dependence words and no status word of its own (R367). -/
structure Sys2Proof.Claims.Submittable (s : State) (f lva : Nat) (r : Sparse Word) (k3 : Nat) : Prop where
  live : s.live
  fn : isFunction s f
  enabled : 4 ≤ (s.fr f 0x08).toNat % 16
  place : let at_ := (s.fr f 0).toNat + 32 * ((s.fr f 0x18).toNat % 2 ^ ((s.fr f 0x08).toNat % 16))
    (∃ ia e k, Plain s (s.hostReq f) at_ 8 { r := true } ia e k ∧ leNat (s.mem.bytes k 8) = lva) ∧
    ∃ ia e, Plain s { s.hostReq f with ag := 4096 } (at_ + 16) 8 { w := true } ia e k3
  launch : lva % 256 = 0 ∧ ∃ ia e k, Plain s (s.hostReq f) lva 256 { r := true } ia e k ∧ r = recordIn s k
  room : s.launchRoom r = true
  passes : s.launchReason r f (decide (f = 0)) true = 0
  simple : r.get 0 23 = 0 ∧ bf (r.get 0 4) 26 24 = 0 ∧ ¬ fetches r

/-- The submission was accepted: a launch of the record joins the others, the ring's entry has the answer, `sqh` moves on. -/
def Sys2Proof.Claims.submitted (s u : State) (f lva : Nat) (r : Sparse Word) (k3 : Nat) : Prop :=
  u.note = .done ∧ u.accepted = s.accepted + 1 ∧ (∃ l ∈ u.launches, l.id = s.accepted ∧ l.lva = lva ∧ l.lrec = r) ∧
  u.fr f 0x18 = BitVec.ofNat 64 (((s.fr f 0x18).toNat % 2 ^ ((s.fr f 0x08).toNat % 16) + 1) % 2 ^ ((s.fr f 0x08).toNat % 16)) ∧
  u.mem.bytes k3 8 = leBytes 8 0x100

/-- R367, R25: an entry of a submission ring whose record passes the checks is accepted and answered, when the device comes to it or when
the host rings the doorbell for it. -/
def Sys2Proof.Claims.submissionsAreAccepted : Prop :=
  ∀ s f lva r k3, Submittable s f lva r k3 →
    let n := (s.fr f 0x08).toNat % 16
    ((s.fr f 0x18).toNat % 2 ^ n ≠ (s.fr f 0x10).toNat % 2 ^ n →
      ∃ u, exec (.submissionEntry f) s = .next u ∧ submitted s u f lva r k3) ∧
    ∀ tail, (s.fr f 0x18).toNat % 2 ^ n ≠ tail % 2 ^ n → ((s.fr f 0x18).toNat % 2 ^ n + 1) % 2 ^ n = tail % 2 ^ n →
      ∃ u, exec (.sqtDoorbell f tail) s = .next u ∧ submitted s u f lva r k3 ∧ u.fr f 0x10 = BitVec.ofNat 64 (tail % 65536)

/-- Where trap delivery writes (R380): the record's place, the queue's next word and its count, each in plain memory below the host's, none
of them meeting another, nor in one line with it, or a word of the frame tables for any of them. -/
structure Sys2Proof.Claims.TrapArea (s : State) (c ctx : Nat) (k1 k2 k3 : Nat) : Prop where
  armed : bit (s.sr ctx 128) 0 = true
  places : let q := s.devReq c ctx
    let base := bf (s.sr ctx 128) 55 19 * 2 ^ 19
    ∃ i1 i2 i3 e1 e2 e3, Plain s q (base + 1024 * c) 1024 { w := true } i1 e1 k1 ∧
      Plain s q (base + 322 * 1024 + 8 * (((s.sr ctx 129 + 1).toNat + 255) % 256)) 8 { w := true } i2 e2 k2 ∧
      Plain s q (base + 320 * 1024) 8 { r := true, w := true } i3 e3 k3 ∧ e1.tier < 2 ∧ e2.tier < 2 ∧ e3.tier < 2 ∧
      ∀ w ∈ tableWords s i1 ++ tableWords s i2 ++ tableWords s i3,
        (w + 8 ≤ k1 ∨ k1 + 1024 ≤ w) ∧ (w + 8 ≤ k2 ∨ k2 + 8 ≤ w) ∧ (w + 8 ≤ k3 ∨ k3 + 8 ≤ w)
  apart : (k2 + 8 ≤ k1 ∨ k1 + 1024 ≤ k2) ∧ (k3 + 8 ≤ k1 ∨ k1 + 1024 ≤ k3) ∧ k2 / 128 ≠ k3 / 128

/-- R380: the delivery of a latched record counts in `trcnt`, and, where `trbase.v` is set, writes the record's 128 words at the core's
place, the count and the core in the queue, and adds 1 to the queue's count; with `trbase.v` clear it writes no memory. -/
def Obligations.TrapsAreDelivered : Prop :=
  ∀ s c t, s.live → (s.coreAt c).rcdDue = true → (s.coreAt c).task = some t →
    (bit (s.sr t.ctx 128) 0 = false →
      ∃ u, exec (.trapDelivery c) s = .next u ∧ (u.coreAt c).rcdDue = false ∧ u.sr t.ctx 129 = s.sr t.ctx 129 + 1 ∧ u.mem = s.mem) ∧
    ∀ k1 k2 k3, TrapArea s c t.ctx k1 k2 k3 →
      ∃ u, exec (.trapDelivery c) s = .next u ∧ (u.coreAt c).rcdDue = false ∧ u.sr t.ctx 129 = s.sr t.ctx 129 + 1 ∧
        (∀ i, i < 128 → u.raw64 (k1 + 8 * i) = (s.coreAt c).rcd.get 0 i) ∧
        u.raw64 k2 = BitVec.ofNat 64 ((s.sr t.ctx 129 + 1).toNat % 2 ^ 32 * 2 ^ 32 + c) ∧ u.raw64 k3 = s.raw64 k3 + 1 ∧
        (u.coreAt c).frozen = (s.coreAt c).frozen ∧ (u.coreAt c).rcd = (s.coreAt c).rcd

/-- What a mailbox holds becomes receivable (R333). -/
def Sys2Proof.Claims.receivable (b : Mbox) : Mbox := if b.msg.isSome then { b with ready := true } else b

/-- The wait condition of R255 on the word and S[b]. -/
def Sys2Proof.Claims.waitHolds (cc : Nat) (x y : Word) : Prop :=
  if cc = 0 then x = y else if cc = 1 then x ≠ y else if cc = 2 then y.toNat ≤ x.toNat else x.toNat < y.toNat

/-- R91, R255, R328, R333, R338: the events that end a wait or a period. A member whose phase has advanced waits no more at its slot;
a message becomes receivable; a `waitw` ends with 1 when its word's condition holds, which its limit looks at once more, and with 0 when
its limit has passed and the condition does not hold; a threshold's window starts anew; a sequencer at its watchdog's limit stops and its
reset begins, which ends once, and the sequencer may be forked again.
Choices of the model: log entries 5 (what messages, members and the reset take of device time), 46 (the watchdog's limit at reset), 47 (one
debt for the sequencers of a stack) and 73 (an event whose time has not come does nothing). -/
def Obligations.WaitsAndPeriodsEnd : Prop :=
  ∀ s, s.live →
    (∀ c t g n, (s.coreAt c).task = some t → t.gang = some g.id → s.gangs.find? (fun x => decide (x.id = g.id)) = some g →
      (n, t.wid) ∉ g.arrived → (s.coreAt c).frozen = none → ((s.coreAt c).strmAt .a).wait = some (.flight n) →
      ∃ u, exec (.barrierRelease g.id n) s = .next u ∧ u.note = .done ∧ ((u.coreAt c).strmAt .a).wait = none ∧
        ((u.coreAt c).strmAt .a).pc = ((s.coreAt c).strmAt .a).pc ∧ u.gangs = s.gangs) ∧
    (∀ c q, exec (.messageReceivable c q) s = .next ((idleNote s).setCore c { s.coreAt c with
      inBox := (s.coreAt c).inBox.set {} q (receivable ((s.coreAt c).inBox.get {} q)),
      outBox := (s.coreAt c).outBox.set {} q (receivable ((s.coreAt c).outBox.get {} q)) })) ∧
    (∀ c w, AtWork s c → (s.coreAt c).waitw = some w →
      let a : State := { s with cur := .strm c .a }
      (∀ ia e k, (a.rdS w.a).toNat % 8 = 0 → Plain a a.req (a.rdS w.a).toNat 8 { r := true } ia e k → Settled a c → awaits a c ia →
        (waitHolds w.cc (BitVec.ofNat 64 (leNat (s.mem.bytes k 8))) (a.rdS w.b) →
          ∃ u, exec (.waitwWake c) s = .next u ∧ received a u w.d 1 ∧ onward a u ∧ (u.coreAt c).waitw = none) ∧
        (w.limit ≠ 0 → w.limit ≤ s.dtime - w.since →
          ∃ u v, exec (.waitwTimeout c) s = .next u ∧ received a u w.d v ∧ onward a u ∧ (u.coreAt c).waitw = none ∧ u.mem = s.mem ∧
            ((waitHolds w.cc (BitVec.ofNat 64 (leNat (s.mem.bytes k 8))) (a.rdS w.b) ∧ v = 1) ∨
             (¬ waitHolds w.cc (BitVec.ofNat 64 (leNat (s.mem.bytes k 8))) (a.rdS w.b) ∧ v = 0)))) ∧
      (w.limit = 0 ∨ s.dtime - w.since < w.limit → exec (.waitwTimeout c) s = .next s)) ∧
    (∀ c t i, AtWork s c → (s.coreAt c).task = some t → (s.evCfg t.ctx i).2.1 ≠ 0 →
      ((s.coreAt c).evwin.get 0 i + (s.evCfg t.ctx i).2.1 ≤ s.dtime →
        exec (.eventWindow c i) s = .next ((idleNote s).setCore c { s.coreAt c with
          evcnt := (s.coreAt c).evcnt.set 0 i 0,
          evwin := (s.coreAt c).evwin.set 0 i (s.dtime - (s.dtime - (s.coreAt c).evwin.get 0 i) % (s.evCfg t.ctx i).2.1) })) ∧
      (s.dtime < (s.coreAt c).evwin.get 0 i + (s.evCfg t.ctx i).2.1 → exec (.eventWindow c i) s = .next (idleNote s))) ∧
    (∀ q, (s.seqrAt q).resetting = false → (∀ o ∈ s.pend, o.agent ≠ 512 + q) →
      (s.wdLimit q ≤ (s.seqrAt q).wd →
        ∃ u, exec (.watchdog q) s = .next u ∧ u.note = .done ∧ (u.seqrAt q).running = false ∧ (u.seqrAt q).resetting = true ∧
          (u.seqrAt q).wd = 0 ∧ u.debt.get 0 (q / 4) = 0) ∧
      ((s.seqrAt q).wd < s.wdLimit q → exec (.watchdog q) s = .next (idleNote s))) ∧
    ∀ q, exec (.watchdogResetComplete q) s = .next ((idleNote s).setSeqr q { s.seqrAt q with resetting := false })

/-- The deepest tier whose conditions hold and whose exit latency the host tolerates (R371, Table 14.5). -/
def Sys2Proof.Claims.deepestTier (s : State) : Nat :=
  let bears (t : Nat) : Prop := s.tierOk t = true ∧ exitNs t ≤ 1000 * bf (s.mgr 0x1090) 31 0
  open Classical in if bears 3 then 3 else if bears 2 then 2 else if bears 1 then 1 else 0

/-- R392, R393 and Table 15.11 leave open what a powered-off or halted device shows; `fwst` = 2 there is this model's reading (log entry
10). R391 to R394, R369, R368, R371, R340, R3: the device's own events. A tier that is entered sends its exit latency to the host.
Choices of the model: log entries 10, 70, 71, 45, 65, 90. -/
def Obligations.DeviceEventsTakeEffect : Prop :=
  ∀ s,
    (∃ u, exec .powerOff s = .next u ∧ u.halted = true ∧ u.cores = [] ∧ u.mem = [] ∧ u.boot = s.boot) ∧
    (∃ u, exec (.powerOn true) s = .next u ∧ u.halted = false ∧ u.reduced = true ∧ u.mhz = 850 ∧ u.cores = [] ∧ u.mem = [] ∧
      u.boot = s.boot) ∧
    (∃ u, exec (.powerOn false) s = .next u ∧ u.halted = true ∧ u.fwErr = 1 ∧ u.cores = []) ∧
    (bf (s.mgr 0x3018) 1 0 = 1 → s.pend = [] →
      ∃ u, exec .fullService s = .next u ∧ u.reduced = false ∧ u.mhz = 1700 ∧ u.fwErr = s.fwErr) ∧
    (∀ keep, bf (s.mgr 0x3018) 1 0 ≠ 3 → s.pend = [] → s.slots = [] → (∀ c, (s.coreAt c).stLine = []) →
      ∃ u, exec (.fwReload keep) s = .next u ∧ bf (u.mgr 0x3018) 1 0 = 3 ∧ u.cores = [] ∧ u.launches = [] ∧ u.mem = s.mem ∧
        u.mgr 0x3010 = (if keep then 2 else 0)) ∧
    (bf (s.mgr 0x3018) 1 0 = 3 →
      (∃ u, exec (.firmwareLoadComplete true) s = .next u ∧ bf (u.mgr 0x3018) 1 0 = 1 ∧ u.mhz = 850) ∧
      ∃ u, exec (.firmwareLoadComplete false) s = .next u ∧ bf (u.mgr 0x3018) 1 0 = 2) ∧
    (s.halted = false → exec .firmwareStateError s = .next ((idleNote s).setFwst 2 s.fwErr)) ∧
    (∀ mhz, s.reduced = false → 1200 ≤ mhz → mhz ≤ 1700 → exec (.arithmeticClockChange mhz) s = .next { idleNote s with mhz := mhz }) ∧
    (∀ p, exec (.linkInitialisation p) s = .next { idleNote s with zel := s.zel.set false p true }) ∧
    (∀ f, f ≠ 0 → isFunction s f → ∃ u, exec (.functionLevelReset f) s = .next u ∧ u.note = .done ∧ (u.fnAt f).reg = [] ∧
      ∀ q, q < 256 → u.mgr (0x1300 + 8 * q) =
        (if bf (s.mgr (0x1300 + 8 * q)) 55 50 = f then setBf (s.mgr (0x1300 + 8 * q)) 63 63 0 else s.mgr (0x1300 + 8 * q))) ∧
    (∀ off : Int, ∃ u, exec (.ptmCorrection off) s = .next u ∧ bit u.tsync 63 = true ∧ bf u.tsync 31 0 = (off % 2 ^ 32).toNat ∧
      (1000000 < off → u.dtime = (s.dtime + off).toNat ∧ u.slew = 0) ∧ (off ≤ 1000000 → u.dtime = s.dtime ∧ u.slew = off)) ∧
    (∀ off : Int, bit (s.mgr 0x1098) 0 = true → ((s.dtime : Int) + off) % 1000000000 = 0 →
      ∃ u, exec (.ppsPulse off) s = .next u ∧ bit u.tsync 62 = true ∧ bf u.tsync 31 0 = (off % 2 ^ 32).toNat ∧
        (1000000 < off → u.dtime = (s.dtime + off).toNat ∧ u.slew = 0) ∧ (off ≤ 1000000 → u.dtime = s.dtime ∧ u.slew = off)) ∧
    (∀ off, bit (s.mgr 0x1098) 0 = false → exec (.ppsPulse off) s = .next (idleNote s)) ∧
    (s.slots = [] →
      exec .powerTierEntry s =
        .next (if s.tier < deepestTier s then { idleNote s with tier := deepestTier s, ltr := some (exitNs (deepestTier s)) }
          else idleNote s) ∧
      exec .powerTierExit s =
        .next (if s.idle ∨ s.tier = 0 then idleNote s else { idleNote s with tier := 0, ltr := some 0 }))


/-- The slot in use at index i of a context's table, by its number g and record d, stands at key k of memory below the host's, clear of the
frame tables' words for it; the device works, nothing waits anywhere, and the event ring of the context's function is disabled (R342,
R343, R367). -/
structure Sys2Proof.Claims.SlotOf (s : State) (ctx i g : Nat) (d : SlotDev) (e : Entry) (k : Nat) : Prop where
  live : s.live
  found : s.slotAt? ctx i = some (g, d) ∧ s.slots.get {} g = d ∧ d.ctx = ctx
  mapped : Mapped s ctx d.ia 128 e k
  place : d.ia % 128 = 0 ∧ e.tier < 2
  tables : ∀ w ∈ tableWords s d.ia, w + 8 ≤ k ∨ k + 128 ≤ w
  quiet : s.pend = []
  ring : ringOff s ctx

/-- Words of a slot other than those listed hold what they held, and no byte of memory outside the slot changed. -/
def Sys2Proof.Claims.slotKept (s u : State) (k : Nat) (but : List Nat) : Prop :=
  onlySlot s u k ∧ ∀ j, j < 16 → j ∉ but → slotWordIn u k j = slotWordIn s k j

/-- A request of the device for a context, as the sluice makes it (R351). -/
def Sys2Proof.Claims.slotRequest (s : State) (ctx : Nat) : Req := s.devReq 0 ctx

/-- Where the descriptor of the slot's sequence slot stands (R287). -/
def Sys2Proof.Claims.sequenceAddress (s : State) (ctx k : Nat) : Nat := bf (s.sr ctx 322) 55 5 * 32 + 32 * bf (slotWordIn s k 1) 15 0

/-- The address of `fin` of slot i of a context (R342). -/
def Sys2Proof.Claims.finAddress (s : State) (ctx i : Nat) : Nat := bf (s.sr ctx 320) 55 7 * 128 + 128 * i + 64

/-- R350, R351, R353, R359: a host's write of `fin` that posts no more frames than the ring holds is stored, and another is discarded.
The sluice's atomic step for a frame without a cut or a due time moves `P` and `G`, the epoch and the busy bit, and leaves its tokens to the
memory work; that work, for at most one token of a sequence slot without a prefix, writes the token, clears the busy bit, and completes
the frame. A silent slot that has no state page in the polder is evicted, and its eviction completes: its units leave the context's
dike. -/
def Sys2Proof.Claims.slotEventsTakeEffect : Prop :=
  ∀ s ctx i g d e k, SlotOf s ctx i g d e k →
    let P := bf (slotWordIn s k 0) 63 32
    let G := bf (slotWordIn s k 0) 31 0
    let fdone := bf (slotWordIn s k 8) 63 32
    (∀ v, v < 2 ^ 32 → s.slotsHit (d.ia + 64) 4 = [(g, d)] → ctx < 64 → s.winBad ctx (finAddress s ctx i) = false →
      s.bar2 (s.fnOf ctx) 0 ≤ finAddress s ctx i → finAddress s ctx i + 4 ≤ s.bar2 (s.fnOf ctx) 0 + 2 ^ 36 →
      s.translate? (s.hostReqFor ctx) (finAddress s ctx i) 4 { w := true } = .ok (d.ia + 64) →
      ∃ u, exec (.finWrite ctx i v) s = .next u ∧ u.note = .done ∧ slotKept s u k [8] ∧ slotWordIn u k 8 =
        (if (v + 2 ^ 32 - fdone) % 2 ^ 32 ≤ 2 ^ bf (slotWordIn s k 7) 63 60 then setBf (slotWordIn s k 8) 31 0 v
         else slotWordIn s k 8)) ∧
    (∀ i1 e1 k1 i2 e2 k2, fdone ≠ bf (slotWordIn s k 8) 31 0 → (∀ w ∈ d.work, w.frame = none) →
      Plain s (slotRequest s ctx) (bf (slotWordIn s k 7) 55 0 + 256 * (fdone % 2 ^ bf (slotWordIn s k 7) 63 60)) 256 { r := true } i1 e1 k1 →
      Plain s (slotRequest s ctx) (sequenceAddress s ctx k) 24 { r := true } i2 e2 k2 →
      (k2 + 24 ≤ k ∨ k + 128 ≤ k2) → (∀ w ∈ tableWords s i2, w + 8 ≤ k ∨ k + 128 ≤ w) →
      bf (s.raw64 k1) 63 32 = 0xFFFFFFFF → bf (s.raw64 (k1 + 8)) 63 10 = 0 → bit (s.raw64 (k1 + 8)) 8 = false →
      bf (s.raw64 (k1 + 8)) 7 0 ≤ 60 →
      let P' := if bit (s.raw64 (k1 + 8)) 9 then max P (min (bf (s.raw64 k1) 31 0) G) else P
      let m := min (bf (s.raw64 (k1 + 8)) 7 0) (bf (s.raw64 (k2 + 8)) 63 32 - G)
      ∃ u w, exec (.sluice ctx i) s = .next u ∧ u.note = .done ∧ slotKept s u k [0, 1, 12, 13] ∧
        bf (slotWordIn u k 0) 31 0 = G + m ∧ bf (slotWordIn u k 0) 63 32 = (if P' = G then G + m else P') ∧
        slotWordIn u k 1 = setBf (slotWordIn s k 1) 63 32 (bf (slotWordIn s k 1) 63 32 + 1) ∧
        slotWordIn u k 12 = setBf (slotWordIn s k 12) 63 63 1 ∧
        (u.slots.get {} g).work = d.work ++ [w] ∧ w.frame = some fdone ∧ w.cut = none ∧
        w.toks = (List.range m).map fun j => (G + j, leNat (s.mem.bytes (k1 + 16 + 4 * j) 4))) ∧
    (∀ w ws, d.work = w :: ws → w.cut = none →
      let after (u : State) (but : List Nat) : Prop := u.note = .done ∧ slotWordIn u k 12 = setBf (slotWordIn s k 12) 63 63 0 ∧
        (u.slots.get {} g).work = d.work.filter (fun x => decide (x.id ≠ w.id)) ∧
        (w.frame ≠ none → slotWordIn u k 8 = setBf (slotWordIn s k 8) 63 32 (fdone + 1) ∧ slotWordIn u k 10 = BitVec.ofNat 64 s.dtime) ∧
        (w.frame = none → slotWordIn u k 8 = slotWordIn s k 8 ∧ slotWordIn u k 10 = slotWordIn s k 10) ∧
        ∀ j, j < 16 → j ∉ but → slotWordIn u k j = slotWordIn s k j
      (w.toks = [] → ∃ u, exec (.sluiceMemoryWork ctx i) s = .next u ∧ after u [8, 10, 12] ∧ onlySlot s u k) ∧
      ∀ p tok i2 e2 k2 i3 e3 k3, w.toks = [(p, tok)] →
        Plain s (slotRequest s ctx) (sequenceAddress s ctx k) 24 { r := true } i2 e2 k2 → bf (s.raw64 (k2 + 16)) 63 48 = 0xFFFF →
        Plain s (slotRequest s ctx) (bf (s.raw64 k2) 55 0 + p * bf (s.raw64 (k2 + 8)) 31 0) 4 { w := true } i3 e3 k3 → e3.tier < 2 →
        s.guarded ctx i3 4 = false → (k3 + 4 ≤ k ∨ k + 128 ≤ k3) → (∀ x ∈ tableWords s d.ia, x + 8 ≤ k3 ∨ k3 + 4 ≤ x) →
        ∃ u, exec (.sluiceMemoryWork ctx i) s = .next u ∧ after u [8, 10, 12] ∧ u.mem.bytes k3 4 = leBytes 4 tok) ∧
    (slotState s k ∈ [1, 2] → bf (slotWordIn s k 9) 63 32 ≠ 0 →
      (slotWordIn s k 10).toNat + 1000 * bf (slotWordIn s k 9) 63 32 ≤ s.dtime → d.evict = none → framesStand s (slotRequest s ctx) k →
      ∃ u, exec (.silenceEviction ctx i) s = .next u ∧ u.note = .done ∧ slotWordIn u k 12 = setBf (slotWordIn s k 12) 62 61 3 ∧
        (u.slots.get {} g).evict = some true ∧ slotKept s u k [12]) ∧
    (∀ ok, d.evict = some ok →
      ∃ u, exec (.evictionComplete ctx i) s = .next u ∧ u.note = .done ∧ evicted s u ctx k g ∧ slotKept s u k [9])

/-- The launch record that a slot's timer submits (R346): the deadline is the slot's, and the record waits for it. -/
def Sys2Proof.Claims.timedRecord (s : State) (k k1 : Nat) : Sparse Word :=
  let r := (recordIn s k1).set 0 13 (slotWordIn s k 2)
  r.set 0 4 (setBf (r.get 0 4) 19 19 1)

/-- R346: the timer of an armed slot whose last launch has begun submits its record when its time has come: the launch is accepted as the
slot's, `ndl` moves on by the period and those that have passed beside it, and a slot without a period is idle again. -/
def Sys2Proof.Claims.slotTimersLaunch : Prop :=
  ∀ s ctx i g d e k, SlotOf s ctx i g d e k → slotState s k = 2 →
    let ndl := (slotWordIn s k 2).toNat
    let lead := bf (slotWordIn s k 3) 63 32
    let period := bf (slotWordIn s k 3) 31 0
    let r (k1 : Nat) : Sparse Word := timedRecord s k k1
    ndl ≤ s.dtime + lead → (∀ l ∈ s.launches, d.launch = some l.id → l.next ≠ 0) →
    ∀ i1 e1 k1, Plain s { slotRequest s ctx with kind := 1, agent := g } (bf (slotWordIn s k 4) 55 0) 256 { r := true } i1 e1 k1 →
      s.launchRoom (r k1) = true → s.launchReason (r k1) ctx false true = 0 → (r k1).get 0 23 = 0 → bf ((r k1).get 0 4) 26 24 = 0 →
      ¬ fetches (r k1) →
      ∃ u, exec (.slotTimer ctx i) s = .next u ∧ u.note = .done ∧ u.accepted = s.accepted + 1 ∧
        (∃ l ∈ u.launches, l.id = s.accepted ∧ l.lrec = r k1 ∧ l.slot = some g) ∧ (u.slots.get {} g).launch = some s.accepted ∧
        slotWordIn u k 2 = BitVec.ofNat 64 (ndl + period + skipped s.dtime ndl lead period * period) ∧
        slotState u k = (if period = 0 then 1 else 2) ∧ slotKept s u k [2, 12, 13]

/-- State.reset: the canonical form holds of its memory; no task, launch or slot stands, no sequencer runs, nothing waits; the service is
full at 1.7 GHz (R1 and the Reset value of `fwst`; log entry 8), and the scalar and special registers read zero, where the spec gives
no value the model's choice (log entry 7).
Choices of the model: log entries 8, 7, 9. -/
def Obligations.ResetStandsIdleAndCanonical : Prop :=
  State.reset.memWf = true ∧ State.reset.live ∧ State.reset.reduced = false ∧ State.reset.mhz = 1700 ∧
  (∀ c, (State.reset.coreAt c).task = none ∧ (State.reset.coreAt c).frozen = none ∧ ∀ n, (State.reset.coreAt c).s.get 0 n = 0) ∧
  (∀ q, (State.reset.seqrAt q).running = false) ∧ State.reset.launches = [] ∧ State.reset.slots = [] ∧ State.reset.pend = [] ∧
  ∀ x n, State.reset.sr x n = 0

/-- The canonical form of memory is an invariant: from every state whose backed and polder bytes are sorted, without repeats and
without an entry equal to what an unlisted address reads as, a step that answers a next state gives such a state.
Choices of the model: log entry 9. -/
def Obligations.MemoryStaysCanonical : Prop :=
  ∀ s t, s.memWf = true → step s = .next t → t.memWf = true

/-- The instructions that share `sarm`'s word with `sarm` create: S[b] tells them apart when the word runs (R358). -/
def Sys2Proof.Claims.sharesWord (i : Instr) : Bool :=
  match i with
  | .sarmArm _ _ _ | .sarmDisarm _ _ _ | .sarmRetire _ _ _ | .sarmEvict _ _ _ => true
  | _ => false

/-- R40 to R48: every well-formed A-stream instruction, with every value of its fields, reads back from its word.
Choices of the model: log entry 68. -/
def Obligations.ScalarWordsRoundTrip : Prop :=
  ∀ i w, i.wellFormed = true → encode i = .a w → sharesWord i = false → w < 2 ^ 32 ∧ decodeA w = .ok i

/-- R54, R55: every well-formed Z-stream instruction reads back from its word. -/
def Sys2Proof.Claims.associativeRoundTrip : Prop := ∀ i w, i.wellFormed = true → encode i = .z w → w < 2 ^ 32 ∧ decodeZ w = .ok i

/-- R49 to R53: every pair of well-formed instructions for the two slots of a pair word, or a control word, reads back from the
word that puts them together under their guard. -/
def Sys2Proof.Claims.pairRoundTrip : Prop :=
  ∀ i j g v k, i.wellFormed = true → j.wellFormed = true → encode i = .xv g v → encode j = .xk g k → (240 ≤ v / 2 ^ 28 → k = 0) →
    v < 2 ^ 36 ∧ k < 2 ^ 20 ∧ decodeX (g.ginv * 2 ^ 63 + g.gpred * 2 ^ 56 + k * 2 ^ 36 + v) = .ok ⟨i, j⟩

/-- R49 to R55: the words of the X-stream and of the Z-stream read back: no bit of an encoding is dropped. -/
def Obligations.StreamWordsRoundTrip : Prop := pairRoundTrip ∧ associativeRoundTrip

/-- Words whose bits the spec gives beside their text (R58, R95, R97, R333, R323, R324, R383; the listings of chapters 5 to 7 and 16 to 20). -/
def Obligations.ListedWordsDecode : Prop :=
  decodeA 0x2C5182C8 = .ok (.bfx 5 6 11 8) ∧ decodeA 0x208200D1 = .ok (.roli 8 8 17) ∧ decodeA 0x40A1FBFF = .ok (.ldD 10 7 2 0x3FF) ∧
  decodeA 0xA049FFFD = .ok (.bnz 9 0xFFFD) ∧ decodeA 0x4851B000 = .ok (.stD 5 6 0 0) ∧ decodeA 0x84000010 = .ok .endA ∧
  decodeA 0x9400001D = .ok (.ecall 0 5) ∧ decodeA 0x9400022B = .ok (.trap 2 3) ∧ decodeA 0x8C510704 = .ok (.fork 5 4 7 4) ∧
  decodeZ 0x10227C00 = .ok (.zcmpEq 0 1 318 0) ∧ decodeZ 0x78642600 = .ok (.ztagAndn 0 3 1 2) ∧
  decodeX 0x7F00000011818140 = .ok ⟨.fadd .none 0 6 (.vec 6) (.vec 5), .knop .none⟩ ∧
  decodeX 0x7F00000820111149 = .ok ⟨.mma 9 0 0 (.k 4) (.k 5), .knop .none⟩ ∧
  decodeX 0x7F10841000000000 = .ok ⟨.vnop .none, .kaddi .none 2 2 1⟩

/-- The turn is that of stream st of core c, which may execute a word: its task runs, nothing is due at the boundary, no `accrd`
holds it, and no register has an uncorrectable error. -/
structure Sys2Proof.Claims.TurnOf (s : State) (c : Nat) (st : Strm) : Prop where
  turn : s.cur = .strm c st
  live : s.live
  canRun : (s.coreAt c).canRun st = true
  noFault : (s.coreAt c).dueFault? st = none
  noAccrd : (s.coreAt c).awaitsAccrd st = false
  sound : s.unmarked = true

/-- The n bytes at the acting stream's pc lie in plain executable memory (R40). -/
def Sys2Proof.Claims.Fetches (s : State) (n ia : Nat) (e : Entry) (k : Nat) : Prop :=
  Plain s { s.req with ag := 4096 } s.pc.toNat n { x := true } ia e k

/-- The state in which a fetched word runs: the fetch, from the page of entry e at ia, has read memory (R220, R371). -/
def Sys2Proof.Claims.fetchedState (s : State) (e : Entry) (k ia : Nat) : State := s.touch { s.req with ag := 4096 } (.frame e k) ia

/-- The word of n bytes at key k, little-endian (R40). -/
def Sys2Proof.Claims.wordAt (s : State) (k n : Nat) : Nat := leNat (s.mem.bytes k n)

/-- A word that the decoder of stream st rejects has its one effect (R42, R375): the core freezes with 0x01 at the word. -/
def Sys2Proof.Claims.rejectedBy (s : State) (c : Nat) (st : Strm) (pc : Word) : Prop :=
  ∃ t, step s = .next t ∧ frozenWith t c (.strm st.code 0x01) 0x01 ∧ ((t.coreAt c).strmAt st).pc = pc ∧
    (t.coreAt c).s = (s.takeTurn.coreAt c).s ∧ t.mem = s.takeTurn.mem

/-- R40, R41, R331: a step of an A-stream, a Z-stream, an X-stream or a sequencer runs what its decoder reads from the bytes at the
pc: `exec` of the instruction at the state that the fetch leaves; of a pair word the vector slot and then the scalar slot, on sources
taken before either writes; of a control word its meaning. A word that the decoder rejects raises 0x01: a core with nothing in flight
freezes at it, and a sequencer's stream stops. A device event's step is `exec` of the event. Around a core's word a step adds the count
of R20 alone.
Choices of the model: log entries 2, 3, 100. -/
def Obligations.StepRunsTheDecodedInstruction : Prop :=
  (∀ s c ia e k, TurnOf s.takeTurn c .a → Fetches s.takeTurn 4 ia e k →
    let u := fetchedState s.takeTurn e k ia
    (∀ i, decodeA (wordAt s.takeTurn k 4) = .ok i → step s = stepDead c (exec (u.resolve i) u)) ∧
    (∀ r, decodeA (wordAt s.takeTurn k 4) = .error r → Still s.takeTurn c → rejectedBy s c .a s.takeTurn.pc)) ∧
  (∀ s c ia e k, TurnOf s.takeTurn c .z → Fetches s.takeTurn 4 ia e k →
    (∀ i, decodeZ (wordAt s.takeTurn k 4) = .ok i →
      step s = stepDead c (exec i (fetchedState s.takeTurn e k ia))) ∧
    (∀ r, decodeZ (wordAt s.takeTurn k 4) = .error r → Still s.takeTurn c → rejectedBy s c .z s.takeTurn.pc)) ∧
  (∀ s c st ia e k, TurnOf s.takeTurn c st → st ≠ .a → st ≠ .z → Fetches s.takeTurn 8 ia e k →
    let t := fetchedState s.takeTurn e k ia
    let u := t.latchX ⟨fld (wordAt s.takeTurn k 8) 63 63, fld (wordAt s.takeTurn k 8) 62 56⟩
    (∀ x, decodeX (wordAt s.takeTurn k 8) = .ok x →
      step s = stepDead c (if isControl (wordAt s.takeTurn k 8) then controlOut t (exec x.v u) else pairOut t (exec x.v u) (exec x.k))) ∧
    (∀ r, decodeX (wordAt s.takeTurn k 8) = .error r → Still s.takeTurn c → rejectedBy s c st s.takeTurn.pc)) ∧
  (∀ s q ia e k, s.takeTurn.cur = .seqr q → s.takeTurn.live → (s.takeTurn.seqrAt q).running = true →
    (s.takeTurn.seqrAt q).resetting = false → s.takeTurn.unmarked = true → Fetches s.takeTurn 4 ia e k →
    let u := fetchedState s.takeTurn e k ia
    (∀ i, decodeA (wordAt s.takeTurn k 4) = .ok i → step s = exec (u.resolve i) u) ∧
    (∀ r, decodeA (wordAt s.takeTurn k 4) = .error r → (∀ o ∈ s.takeTurn.pend, o.agent ≠ 512 + q) →
      ∃ t, step s = .next t ∧ (t.seqrAt q).running = false ∧ (t.seqrAt q).pc = s.takeTurn.pc ∧
        (t.seqrAt q).s = (s.takeTurn.seqrAt q).s ∧ t.mem = s.takeTurn.mem)) ∧
  (∀ s i, s.takeTurn.cur = .dev i → isEvent i = true → step s = exec i s.takeTurn)

/-- What an instruction that only writes S[d] leaves unchanged: every other scalar register of the acting agent; every other part of its
core but its stream's pc, which waits for nothing, and the error mark of S[d], which a write clears, its other streams among them; every
other part of its sequencer likewise; every other core and sequencer; every byte of backed and polder memory; the
special registers, and everything else that the machine holds. s0 reads zero. -/
structure Sys2Proof.Claims.OnlyRegister (s t : State) (d : Nat) : Prop where
  regs : ∀ n, n ≠ d → t.rdS n = s.rdS n
  zero : t.rdS 0 = 0
  memory : ∀ a, t.mem.get 0 a = s.mem.get 0 a ∧ t.pol.get 0 a = s.pol.get 0 a
  specials : ∀ x n, t.sr x n = s.sr x n
  rest : t = { s with cores := t.cores, seqrs := t.seqrs, note := .done }
  others : ∀ c, c ≠ s.coreNo → t.coreAt c = s.coreAt c
  core : ∀ c st, s.cur = .strm c st →
    t.coreAt c = { s.coreAt c with
      s := (t.coreAt c).s, strm := (t.coreAt c).strm, ecc := { (s.coreAt c).ecc with reg := (t.coreAt c).ecc.reg } } ∧
    (∀ n, (t.coreAt c).ecc.reg.get false n = if n = d ∧ d ≠ 0 then false else (s.coreAt c).ecc.reg.get false n) ∧
    (t.coreAt c).strmAt st = { (s.coreAt c).strmAt st with pc := t.pc, wait := none } ∧
    (∀ st' : Strm, st'.code ≠ st.code → (t.coreAt c).strmAt st' = (s.coreAt c).strmAt st') ∧ ∀ q, t.seqrAt q = s.seqrAt q
  seqr : ∀ q, s.cur = .seqr q → t.cores = s.cores ∧ (∀ n, n ≠ q → t.seqrAt n = s.seqrAt n) ∧
    t.seqrAt q = { s.seqrAt q with s := (t.seqrAt q).s, bad := (t.seqrAt q).bad, pc := t.pc, waiting := false } ∧
    ∀ n, (t.seqrAt q).bad.get false n = if n = d ∧ d ≠ 0 then false else (s.seqrAt q).bad.get false n

/-- The instructions that write S[d] alone, with d. -/
inductive Sys2Proof.Claims.WritesOnly : Instr → Nat → Prop where
  | binary (r) (h : r ∈ binaryOps) (d a b : Nat) : WritesOnly (r.1 d a b) d
  | unary (r) (h : r ∈ unaryOps) (d a : Nat) : WritesOnly (r.1 d a) d
  | immediate (r) (h : r ∈ immediateOps) (d a i : Nat) : WritesOnly (r.1 d a i) d
  | shift (r) (h : r ∈ shiftOps) (d a n : Nat) : WritesOnly (r.1 d a n) d
  | branchOne (r) (h : r ∈ branchesOnOne) (a o : Nat) : WritesOnly (r.1 a o) 0
  | branchTwo (r) (h : r ∈ branchesOnTwo) (a b o : Nat) : WritesOnly (r.1 a b o) 0
  | fsh (d a b n : Nat) : WritesOnly (.fsh d a b n) d
  | div (d a b : Nat) : WritesOnly (.div d a b) d
  | divu (d a b : Nat) : WritesOnly (.divu d a b) d
  | rem (d a b : Nat) : WritesOnly (.rem d a b) d
  | remu (d a b : Nat) : WritesOnly (.remu d a b) d
  | li (d i : Nat) : WritesOnly (.li d i) d
  | lsi (d i : Nat) : WritesOnly (.lsi d i) d
  | bfx (d a w st : Nat) : WritesOnly (.bfx d a w st) d
  | bfxS (d a w st : Nat) : WritesOnly (.bfxS d a w st) d
  | bfi (d a w st : Nat) : WritesOnly (.bfi d a w st) d
  | br (o : Nat) : WritesOnly (.br o) 0
  | call (d i : Nat) : WritesOnly (.call d i) d
  | nop : WritesOnly .nop 0

/-- R13, R43, R92 to R99: the register, immediate, bit-field and division operations, the branches, `call` and `nop` change S[d] and
the pc and nothing else; a branch and `nop` write no register; a write to s0 is discarded. -/
def Obligations.RegisterWritesKeepEverythingElse : Prop :=
  ∀ i d s t, WritesOnly i d → exec i s = .next t → OnlyRegister s t d

/-- R99, R375: a `jr` or `jalr` target that is not a multiple of 4 raises 0x05 at the jump, and no register is written: a core freezes at
the word, and a sequencer's stream stops. -/
def Sys2Proof.Claims.misalignedJumpsTrap : Prop :=
  (∀ s c d a, s.cur = .strm c .a → Still s c → (s.rdS a).toNat % 4 ≠ 0 →
    (∃ t, exec (.jr a) s = .next t ∧ trapped s t c 0x05) ∧ ∃ t, exec (.jalr d a) s = .next t ∧ trapped s t c 0x05) ∧
  (∀ s q d a i, s.cur = .seqr q → (∀ o ∈ s.pend, o.agent ≠ 512 + q) → (s.rdS a).toNat % 4 ≠ 0 → i = .jr a ∨ i = .jalr d a →
    ∃ t, exec i s = .next t ∧ (t.seqrAt q).running = false ∧ (t.seqrAt q).s = (s.seqrAt q).s ∧ (t.seqrAt q).pc = s.pc)

/-- R202, R375, R383: a scalar access that no window shows, and the system words. -/
def Obligations.UnmappedAccessesAndSystemWordsRaiseTheirExceptions : Prop := unmappedAccessesTrap ∧ systemWordsRaiseTheirExceptions

/-- R255, R249, R250: `waitw`, and what `hwait`, `htest` and `cancel` do with a handle.
Choices of the model: log entry 51. -/
def Obligations.WaitsEndAndHandlesTellTheirCommand : Prop :=
  waitsEndWhenTheirConditionHolds ∧ handlesTellTheirCommand ∧ cancelEndsACommandInFlight

/-- R333: a message passes between a core's task and the stream that it forked, both ways.
Choices of the model: log entry 63. -/
def Obligations.MailboxesCarryMessages : Prop := coresExchangeMessages ∧ sequencersExchangeMessages

/-- R357, R358: `sread`, and the operations of `sarm` on a slot in use.
Choices of the model: log entries 68, 105. -/
def Obligations.SlotWordsAreReadAndSlotsAreArmedAndRetired : Prop := slotReadsGiveTheWord ∧ slotsAreArmedAndRetired

/-- R355, R356: `scommit`, and a `trunc` that cuts nothing.
Choices of the model: log entry 60. -/
def Obligations.CommitsAndTruncationsMoveTheSlot : Prop := commitsAppendAToken ∧ truncationToTheEndMovesTheEpoch

/-- R215, R216, R258 to R260: discards of polder lines, migrations and pins.
Choices of the model: log entry 91. -/
def Obligations.DiscardsAndPageOperationsComplete : Prop := discardedPolderLinesReadZero ∧ pageOperationsChangeTheEntry

/-- R52, R53, R131, R132, R134, R293: the X-stream's local accesses, its signatures and pushes.
Choices of the model: log entry 56. -/
def Obligations.LocalAccessesAndSignaturesComplete : Prop := localAccessesReachTheScratchpad ∧ signaturesAndPushesComplete

/-- R296, R297, R306, R307, R309: scores, ages and selection lists, and which pages a selection names. -/
def Obligations.ScoresAgesAndSelectionAreWritten : Prop := scoresAndAgesAreWritten ∧ selectionWritesItsPages ∧ selectionsAreBermAndTop

/-- R207, R214, R318, R365, R367, R370: the host driver's writes of frame-table entries and of registers.
Choices of the model: log entries 19, 25, 24, 87, and 90 (the latency sent for W0, which a request's arrival may set). -/
def Obligations.HostWritesReachRegistersAndFrameTables : Prop := frameTableUpdatesAreStored ∧ hostRegisterWritesTakeEffect

/-- R346, R350, R351, R353, R359: what the device does for a stream slot.
Choices of the model: log entries 60, 61, 43, 105. -/
def Obligations.SlotTimersAndEventsTakeEffect : Prop := slotTimersLaunch ∧ slotEventsTakeEffect

/-- R199, R208, R209, R218 to R223, R262, R275, R337: granted accesses perform, and the memory side's own events.
Choices of the model: log entries 13, 20, 21, 47, 88, 89, 93, and 97 (which writes an interrupt waits for). -/
def Obligations.MemoryEventsAndAccessesTakeEffect : Prop := accessesPerform ∧ memoryEventsTakeEffect

/-- R25, R26, R31, R319, R320, R367: from a submitted record to the first clk of a task.
Choices of the model: log entries 41, 43, 108. -/
def Obligations.SubmissionsBecomeTasks : Prop := submissionsAreAccepted ∧ launchesBecomeTasks

/-- R148, R154 to R162: the X-stream's matrix words.
Choices of the model: log entries 53, 52. -/
def Obligations.MatrixWordsClaimAndQueue : Prop := matrixCommandsJoinTheQueue ∧ tilesAndBanksAreTaken

/-- R135, R232, R254, R271: the A-stream's queue words, `wlc` and the fences.
Choices of the model: log entry 14. -/
def Obligations.QueueLoopAndFenceWordsComplete : Prop := queueAndLoopWritesComplete ∧ fencesComplete

/-- R89, R100, R101: `mfs` and `mts`.
Choices of the model: log entry 72. -/
def Obligations.SpecialRegistersAreReadAndWritten : Prop := specialRegistersRead ∧ governedRegistersRead ∧ specialRegistersAreWritten

/-- R32, R36, R323, R324, R326, R327: `irv`, `end` and the barriers.
Choices of the model: log entry 35. -/
def Obligations.RegionsStreamsAndBarriersComplete : Prop := regionsAndStreamsEnd ∧ barriersArriveAndWait

/-- R242, R243, R249, R334: a copy command and a search take a free engine slot.
Choices of the model: log entries 51, 81. -/
def Obligations.CopiesAndSearchesAreIssued : Prop := copiesAreIssued ∧ searchesAreIssued

/-- R96, R97, R44, R98, R99, R383: the immediate and the bit-field operations; where branches, calls, jumps and `nop` go: a branch to its
target when its condition holds, `call` and an aligned `jr` or `jalr` to theirs; a misaligned target raises 0x05. -/
def Obligations.ImmediatesWriteAndBranchesGo : Prop :=
  immediateOperationsWriteTheirResult ∧ bitFieldOperationsMoveTheField ∧ branchesGoWhereTheirConditionSays ∧
    callsAndJumpsLinkAndGoAligned ∧ misalignedJumpsTrap
end

