-- ==== Sys2Proof/Laws/Sparse.lean ====
section
/-! SUPPORT. What the sorted stores do: a read after a write, and that every operation keeps the canonical form. -/

namespace Sys2Proof.Laws

open Sys2Proof.Machine

variable {α : Type} [DecidableEq α]

omit [DecidableEq α] in
theorem get_append (d : α) (m m' : Sparse α) (k : Nat) (h : ∀ e ∈ m, e.1 ≠ k) :
    Sparse.get d (m ++ m') k = Sparse.get d m' k := by
  induction m with
  | nil => rfl
  | cons e m ih =>
    have h1 : e.1 ≠ k := h e (by simp)
    simp only [List.cons_append, Sparse.get, h1, if_false]
    exact ih fun e' he' => h e' (by simp [he'])

omit [DecidableEq α] in
theorem get_of_not_mem (d : α) (m : Sparse α) (k : Nat) (h : ∀ e ∈ m, e.1 ≠ k) : Sparse.get d m k = d := by
  have := get_append d m [] k h
  simpa [Sparse.get] using this

omit [DecidableEq α] in
theorem get_append_left (d : α) (m m' : Sparse α) (k : Nat) (h : ∀ e ∈ m', e.1 ≠ k) :
    Sparse.get d (m ++ m') k = Sparse.get d m k := by
  induction m with
  | nil => simpa [Sparse.get] using get_of_not_mem d m' k h
  | cons e m ih => simp only [List.cons_append, Sparse.get, ih]

theorem mem_ofFn (d : α) (f : Nat → α) : ∀ (n lo : Nat) (e : Nat × α),
    e ∈ Sparse.ofFn d f lo n → lo ≤ e.1 ∧ e.1 < lo + n := by
  intro n
  induction n with
  | zero => intro lo e h; simp [Sparse.ofFn] at h
  | succ n ih =>
    intro lo e h
    simp only [Sparse.ofFn] at h
    split at h
    · have := ih _ _ h; omega
    · rcases List.mem_cons.mp h with rfl | h
      · simp
      · have := ih _ _ h; omega

theorem get_ofFn (d : α) (f : Nat → α) (k : Nat) : ∀ (n lo : Nat),
    Sparse.get d (Sparse.ofFn d f lo n) k = if lo ≤ k ∧ k < lo + n then f k else d := by
  intro n
  induction n with
  | zero => intro lo; simp only [Sparse.ofFn, Sparse.get]; split <;> [omega; rfl]
  | succ n ih =>
    intro lo
    simp only [Sparse.ofFn]
    by_cases hk : lo = k
    · subst hk
      split
      · rename_i h
        rw [ih]
        have : ¬ (lo + 1 ≤ lo ∧ lo < lo + 1 + n) := by omega
        rw [if_neg this, if_pos (by omega), h]
      · simp [Sparse.get]
    · have e : (lo + 1 ≤ k ∧ k < lo + 1 + n) ↔ (lo ≤ k ∧ k < lo + (n + 1)) := by omega
      split
      · rw [ih]; simp only [e]
      · simp only [Sparse.get, hk, if_false, ih]; simp only [e]

omit [DecidableEq α] in
theorem get_below (d : α) (k lo : Nat) (m : Sparse α) (h : k < lo) :
    Sparse.get d (Sparse.below lo m) k = Sparse.get d m k := by
  induction m with
  | nil => rfl
  | cons e m ih =>
    simp only [Sparse.below, List.filter_cons]
    by_cases he : e.1 < lo
    · simp only [he, decide_true, if_true, Sparse.get]
      split <;> [rfl; exact ih]
    · have hek : e.1 ≠ k := by omega
      simp only [he, decide_false, Bool.false_eq_true, if_false, Sparse.get, hek]
      exact ih

omit [DecidableEq α] in
theorem get_above (d : α) (k lo : Nat) (m : Sparse α) (h : lo ≤ k) :
    Sparse.get d (Sparse.above lo m) k = Sparse.get d m k := by
  induction m with
  | nil => rfl
  | cons e m ih =>
    simp only [Sparse.above, List.filter_cons]
    by_cases he : lo ≤ e.1
    · simp only [he, decide_true, if_true, Sparse.get]
      split <;> [rfl; exact ih]
    · have hek : e.1 ≠ k := by omega
      simp only [he, decide_false, Bool.false_eq_true, if_false, Sparse.get, hek]
      exact ih

omit [DecidableEq α] in
theorem mem_below {lo : Nat} {m : Sparse α} {e : Nat × α} (h : e ∈ Sparse.below lo m) : e.1 < lo := by
  simp [Sparse.below] at h; exact h.2

omit [DecidableEq α] in
theorem mem_above {lo : Nat} {m : Sparse α} {e : Nat × α} (h : e ∈ Sparse.above lo m) : lo ≤ e.1 := by
  simp [Sparse.above] at h; exact h.2

/-- Read after write, for a run of keys. -/
theorem get_splice (d : α) (m : Sparse α) (lo n : Nat) (f : Nat → α) (k : Nat) :
    Sparse.get d (Sparse.splice d m lo n f) k = if lo ≤ k ∧ k < lo + n then f k else Sparse.get d m k := by
  unfold Sparse.splice
  by_cases h1 : k < lo
  · have hn : ¬ (lo ≤ k ∧ k < lo + n) := by omega
    rw [get_append_left, get_below d k lo m h1, if_neg hn]
    intro e he
    rcases List.mem_append.mp he with he | he
    · have := mem_ofFn d f n lo e he; omega
    · have := mem_above he; omega
  · rw [get_append _ _ _ _ (fun e he => by have := mem_below he; omega)]
    by_cases h2 : k < lo + n
    · rw [get_append_left, get_ofFn]
      · rw [if_pos (by omega), if_pos (by omega)]
      · intro e he; have := mem_above he; omega
    · have hn : ¬ (lo ≤ k ∧ k < lo + n) := by omega
      rw [get_append, get_above d k _ m (by omega), if_neg hn]
      intro e he; have := mem_ofFn d f n lo e he; omega

/-- Read after write, for one key. -/
theorem get_set (d : α) (m : Sparse α) (i k : Nat) (v : α) :
    Sparse.get d (Sparse.set d m i v) k = if k = i then v else Sparse.get d m k := by
  unfold Sparse.set
  rw [get_splice]
  have e : (i ≤ k ∧ k < i + 1) ↔ k = i := by omega
  simp only [e]

@[simp] theorem get_set_same (d : α) (m : Sparse α) (i : Nat) (v : α) :
    Sparse.get d (Sparse.set d m i v) i = v := by simp [get_set]

theorem get_set_ne (d : α) (m : Sparse α) {i k : Nat} (v : α) (h : k ≠ i) :
    Sparse.get d (Sparse.set d m i v) k = Sparse.get d m k := by simp [get_set, h]

theorem wfFrom_mono (d : α) {a b : Nat} (h : a ≤ b) : ∀ {m : Sparse α}, Sparse.wfFrom d b m → Sparse.wfFrom d a m := by
  intro m hm
  cases m with
  | nil => rfl
  | cons e m => simp [Sparse.wfFrom] at hm ⊢; exact ⟨⟨by omega, hm.1.2⟩, hm.2⟩

theorem wfFrom_append (d : α) : ∀ {m m' : Sparse α} {a b : Nat}, Sparse.wfFrom d a m → Sparse.wfFrom d b m' →
    (∀ e ∈ m, e.1 < b) → a ≤ b → Sparse.wfFrom d a (m ++ m') := by
  intro m
  induction m with
  | nil => intro m' a b _ h2 _ hab; exact wfFrom_mono d hab h2
  | cons e m ih =>
    intro m' a b h1 h2 h3 hab
    simp [Sparse.wfFrom] at h1 ⊢
    refine ⟨h1.1, ih h1.2 h2 (fun e' he' => h3 e' (by simp [he'])) ?_⟩
    have := h3 e (by simp); omega

theorem wfFrom_ofFn (d : α) (f : Nat → α) : ∀ n lo, Sparse.wfFrom d lo (Sparse.ofFn d f lo n) := by
  intro n
  induction n with
  | zero => intro lo; rfl
  | succ n ih =>
    intro lo
    simp only [Sparse.ofFn]
    split
    · exact wfFrom_mono d (by omega) (ih (lo + 1))
    · rename_i h
      simp only [Sparse.wfFrom, ih, Bool.and_true]
      simp [h]

theorem wfFrom_filter (d : α) (p : Nat × α → Bool) : ∀ {m : Sparse α} {a : Nat}, Sparse.wfFrom d a m →
    Sparse.wfFrom d a (m.filter p) := by
  intro m
  induction m with
  | nil => intro a h; exact h
  | cons e m ih =>
    intro a h
    simp [Sparse.wfFrom] at h
    by_cases hp : p e
    · simp only [List.filter_cons, hp, if_true]
      simp only [Sparse.wfFrom, ih h.2, Bool.and_true]
      simp [h.1]
    · simp only [List.filter_cons, hp]
      exact wfFrom_mono d (by omega) (ih h.2)

theorem wfFrom_raise (d : α) {b : Nat} : ∀ {m : Sparse α} {a : Nat}, Sparse.wfFrom d a m → (∀ e ∈ m, b ≤ e.1) →
    Sparse.wfFrom d b m := by
  intro m a h hb
  cases m with
  | nil => rfl
  | cons e m => simp [Sparse.wfFrom] at h ⊢; exact ⟨⟨by simpa using hb e (by simp), h.1.2⟩, h.2⟩

/-- A write of a run of keys keeps the canonical form. -/
theorem splice_wf (d : α) {m : Sparse α} (lo n : Nat) (f : Nat → α) (h : Sparse.wf d m) :
    Sparse.wf d (Sparse.splice d m lo n f) := by
  refine wfFrom_append d (b := lo) (wfFrom_filter d _ h) ?_ (fun e he => mem_below he) (by omega)
  refine wfFrom_append d (b := lo + n) (wfFrom_ofFn d f n lo) ?_ (fun e he => (mem_ofFn d f n lo e he).2) (by omega)
  exact wfFrom_raise d (wfFrom_filter d _ h) (fun e he => mem_above he)

/-- A write of one key keeps the canonical form. -/
theorem set_wf (d : α) {m : Sparse α} (i : Nat) (v : α) (h : Sparse.wf d m) : Sparse.wf d (Sparse.set d m i v) :=
  splice_wf d i 1 _ h

end Sys2Proof.Laws
end

