-- ==== Sys2Proof/Laws/State.lean ====
section
/-! SUPPORT. One lemma for each field and each update of the state, and what the register reads give after a write. -/

namespace Sys2Proof.Laws

open Sys2Proof.Machine

@[simp] theorem setCore_cur (s : State) (c : Nat) (x : Core) : (s.setCore c x).cur = s.cur := rfl
@[simp] theorem setCore_agenda (s : State) (c : Nat) (x : Core) : (s.setCore c x).agenda = s.agenda := rfl
@[simp] theorem setCore_rot (s : State) (c : Nat) (x : Core) : (s.setCore c x).rot = s.rot := rfl
@[simp] theorem setCore_fresh (s : State) (c : Nat) (x : Core) : (s.setCore c x).fresh = s.fresh := rfl
@[simp] theorem setCore_note (s : State) (c : Nat) (x : Core) : (s.setCore c x).note = s.note := rfl
@[simp] theorem setCore_latch (s : State) (c : Nat) (x : Core) : (s.setCore c x).latch = s.latch := rfl
@[simp] theorem setCore_dtime (s : State) (c : Nat) (x : Core) : (s.setCore c x).dtime = s.dtime := rfl
@[simp] theorem setCore_tsync (s : State) (c : Nat) (x : Core) : (s.setCore c x).tsync = s.tsync := rfl
@[simp] theorem setCore_slew (s : State) (c : Nat) (x : Core) : (s.setCore c x).slew = s.slew := rfl
@[simp] theorem setCore_slewRem (s : State) (c : Nat) (x : Core) : (s.setCore c x).slewRem = s.slewRem := rfl
@[simp] theorem setCore_mhz (s : State) (c : Nat) (x : Core) : (s.setCore c x).mhz = s.mhz := rfl
@[simp] theorem setCore_tier (s : State) (c : Nat) (x : Core) : (s.setCore c x).tier = s.tier := rfl
@[simp] theorem setCore_lastReq (s : State) (c : Nat) (x : Core) : (s.setCore c x).lastReq = s.lastReq := rfl
@[simp] theorem setCore_lastMem (s : State) (c : Nat) (x : Core) : (s.setCore c x).lastMem = s.lastMem := rfl
@[simp] theorem setCore_boot (s : State) (c : Nat) (x : Core) : (s.setCore c x).boot = s.boot := rfl
@[simp] theorem setCore_mem (s : State) (c : Nat) (x : Core) : (s.setCore c x).mem = s.mem := rfl
@[simp] theorem setCore_lkey (s : State) (c : Nat) (x : Core) : (s.setCore c x).lkey = s.lkey := rfl
@[simp] theorem setCore_back (s : State) (c : Nat) (x : Core) : (s.setCore c x).back = s.back := rfl
@[simp] theorem setCore_pol (s : State) (c : Nat) (x : Core) : (s.setCore c x).pol = s.pol := rfl
@[simp] theorem setCore_blocks (s : State) (c : Nat) (x : Core) : (s.setCore c x).blocks = s.blocks := rfl
@[simp] theorem setCore_polDisc (s : State) (c : Nat) (x : Core) : (s.setCore c x).polDisc = s.polDisc := rfl
@[simp] theorem setCore_badWord (s : State) (c : Nat) (x : Core) : (s.setCore c x).badWord = s.badWord := rfl
@[simp] theorem setCore_pend (s : State) (c : Nat) (x : Core) : (s.setCore c x).pend = s.pend := rfl
@[simp] theorem setCore_remote (s : State) (c : Nat) (x : Core) : (s.setCore c x).remote = s.remote := rfl
@[simp] theorem setCore_episodes (s : State) (c : Nat) (x : Core) : (s.setCore c x).episodes = s.episodes := rfl
@[simp] theorem setCore_cold (s : State) (c : Nat) (x : Core) : (s.setCore c x).cold = s.cold := rfl
@[simp] theorem setCore_badPol (s : State) (c : Nat) (x : Core) : (s.setCore c x).badPol = s.badPol := rfl
@[simp] theorem setCore_issued (s : State) (c : Nat) (x : Core) : (s.setCore c x).issued = s.issued := rfl
@[simp] theorem setCore_peerOut (s : State) (c : Nat) (x : Core) : (s.setCore c x).peerOut = s.peerOut := rfl
@[simp] theorem setCore_sweeps (s : State) (c : Nat) (x : Core) : (s.setCore c x).sweeps = s.sweeps := rfl
@[simp] theorem setCore_ranges (s : State) (c : Nat) (x : Core) : (s.setCore c x).ranges = s.ranges := rfl
@[simp] theorem setCore_numVfs (s : State) (c : Nat) (x : Core) : (s.setCore c x).numVfs = s.numVfs := rfl
@[simp] theorem setCore_irqDue (s : State) (c : Nat) (x : Core) : (s.setCore c x).irqDue = s.irqDue := rfl
@[simp] theorem setCore_ltr (s : State) (c : Nat) (x : Core) : (s.setCore c x).ltr = s.ltr := rfl
@[simp] theorem setCore_hold (s : State) (c : Nat) (x : Core) : (s.setCore c x).hold = s.hold := rfl
@[simp] theorem setCore_quar (s : State) (c : Nat) (x : Core) : (s.setCore c x).quar = s.quar := rfl
@[simp] theorem setCore_qepoch (s : State) (c : Nat) (x : Core) : (s.setCore c x).qepoch = s.qepoch := rfl
@[simp] theorem setCore_ctxs (s : State) (c : Nat) (x : Core) : (s.setCore c x).ctxs = s.ctxs := rfl
@[simp] theorem setCore_fns (s : State) (c : Nat) (x : Core) : (s.setCore c x).fns = s.fns := rfl
@[simp] theorem setCore_mg (s : State) (c : Nat) (x : Core) : (s.setCore c x).mg = s.mg := rfl
@[simp] theorem setCore_kslots (s : State) (c : Nat) (x : Core) : (s.setCore c x).kslots = s.kslots := rfl
@[simp] theorem setCore_zel (s : State) (c : Nat) (x : Core) : (s.setCore c x).zel = s.zel := rfl
@[simp] theorem setCore_seqrs (s : State) (c : Nat) (x : Core) : (s.setCore c x).seqrs = s.seqrs := rfl
@[simp] theorem setCore_launches (s : State) (c : Nat) (x : Core) : (s.setCore c x).launches = s.launches := rfl
@[simp] theorem setCore_accepted (s : State) (c : Nat) (x : Core) : (s.setCore c x).accepted = s.accepted := rfl
@[simp] theorem setCore_requeued (s : State) (c : Nat) (x : Core) : (s.setCore c x).requeued = s.requeued := rfl
@[simp] theorem setCore_saved (s : State) (c : Nat) (x : Core) : (s.setCore c x).saved = s.saved := rfl
@[simp] theorem setCore_dctr (s : State) (c : Nat) (x : Core) : (s.setCore c x).dctr = s.dctr := rfl
@[simp] theorem setCore_gangs (s : State) (c : Nat) (x : Core) : (s.setCore c x).gangs = s.gangs := rfl
@[simp] theorem setCore_gangNo (s : State) (c : Nat) (x : Core) : (s.setCore c x).gangNo = s.gangNo := rfl
@[simp] theorem setCore_spills (s : State) (c : Nat) (x : Core) : (s.setCore c x).spills = s.spills := rfl
@[simp] theorem setCore_slots (s : State) (c : Nat) (x : Core) : (s.setCore c x).slots = s.slots := rfl
@[simp] theorem setCore_debt (s : State) (c : Nat) (x : Core) : (s.setCore c x).debt = s.debt := rfl

@[simp] theorem putCore_cur (s : State) (x : Core) : (s.putCore x).cur = s.cur := rfl
@[simp] theorem putCore_agenda (s : State) (x : Core) : (s.putCore x).agenda = s.agenda := rfl
@[simp] theorem putCore_rot (s : State) (x : Core) : (s.putCore x).rot = s.rot := rfl
@[simp] theorem putCore_fresh (s : State) (x : Core) : (s.putCore x).fresh = s.fresh := rfl
@[simp] theorem putCore_note (s : State) (x : Core) : (s.putCore x).note = s.note := rfl
@[simp] theorem putCore_latch (s : State) (x : Core) : (s.putCore x).latch = s.latch := rfl
@[simp] theorem putCore_dtime (s : State) (x : Core) : (s.putCore x).dtime = s.dtime := rfl
@[simp] theorem putCore_tsync (s : State) (x : Core) : (s.putCore x).tsync = s.tsync := rfl
@[simp] theorem putCore_slew (s : State) (x : Core) : (s.putCore x).slew = s.slew := rfl
@[simp] theorem putCore_slewRem (s : State) (x : Core) : (s.putCore x).slewRem = s.slewRem := rfl
@[simp] theorem putCore_mhz (s : State) (x : Core) : (s.putCore x).mhz = s.mhz := rfl
@[simp] theorem putCore_tier (s : State) (x : Core) : (s.putCore x).tier = s.tier := rfl
@[simp] theorem putCore_lastReq (s : State) (x : Core) : (s.putCore x).lastReq = s.lastReq := rfl
@[simp] theorem putCore_lastMem (s : State) (x : Core) : (s.putCore x).lastMem = s.lastMem := rfl
@[simp] theorem putCore_boot (s : State) (x : Core) : (s.putCore x).boot = s.boot := rfl
@[simp] theorem putCore_mem (s : State) (x : Core) : (s.putCore x).mem = s.mem := rfl
@[simp] theorem putCore_lkey (s : State) (x : Core) : (s.putCore x).lkey = s.lkey := rfl
@[simp] theorem putCore_back (s : State) (x : Core) : (s.putCore x).back = s.back := rfl
@[simp] theorem putCore_pol (s : State) (x : Core) : (s.putCore x).pol = s.pol := rfl
@[simp] theorem putCore_blocks (s : State) (x : Core) : (s.putCore x).blocks = s.blocks := rfl
@[simp] theorem putCore_polDisc (s : State) (x : Core) : (s.putCore x).polDisc = s.polDisc := rfl
@[simp] theorem putCore_badWord (s : State) (x : Core) : (s.putCore x).badWord = s.badWord := rfl
@[simp] theorem putCore_pend (s : State) (x : Core) : (s.putCore x).pend = s.pend := rfl
@[simp] theorem putCore_remote (s : State) (x : Core) : (s.putCore x).remote = s.remote := rfl
@[simp] theorem putCore_episodes (s : State) (x : Core) : (s.putCore x).episodes = s.episodes := rfl
@[simp] theorem putCore_cold (s : State) (x : Core) : (s.putCore x).cold = s.cold := rfl
@[simp] theorem putCore_badPol (s : State) (x : Core) : (s.putCore x).badPol = s.badPol := rfl
@[simp] theorem putCore_issued (s : State) (x : Core) : (s.putCore x).issued = s.issued := rfl
@[simp] theorem putCore_peerOut (s : State) (x : Core) : (s.putCore x).peerOut = s.peerOut := rfl
@[simp] theorem putCore_sweeps (s : State) (x : Core) : (s.putCore x).sweeps = s.sweeps := rfl
@[simp] theorem putCore_ranges (s : State) (x : Core) : (s.putCore x).ranges = s.ranges := rfl
@[simp] theorem putCore_numVfs (s : State) (x : Core) : (s.putCore x).numVfs = s.numVfs := rfl
@[simp] theorem putCore_irqDue (s : State) (x : Core) : (s.putCore x).irqDue = s.irqDue := rfl
@[simp] theorem putCore_ltr (s : State) (x : Core) : (s.putCore x).ltr = s.ltr := rfl
@[simp] theorem putCore_hold (s : State) (x : Core) : (s.putCore x).hold = s.hold := rfl
@[simp] theorem putCore_quar (s : State) (x : Core) : (s.putCore x).quar = s.quar := rfl
@[simp] theorem putCore_qepoch (s : State) (x : Core) : (s.putCore x).qepoch = s.qepoch := rfl
@[simp] theorem putCore_ctxs (s : State) (x : Core) : (s.putCore x).ctxs = s.ctxs := rfl
@[simp] theorem putCore_fns (s : State) (x : Core) : (s.putCore x).fns = s.fns := rfl
@[simp] theorem putCore_mg (s : State) (x : Core) : (s.putCore x).mg = s.mg := rfl
@[simp] theorem putCore_kslots (s : State) (x : Core) : (s.putCore x).kslots = s.kslots := rfl
@[simp] theorem putCore_zel (s : State) (x : Core) : (s.putCore x).zel = s.zel := rfl
@[simp] theorem putCore_seqrs (s : State) (x : Core) : (s.putCore x).seqrs = s.seqrs := rfl
@[simp] theorem putCore_launches (s : State) (x : Core) : (s.putCore x).launches = s.launches := rfl
@[simp] theorem putCore_accepted (s : State) (x : Core) : (s.putCore x).accepted = s.accepted := rfl
@[simp] theorem putCore_requeued (s : State) (x : Core) : (s.putCore x).requeued = s.requeued := rfl
@[simp] theorem putCore_saved (s : State) (x : Core) : (s.putCore x).saved = s.saved := rfl
@[simp] theorem putCore_dctr (s : State) (x : Core) : (s.putCore x).dctr = s.dctr := rfl
@[simp] theorem putCore_gangs (s : State) (x : Core) : (s.putCore x).gangs = s.gangs := rfl
@[simp] theorem putCore_gangNo (s : State) (x : Core) : (s.putCore x).gangNo = s.gangNo := rfl
@[simp] theorem putCore_spills (s : State) (x : Core) : (s.putCore x).spills = s.spills := rfl
@[simp] theorem putCore_slots (s : State) (x : Core) : (s.putCore x).slots = s.slots := rfl
@[simp] theorem putCore_debt (s : State) (x : Core) : (s.putCore x).debt = s.debt := rfl

@[simp] theorem setSeqr_cur (s : State) (n : Nat) (x : Seqr) : (s.setSeqr n x).cur = s.cur := rfl
@[simp] theorem setSeqr_agenda (s : State) (n : Nat) (x : Seqr) : (s.setSeqr n x).agenda = s.agenda := rfl
@[simp] theorem setSeqr_rot (s : State) (n : Nat) (x : Seqr) : (s.setSeqr n x).rot = s.rot := rfl
@[simp] theorem setSeqr_fresh (s : State) (n : Nat) (x : Seqr) : (s.setSeqr n x).fresh = s.fresh := rfl
@[simp] theorem setSeqr_note (s : State) (n : Nat) (x : Seqr) : (s.setSeqr n x).note = s.note := rfl
@[simp] theorem setSeqr_latch (s : State) (n : Nat) (x : Seqr) : (s.setSeqr n x).latch = s.latch := rfl
@[simp] theorem setSeqr_dtime (s : State) (n : Nat) (x : Seqr) : (s.setSeqr n x).dtime = s.dtime := rfl
@[simp] theorem setSeqr_tsync (s : State) (n : Nat) (x : Seqr) : (s.setSeqr n x).tsync = s.tsync := rfl
@[simp] theorem setSeqr_slew (s : State) (n : Nat) (x : Seqr) : (s.setSeqr n x).slew = s.slew := rfl
@[simp] theorem setSeqr_slewRem (s : State) (n : Nat) (x : Seqr) : (s.setSeqr n x).slewRem = s.slewRem := rfl
@[simp] theorem setSeqr_mhz (s : State) (n : Nat) (x : Seqr) : (s.setSeqr n x).mhz = s.mhz := rfl
@[simp] theorem setSeqr_tier (s : State) (n : Nat) (x : Seqr) : (s.setSeqr n x).tier = s.tier := rfl
@[simp] theorem setSeqr_lastReq (s : State) (n : Nat) (x : Seqr) : (s.setSeqr n x).lastReq = s.lastReq := rfl
@[simp] theorem setSeqr_lastMem (s : State) (n : Nat) (x : Seqr) : (s.setSeqr n x).lastMem = s.lastMem := rfl
@[simp] theorem setSeqr_boot (s : State) (n : Nat) (x : Seqr) : (s.setSeqr n x).boot = s.boot := rfl
@[simp] theorem setSeqr_mem (s : State) (n : Nat) (x : Seqr) : (s.setSeqr n x).mem = s.mem := rfl
@[simp] theorem setSeqr_lkey (s : State) (n : Nat) (x : Seqr) : (s.setSeqr n x).lkey = s.lkey := rfl
@[simp] theorem setSeqr_back (s : State) (n : Nat) (x : Seqr) : (s.setSeqr n x).back = s.back := rfl
@[simp] theorem setSeqr_pol (s : State) (n : Nat) (x : Seqr) : (s.setSeqr n x).pol = s.pol := rfl
@[simp] theorem setSeqr_blocks (s : State) (n : Nat) (x : Seqr) : (s.setSeqr n x).blocks = s.blocks := rfl
@[simp] theorem setSeqr_polDisc (s : State) (n : Nat) (x : Seqr) : (s.setSeqr n x).polDisc = s.polDisc := rfl
@[simp] theorem setSeqr_badWord (s : State) (n : Nat) (x : Seqr) : (s.setSeqr n x).badWord = s.badWord := rfl
@[simp] theorem setSeqr_pend (s : State) (n : Nat) (x : Seqr) : (s.setSeqr n x).pend = s.pend := rfl
@[simp] theorem setSeqr_remote (s : State) (n : Nat) (x : Seqr) : (s.setSeqr n x).remote = s.remote := rfl
@[simp] theorem setSeqr_episodes (s : State) (n : Nat) (x : Seqr) : (s.setSeqr n x).episodes = s.episodes := rfl
@[simp] theorem setSeqr_cold (s : State) (n : Nat) (x : Seqr) : (s.setSeqr n x).cold = s.cold := rfl
@[simp] theorem setSeqr_badPol (s : State) (n : Nat) (x : Seqr) : (s.setSeqr n x).badPol = s.badPol := rfl
@[simp] theorem setSeqr_issued (s : State) (n : Nat) (x : Seqr) : (s.setSeqr n x).issued = s.issued := rfl
@[simp] theorem setSeqr_peerOut (s : State) (n : Nat) (x : Seqr) : (s.setSeqr n x).peerOut = s.peerOut := rfl
@[simp] theorem setSeqr_sweeps (s : State) (n : Nat) (x : Seqr) : (s.setSeqr n x).sweeps = s.sweeps := rfl
@[simp] theorem setSeqr_ranges (s : State) (n : Nat) (x : Seqr) : (s.setSeqr n x).ranges = s.ranges := rfl
@[simp] theorem setSeqr_numVfs (s : State) (n : Nat) (x : Seqr) : (s.setSeqr n x).numVfs = s.numVfs := rfl
@[simp] theorem setSeqr_irqDue (s : State) (n : Nat) (x : Seqr) : (s.setSeqr n x).irqDue = s.irqDue := rfl
@[simp] theorem setSeqr_ltr (s : State) (n : Nat) (x : Seqr) : (s.setSeqr n x).ltr = s.ltr := rfl
@[simp] theorem setSeqr_hold (s : State) (n : Nat) (x : Seqr) : (s.setSeqr n x).hold = s.hold := rfl
@[simp] theorem setSeqr_quar (s : State) (n : Nat) (x : Seqr) : (s.setSeqr n x).quar = s.quar := rfl
@[simp] theorem setSeqr_qepoch (s : State) (n : Nat) (x : Seqr) : (s.setSeqr n x).qepoch = s.qepoch := rfl
@[simp] theorem setSeqr_ctxs (s : State) (n : Nat) (x : Seqr) : (s.setSeqr n x).ctxs = s.ctxs := rfl
@[simp] theorem setSeqr_fns (s : State) (n : Nat) (x : Seqr) : (s.setSeqr n x).fns = s.fns := rfl
@[simp] theorem setSeqr_mg (s : State) (n : Nat) (x : Seqr) : (s.setSeqr n x).mg = s.mg := rfl
@[simp] theorem setSeqr_kslots (s : State) (n : Nat) (x : Seqr) : (s.setSeqr n x).kslots = s.kslots := rfl
@[simp] theorem setSeqr_zel (s : State) (n : Nat) (x : Seqr) : (s.setSeqr n x).zel = s.zel := rfl
@[simp] theorem setSeqr_cores (s : State) (n : Nat) (x : Seqr) : (s.setSeqr n x).cores = s.cores := rfl
@[simp] theorem setSeqr_launches (s : State) (n : Nat) (x : Seqr) : (s.setSeqr n x).launches = s.launches := rfl
@[simp] theorem setSeqr_accepted (s : State) (n : Nat) (x : Seqr) : (s.setSeqr n x).accepted = s.accepted := rfl
@[simp] theorem setSeqr_requeued (s : State) (n : Nat) (x : Seqr) : (s.setSeqr n x).requeued = s.requeued := rfl
@[simp] theorem setSeqr_saved (s : State) (n : Nat) (x : Seqr) : (s.setSeqr n x).saved = s.saved := rfl
@[simp] theorem setSeqr_dctr (s : State) (n : Nat) (x : Seqr) : (s.setSeqr n x).dctr = s.dctr := rfl
@[simp] theorem setSeqr_gangs (s : State) (n : Nat) (x : Seqr) : (s.setSeqr n x).gangs = s.gangs := rfl
@[simp] theorem setSeqr_gangNo (s : State) (n : Nat) (x : Seqr) : (s.setSeqr n x).gangNo = s.gangNo := rfl
@[simp] theorem setSeqr_spills (s : State) (n : Nat) (x : Seqr) : (s.setSeqr n x).spills = s.spills := rfl
@[simp] theorem setSeqr_slots (s : State) (n : Nat) (x : Seqr) : (s.setSeqr n x).slots = s.slots := rfl
@[simp] theorem setSeqr_debt (s : State) (n : Nat) (x : Seqr) : (s.setSeqr n x).debt = s.debt := rfl

@[simp] theorem setCtx_cur (s : State) (c : Nat) (x : Ctx) : (s.setCtx c x).cur = s.cur := rfl
@[simp] theorem setCtx_agenda (s : State) (c : Nat) (x : Ctx) : (s.setCtx c x).agenda = s.agenda := rfl
@[simp] theorem setCtx_rot (s : State) (c : Nat) (x : Ctx) : (s.setCtx c x).rot = s.rot := rfl
@[simp] theorem setCtx_fresh (s : State) (c : Nat) (x : Ctx) : (s.setCtx c x).fresh = s.fresh := rfl
@[simp] theorem setCtx_note (s : State) (c : Nat) (x : Ctx) : (s.setCtx c x).note = s.note := rfl
@[simp] theorem setCtx_latch (s : State) (c : Nat) (x : Ctx) : (s.setCtx c x).latch = s.latch := rfl
@[simp] theorem setCtx_dtime (s : State) (c : Nat) (x : Ctx) : (s.setCtx c x).dtime = s.dtime := rfl
@[simp] theorem setCtx_tsync (s : State) (c : Nat) (x : Ctx) : (s.setCtx c x).tsync = s.tsync := rfl
@[simp] theorem setCtx_slew (s : State) (c : Nat) (x : Ctx) : (s.setCtx c x).slew = s.slew := rfl
@[simp] theorem setCtx_slewRem (s : State) (c : Nat) (x : Ctx) : (s.setCtx c x).slewRem = s.slewRem := rfl
@[simp] theorem setCtx_mhz (s : State) (c : Nat) (x : Ctx) : (s.setCtx c x).mhz = s.mhz := rfl
@[simp] theorem setCtx_tier (s : State) (c : Nat) (x : Ctx) : (s.setCtx c x).tier = s.tier := rfl
@[simp] theorem setCtx_lastReq (s : State) (c : Nat) (x : Ctx) : (s.setCtx c x).lastReq = s.lastReq := rfl
@[simp] theorem setCtx_lastMem (s : State) (c : Nat) (x : Ctx) : (s.setCtx c x).lastMem = s.lastMem := rfl
@[simp] theorem setCtx_boot (s : State) (c : Nat) (x : Ctx) : (s.setCtx c x).boot = s.boot := rfl
@[simp] theorem setCtx_mem (s : State) (c : Nat) (x : Ctx) : (s.setCtx c x).mem = s.mem := rfl
@[simp] theorem setCtx_lkey (s : State) (c : Nat) (x : Ctx) : (s.setCtx c x).lkey = s.lkey := rfl
@[simp] theorem setCtx_back (s : State) (c : Nat) (x : Ctx) : (s.setCtx c x).back = s.back := rfl
@[simp] theorem setCtx_pol (s : State) (c : Nat) (x : Ctx) : (s.setCtx c x).pol = s.pol := rfl
@[simp] theorem setCtx_blocks (s : State) (c : Nat) (x : Ctx) : (s.setCtx c x).blocks = s.blocks := rfl
@[simp] theorem setCtx_polDisc (s : State) (c : Nat) (x : Ctx) : (s.setCtx c x).polDisc = s.polDisc := rfl
@[simp] theorem setCtx_badWord (s : State) (c : Nat) (x : Ctx) : (s.setCtx c x).badWord = s.badWord := rfl
@[simp] theorem setCtx_pend (s : State) (c : Nat) (x : Ctx) : (s.setCtx c x).pend = s.pend := rfl
@[simp] theorem setCtx_remote (s : State) (c : Nat) (x : Ctx) : (s.setCtx c x).remote = s.remote := rfl
@[simp] theorem setCtx_episodes (s : State) (c : Nat) (x : Ctx) : (s.setCtx c x).episodes = s.episodes := rfl
@[simp] theorem setCtx_cold (s : State) (c : Nat) (x : Ctx) : (s.setCtx c x).cold = s.cold := rfl
@[simp] theorem setCtx_badPol (s : State) (c : Nat) (x : Ctx) : (s.setCtx c x).badPol = s.badPol := rfl
@[simp] theorem setCtx_issued (s : State) (c : Nat) (x : Ctx) : (s.setCtx c x).issued = s.issued := rfl
@[simp] theorem setCtx_peerOut (s : State) (c : Nat) (x : Ctx) : (s.setCtx c x).peerOut = s.peerOut := rfl
@[simp] theorem setCtx_sweeps (s : State) (c : Nat) (x : Ctx) : (s.setCtx c x).sweeps = s.sweeps := rfl
@[simp] theorem setCtx_ranges (s : State) (c : Nat) (x : Ctx) : (s.setCtx c x).ranges = s.ranges := rfl
@[simp] theorem setCtx_numVfs (s : State) (c : Nat) (x : Ctx) : (s.setCtx c x).numVfs = s.numVfs := rfl
@[simp] theorem setCtx_irqDue (s : State) (c : Nat) (x : Ctx) : (s.setCtx c x).irqDue = s.irqDue := rfl
@[simp] theorem setCtx_ltr (s : State) (c : Nat) (x : Ctx) : (s.setCtx c x).ltr = s.ltr := rfl
@[simp] theorem setCtx_hold (s : State) (c : Nat) (x : Ctx) : (s.setCtx c x).hold = s.hold := rfl
@[simp] theorem setCtx_quar (s : State) (c : Nat) (x : Ctx) : (s.setCtx c x).quar = s.quar := rfl
@[simp] theorem setCtx_qepoch (s : State) (c : Nat) (x : Ctx) : (s.setCtx c x).qepoch = s.qepoch := rfl
@[simp] theorem setCtx_fns (s : State) (c : Nat) (x : Ctx) : (s.setCtx c x).fns = s.fns := rfl
@[simp] theorem setCtx_mg (s : State) (c : Nat) (x : Ctx) : (s.setCtx c x).mg = s.mg := rfl
@[simp] theorem setCtx_kslots (s : State) (c : Nat) (x : Ctx) : (s.setCtx c x).kslots = s.kslots := rfl
@[simp] theorem setCtx_zel (s : State) (c : Nat) (x : Ctx) : (s.setCtx c x).zel = s.zel := rfl
@[simp] theorem setCtx_cores (s : State) (c : Nat) (x : Ctx) : (s.setCtx c x).cores = s.cores := rfl
@[simp] theorem setCtx_seqrs (s : State) (c : Nat) (x : Ctx) : (s.setCtx c x).seqrs = s.seqrs := rfl
@[simp] theorem setCtx_launches (s : State) (c : Nat) (x : Ctx) : (s.setCtx c x).launches = s.launches := rfl
@[simp] theorem setCtx_accepted (s : State) (c : Nat) (x : Ctx) : (s.setCtx c x).accepted = s.accepted := rfl
@[simp] theorem setCtx_requeued (s : State) (c : Nat) (x : Ctx) : (s.setCtx c x).requeued = s.requeued := rfl
@[simp] theorem setCtx_saved (s : State) (c : Nat) (x : Ctx) : (s.setCtx c x).saved = s.saved := rfl
@[simp] theorem setCtx_dctr (s : State) (c : Nat) (x : Ctx) : (s.setCtx c x).dctr = s.dctr := rfl
@[simp] theorem setCtx_gangs (s : State) (c : Nat) (x : Ctx) : (s.setCtx c x).gangs = s.gangs := rfl
@[simp] theorem setCtx_gangNo (s : State) (c : Nat) (x : Ctx) : (s.setCtx c x).gangNo = s.gangNo := rfl
@[simp] theorem setCtx_spills (s : State) (c : Nat) (x : Ctx) : (s.setCtx c x).spills = s.spills := rfl
@[simp] theorem setCtx_slots (s : State) (c : Nat) (x : Ctx) : (s.setCtx c x).slots = s.slots := rfl
@[simp] theorem setCtx_debt (s : State) (c : Nat) (x : Ctx) : (s.setCtx c x).debt = s.debt := rfl

@[simp] theorem setFn_cur (s : State) (f : Nat) (x : Fn) : (s.setFn f x).cur = s.cur := rfl
@[simp] theorem setFn_agenda (s : State) (f : Nat) (x : Fn) : (s.setFn f x).agenda = s.agenda := rfl
@[simp] theorem setFn_rot (s : State) (f : Nat) (x : Fn) : (s.setFn f x).rot = s.rot := rfl
@[simp] theorem setFn_fresh (s : State) (f : Nat) (x : Fn) : (s.setFn f x).fresh = s.fresh := rfl
@[simp] theorem setFn_note (s : State) (f : Nat) (x : Fn) : (s.setFn f x).note = s.note := rfl
@[simp] theorem setFn_latch (s : State) (f : Nat) (x : Fn) : (s.setFn f x).latch = s.latch := rfl
@[simp] theorem setFn_dtime (s : State) (f : Nat) (x : Fn) : (s.setFn f x).dtime = s.dtime := rfl
@[simp] theorem setFn_tsync (s : State) (f : Nat) (x : Fn) : (s.setFn f x).tsync = s.tsync := rfl
@[simp] theorem setFn_slew (s : State) (f : Nat) (x : Fn) : (s.setFn f x).slew = s.slew := rfl
@[simp] theorem setFn_slewRem (s : State) (f : Nat) (x : Fn) : (s.setFn f x).slewRem = s.slewRem := rfl
@[simp] theorem setFn_mhz (s : State) (f : Nat) (x : Fn) : (s.setFn f x).mhz = s.mhz := rfl
@[simp] theorem setFn_tier (s : State) (f : Nat) (x : Fn) : (s.setFn f x).tier = s.tier := rfl
@[simp] theorem setFn_lastReq (s : State) (f : Nat) (x : Fn) : (s.setFn f x).lastReq = s.lastReq := rfl
@[simp] theorem setFn_lastMem (s : State) (f : Nat) (x : Fn) : (s.setFn f x).lastMem = s.lastMem := rfl
@[simp] theorem setFn_boot (s : State) (f : Nat) (x : Fn) : (s.setFn f x).boot = s.boot := rfl
@[simp] theorem setFn_mem (s : State) (f : Nat) (x : Fn) : (s.setFn f x).mem = s.mem := rfl
@[simp] theorem setFn_lkey (s : State) (f : Nat) (x : Fn) : (s.setFn f x).lkey = s.lkey := rfl
@[simp] theorem setFn_back (s : State) (f : Nat) (x : Fn) : (s.setFn f x).back = s.back := rfl
@[simp] theorem setFn_pol (s : State) (f : Nat) (x : Fn) : (s.setFn f x).pol = s.pol := rfl
@[simp] theorem setFn_blocks (s : State) (f : Nat) (x : Fn) : (s.setFn f x).blocks = s.blocks := rfl
@[simp] theorem setFn_polDisc (s : State) (f : Nat) (x : Fn) : (s.setFn f x).polDisc = s.polDisc := rfl
@[simp] theorem setFn_badWord (s : State) (f : Nat) (x : Fn) : (s.setFn f x).badWord = s.badWord := rfl
@[simp] theorem setFn_pend (s : State) (f : Nat) (x : Fn) : (s.setFn f x).pend = s.pend := rfl
@[simp] theorem setFn_remote (s : State) (f : Nat) (x : Fn) : (s.setFn f x).remote = s.remote := rfl
@[simp] theorem setFn_episodes (s : State) (f : Nat) (x : Fn) : (s.setFn f x).episodes = s.episodes := rfl
@[simp] theorem setFn_cold (s : State) (f : Nat) (x : Fn) : (s.setFn f x).cold = s.cold := rfl
@[simp] theorem setFn_badPol (s : State) (f : Nat) (x : Fn) : (s.setFn f x).badPol = s.badPol := rfl
@[simp] theorem setFn_issued (s : State) (f : Nat) (x : Fn) : (s.setFn f x).issued = s.issued := rfl
@[simp] theorem setFn_peerOut (s : State) (f : Nat) (x : Fn) : (s.setFn f x).peerOut = s.peerOut := rfl
@[simp] theorem setFn_sweeps (s : State) (f : Nat) (x : Fn) : (s.setFn f x).sweeps = s.sweeps := rfl
@[simp] theorem setFn_ranges (s : State) (f : Nat) (x : Fn) : (s.setFn f x).ranges = s.ranges := rfl
@[simp] theorem setFn_numVfs (s : State) (f : Nat) (x : Fn) : (s.setFn f x).numVfs = s.numVfs := rfl
@[simp] theorem setFn_irqDue (s : State) (f : Nat) (x : Fn) : (s.setFn f x).irqDue = s.irqDue := rfl
@[simp] theorem setFn_ltr (s : State) (f : Nat) (x : Fn) : (s.setFn f x).ltr = s.ltr := rfl
@[simp] theorem setFn_hold (s : State) (f : Nat) (x : Fn) : (s.setFn f x).hold = s.hold := rfl
@[simp] theorem setFn_quar (s : State) (f : Nat) (x : Fn) : (s.setFn f x).quar = s.quar := rfl
@[simp] theorem setFn_qepoch (s : State) (f : Nat) (x : Fn) : (s.setFn f x).qepoch = s.qepoch := rfl
@[simp] theorem setFn_ctxs (s : State) (f : Nat) (x : Fn) : (s.setFn f x).ctxs = s.ctxs := rfl
@[simp] theorem setFn_mg (s : State) (f : Nat) (x : Fn) : (s.setFn f x).mg = s.mg := rfl
@[simp] theorem setFn_kslots (s : State) (f : Nat) (x : Fn) : (s.setFn f x).kslots = s.kslots := rfl
@[simp] theorem setFn_zel (s : State) (f : Nat) (x : Fn) : (s.setFn f x).zel = s.zel := rfl
@[simp] theorem setFn_cores (s : State) (f : Nat) (x : Fn) : (s.setFn f x).cores = s.cores := rfl
@[simp] theorem setFn_seqrs (s : State) (f : Nat) (x : Fn) : (s.setFn f x).seqrs = s.seqrs := rfl
@[simp] theorem setFn_launches (s : State) (f : Nat) (x : Fn) : (s.setFn f x).launches = s.launches := rfl
@[simp] theorem setFn_accepted (s : State) (f : Nat) (x : Fn) : (s.setFn f x).accepted = s.accepted := rfl
@[simp] theorem setFn_requeued (s : State) (f : Nat) (x : Fn) : (s.setFn f x).requeued = s.requeued := rfl
@[simp] theorem setFn_saved (s : State) (f : Nat) (x : Fn) : (s.setFn f x).saved = s.saved := rfl
@[simp] theorem setFn_dctr (s : State) (f : Nat) (x : Fn) : (s.setFn f x).dctr = s.dctr := rfl
@[simp] theorem setFn_gangs (s : State) (f : Nat) (x : Fn) : (s.setFn f x).gangs = s.gangs := rfl
@[simp] theorem setFn_gangNo (s : State) (f : Nat) (x : Fn) : (s.setFn f x).gangNo = s.gangNo := rfl
@[simp] theorem setFn_spills (s : State) (f : Nat) (x : Fn) : (s.setFn f x).spills = s.spills := rfl
@[simp] theorem setFn_slots (s : State) (f : Nat) (x : Fn) : (s.setFn f x).slots = s.slots := rfl
@[simp] theorem setFn_debt (s : State) (f : Nat) (x : Fn) : (s.setFn f x).debt = s.debt := rfl

@[simp] theorem setSr_cur (s : State) (c n : Nat) (v : Word) : (s.setSr c n v).cur = s.cur := rfl
@[simp] theorem setSr_agenda (s : State) (c n : Nat) (v : Word) : (s.setSr c n v).agenda = s.agenda := rfl
@[simp] theorem setSr_rot (s : State) (c n : Nat) (v : Word) : (s.setSr c n v).rot = s.rot := rfl
@[simp] theorem setSr_fresh (s : State) (c n : Nat) (v : Word) : (s.setSr c n v).fresh = s.fresh := rfl
@[simp] theorem setSr_note (s : State) (c n : Nat) (v : Word) : (s.setSr c n v).note = s.note := rfl
@[simp] theorem setSr_latch (s : State) (c n : Nat) (v : Word) : (s.setSr c n v).latch = s.latch := rfl
@[simp] theorem setSr_dtime (s : State) (c n : Nat) (v : Word) : (s.setSr c n v).dtime = s.dtime := rfl
@[simp] theorem setSr_tsync (s : State) (c n : Nat) (v : Word) : (s.setSr c n v).tsync = s.tsync := rfl
@[simp] theorem setSr_slew (s : State) (c n : Nat) (v : Word) : (s.setSr c n v).slew = s.slew := rfl
@[simp] theorem setSr_slewRem (s : State) (c n : Nat) (v : Word) : (s.setSr c n v).slewRem = s.slewRem := rfl
@[simp] theorem setSr_mhz (s : State) (c n : Nat) (v : Word) : (s.setSr c n v).mhz = s.mhz := rfl
@[simp] theorem setSr_tier (s : State) (c n : Nat) (v : Word) : (s.setSr c n v).tier = s.tier := rfl
@[simp] theorem setSr_lastReq (s : State) (c n : Nat) (v : Word) : (s.setSr c n v).lastReq = s.lastReq := rfl
@[simp] theorem setSr_lastMem (s : State) (c n : Nat) (v : Word) : (s.setSr c n v).lastMem = s.lastMem := rfl
@[simp] theorem setSr_boot (s : State) (c n : Nat) (v : Word) : (s.setSr c n v).boot = s.boot := rfl
@[simp] theorem setSr_mem (s : State) (c n : Nat) (v : Word) : (s.setSr c n v).mem = s.mem := rfl
@[simp] theorem setSr_lkey (s : State) (c n : Nat) (v : Word) : (s.setSr c n v).lkey = s.lkey := rfl
@[simp] theorem setSr_back (s : State) (c n : Nat) (v : Word) : (s.setSr c n v).back = s.back := rfl
@[simp] theorem setSr_pol (s : State) (c n : Nat) (v : Word) : (s.setSr c n v).pol = s.pol := rfl
@[simp] theorem setSr_blocks (s : State) (c n : Nat) (v : Word) : (s.setSr c n v).blocks = s.blocks := rfl
@[simp] theorem setSr_polDisc (s : State) (c n : Nat) (v : Word) : (s.setSr c n v).polDisc = s.polDisc := rfl
@[simp] theorem setSr_badWord (s : State) (c n : Nat) (v : Word) : (s.setSr c n v).badWord = s.badWord := rfl
@[simp] theorem setSr_pend (s : State) (c n : Nat) (v : Word) : (s.setSr c n v).pend = s.pend := rfl
@[simp] theorem setSr_remote (s : State) (c n : Nat) (v : Word) : (s.setSr c n v).remote = s.remote := rfl
@[simp] theorem setSr_episodes (s : State) (c n : Nat) (v : Word) : (s.setSr c n v).episodes = s.episodes := rfl
@[simp] theorem setSr_cold (s : State) (c n : Nat) (v : Word) : (s.setSr c n v).cold = s.cold := rfl
@[simp] theorem setSr_badPol (s : State) (c n : Nat) (v : Word) : (s.setSr c n v).badPol = s.badPol := rfl
@[simp] theorem setSr_issued (s : State) (c n : Nat) (v : Word) : (s.setSr c n v).issued = s.issued := rfl
@[simp] theorem setSr_peerOut (s : State) (c n : Nat) (v : Word) : (s.setSr c n v).peerOut = s.peerOut := rfl
@[simp] theorem setSr_sweeps (s : State) (c n : Nat) (v : Word) : (s.setSr c n v).sweeps = s.sweeps := rfl
@[simp] theorem setSr_ranges (s : State) (c n : Nat) (v : Word) : (s.setSr c n v).ranges = s.ranges := rfl
@[simp] theorem setSr_numVfs (s : State) (c n : Nat) (v : Word) : (s.setSr c n v).numVfs = s.numVfs := rfl
@[simp] theorem setSr_irqDue (s : State) (c n : Nat) (v : Word) : (s.setSr c n v).irqDue = s.irqDue := rfl
@[simp] theorem setSr_ltr (s : State) (c n : Nat) (v : Word) : (s.setSr c n v).ltr = s.ltr := rfl
@[simp] theorem setSr_hold (s : State) (c n : Nat) (v : Word) : (s.setSr c n v).hold = s.hold := rfl
@[simp] theorem setSr_quar (s : State) (c n : Nat) (v : Word) : (s.setSr c n v).quar = s.quar := rfl
@[simp] theorem setSr_qepoch (s : State) (c n : Nat) (v : Word) : (s.setSr c n v).qepoch = s.qepoch := rfl
@[simp] theorem setSr_fns (s : State) (c n : Nat) (v : Word) : (s.setSr c n v).fns = s.fns := rfl
@[simp] theorem setSr_mg (s : State) (c n : Nat) (v : Word) : (s.setSr c n v).mg = s.mg := rfl
@[simp] theorem setSr_kslots (s : State) (c n : Nat) (v : Word) : (s.setSr c n v).kslots = s.kslots := rfl
@[simp] theorem setSr_zel (s : State) (c n : Nat) (v : Word) : (s.setSr c n v).zel = s.zel := rfl
@[simp] theorem setSr_cores (s : State) (c n : Nat) (v : Word) : (s.setSr c n v).cores = s.cores := rfl
@[simp] theorem setSr_seqrs (s : State) (c n : Nat) (v : Word) : (s.setSr c n v).seqrs = s.seqrs := rfl
@[simp] theorem setSr_launches (s : State) (c n : Nat) (v : Word) : (s.setSr c n v).launches = s.launches := rfl
@[simp] theorem setSr_accepted (s : State) (c n : Nat) (v : Word) : (s.setSr c n v).accepted = s.accepted := rfl
@[simp] theorem setSr_requeued (s : State) (c n : Nat) (v : Word) : (s.setSr c n v).requeued = s.requeued := rfl
@[simp] theorem setSr_saved (s : State) (c n : Nat) (v : Word) : (s.setSr c n v).saved = s.saved := rfl
@[simp] theorem setSr_dctr (s : State) (c n : Nat) (v : Word) : (s.setSr c n v).dctr = s.dctr := rfl
@[simp] theorem setSr_gangs (s : State) (c n : Nat) (v : Word) : (s.setSr c n v).gangs = s.gangs := rfl
@[simp] theorem setSr_gangNo (s : State) (c n : Nat) (v : Word) : (s.setSr c n v).gangNo = s.gangNo := rfl
@[simp] theorem setSr_spills (s : State) (c n : Nat) (v : Word) : (s.setSr c n v).spills = s.spills := rfl
@[simp] theorem setSr_slots (s : State) (c n : Nat) (v : Word) : (s.setSr c n v).slots = s.slots := rfl
@[simp] theorem setSr_debt (s : State) (c n : Nat) (v : Word) : (s.setSr c n v).debt = s.debt := rfl

@[simp] theorem setStrm_task (c : Core) (st : Strm) (r : StrmRec) : (c.setStrm st r).task = c.task := rfl
@[simp] theorem setStrm_frozen (c : Core) (st : Strm) (r : StrmRec) : (c.setStrm st r).frozen = c.frozen := rfl
@[simp] theorem setStrm_rcd (c : Core) (st : Strm) (r : StrmRec) : (c.setStrm st r).rcd = c.rcd := rfl
@[simp] theorem setStrm_rcdDue (c : Core) (st : Strm) (r : StrmRec) : (c.setStrm st r).rcdDue = c.rcdDue := rfl
@[simp] theorem setStrm_dead (c : Core) (st : Strm) (r : StrmRec) : (c.setStrm st r).dead = c.dead := rfl
@[simp] theorem setStrm_lastEnd (c : Core) (st : Strm) (r : StrmRec) : (c.setStrm st r).lastEnd = c.lastEnd := rfl
@[simp] theorem setStrm_s (c : Core) (st : Strm) (r : StrmRec) : (c.setStrm st r).s = c.s := rfl
@[simp] theorem setStrm_lc (c : Core) (st : Strm) (r : StrmRec) : (c.setStrm st r).lc = c.lc := rfl
@[simp] theorem setStrm_forked (c : Core) (st : Strm) (r : StrmRec) : (c.setStrm st r).forked = c.forked := rfl
@[simp] theorem setStrm_k (c : Core) (st : Strm) (r : StrmRec) : (c.setStrm st r).k = c.k := rfl
@[simp] theorem setStrm_cpg (c : Core) (st : Strm) (r : StrmRec) : (c.setStrm st r).cpg = c.cpg := rfl
@[simp] theorem setStrm_cb (c : Core) (st : Strm) (r : StrmRec) : (c.setStrm st r).cb = c.cb := rfl
@[simp] theorem setStrm_v (c : Core) (st : Strm) (r : StrmRec) : (c.setStrm st r).v = c.v := rfl
@[simp] theorem setStrm_p (c : Core) (st : Strm) (r : StrmRec) : (c.setStrm st r).p = c.p := rfl
@[simp] theorem setStrm_loops (c : Core) (st : Strm) (r : StrmRec) : (c.setStrm st r).loops = c.loops := rfl
@[simp] theorem setStrm_reps (c : Core) (st : Strm) (r : StrmRec) : (c.setStrm st r).reps = c.reps := rfl
@[simp] theorem setStrm_sb (c : Core) (st : Strm) (r : StrmRec) : (c.setStrm st r).sb = c.sb := rfl
@[simp] theorem setStrm_nmode (c : Core) (st : Strm) (r : StrmRec) : (c.setStrm st r).nmode = c.nmode := rfl
@[simp] theorem setStrm_bfmt (c : Core) (st : Strm) (r : StrmRec) : (c.setStrm st r).bfmt = c.bfmt := rfl
@[simp] theorem setStrm_gens (c : Core) (st : Strm) (r : StrmRec) : (c.setStrm st r).gens = c.gens := rfl
@[simp] theorem setStrm_evcnt (c : Core) (st : Strm) (r : StrmRec) : (c.setStrm st r).evcnt = c.evcnt := rfl
@[simp] theorem setStrm_evwin (c : Core) (st : Strm) (r : StrmRec) : (c.setStrm st r).evwin = c.evwin := rfl
@[simp] theorem setStrm_due (c : Core) (st : Strm) (r : StrmRec) : (c.setStrm st r).due = c.due := rfl
@[simp] theorem setStrm_clkc (c : Core) (st : Strm) (r : StrmRec) : (c.setStrm st r).clkc = c.clkc := rfl
@[simp] theorem setStrm_leftq (c : Core) (st : Strm) (r : StrmRec) : (c.setStrm st r).leftq = c.leftq := rfl
@[simp] theorem setStrm_spad (c : Core) (st : Strm) (r : StrmRec) : (c.setStrm st r).spad = c.spad := rfl
@[simp] theorem setStrm_stash (c : Core) (st : Strm) (r : StrmRec) : (c.setStrm st r).stash = c.stash := rfl
@[simp] theorem setStrm_stLine (c : Core) (st : Strm) (r : StrmRec) : (c.setStrm st r).stLine = c.stLine := rfl
@[simp] theorem setStrm_scLine (c : Core) (st : Strm) (r : StrmRec) : (c.setStrm st r).scLine = c.scLine := rfl
@[simp] theorem setStrm_scByte (c : Core) (st : Strm) (r : StrmRec) : (c.setStrm st r).scByte = c.scByte := rfl
@[simp] theorem setStrm_held (c : Core) (st : Strm) (r : StrmRec) : (c.setStrm st r).held = c.held := rfl
@[simp] theorem setStrm_q (c : Core) (st : Strm) (r : StrmRec) : (c.setStrm st r).q = c.q := rfl
@[simp] theorem setStrm_mx (c : Core) (st : Strm) (r : StrmRec) : (c.setStrm st r).mx = c.mx := rfl
@[simp] theorem setStrm_z (c : Core) (st : Strm) (r : StrmRec) : (c.setStrm st r).z = c.z := rfl
@[simp] theorem setStrm_regs (c : Core) (st : Strm) (r : StrmRec) : (c.setStrm st r).regs = c.regs := rfl
@[simp] theorem setStrm_rows (c : Core) (st : Strm) (r : StrmRec) : (c.setStrm st r).rows = c.rows := rfl
@[simp] theorem setStrm_badRow (c : Core) (st : Strm) (r : StrmRec) : (c.setStrm st r).badRow = c.badRow := rfl
@[simp] theorem setStrm_arr (c : Core) (st : Strm) (r : StrmRec) : (c.setStrm st r).arr = c.arr := rfl
@[simp] theorem setStrm_eng (c : Core) (st : Strm) (r : StrmRec) : (c.setStrm st r).eng = c.eng := rfl
@[simp] theorem setStrm_outBox (c : Core) (st : Strm) (r : StrmRec) : (c.setStrm st r).outBox = c.outBox := rfl
@[simp] theorem setStrm_inBox (c : Core) (st : Strm) (r : StrmRec) : (c.setStrm st r).inBox = c.inBox := rfl
@[simp] theorem setStrm_waitw (c : Core) (st : Strm) (r : StrmRec) : (c.setStrm st r).waitw = c.waitw := rfl
@[simp] theorem setStrm_barSync (c : Core) (st : Strm) (r : StrmRec) : (c.setStrm st r).barSync = c.barSync := rfl
@[simp] theorem setStrm_trunc (c : Core) (st : Strm) (r : StrmRec) : (c.setStrm st r).trunc = c.trunc := rfl
@[simp] theorem setStrm_launchRec (c : Core) (st : Strm) (r : StrmRec) : (c.setStrm st r).launchRec = c.launchRec := rfl
@[simp] theorem setStrm_saves (c : Core) (st : Strm) (r : StrmRec) : (c.setStrm st r).saves = c.saves := rfl
@[simp] theorem setStrm_ecc (c : Core) (st : Strm) (r : StrmRec) : (c.setStrm st r).ecc = c.ecc := rfl

@[simp] theorem fresh_task (c : Core) (cells : List Nat) : (c.fresh cells).task = c.task := rfl
@[simp] theorem fresh_frozen (c : Core) (cells : List Nat) : (c.fresh cells).frozen = c.frozen := rfl
@[simp] theorem fresh_rcd (c : Core) (cells : List Nat) : (c.fresh cells).rcd = c.rcd := rfl
@[simp] theorem fresh_rcdDue (c : Core) (cells : List Nat) : (c.fresh cells).rcdDue = c.rcdDue := rfl
@[simp] theorem fresh_dead (c : Core) (cells : List Nat) : (c.fresh cells).dead = c.dead := rfl
@[simp] theorem fresh_lastEnd (c : Core) (cells : List Nat) : (c.fresh cells).lastEnd = c.lastEnd := rfl
@[simp] theorem fresh_s (c : Core) (cells : List Nat) : (c.fresh cells).s = c.s := rfl
@[simp] theorem fresh_lc (c : Core) (cells : List Nat) : (c.fresh cells).lc = c.lc := rfl
@[simp] theorem fresh_strm (c : Core) (cells : List Nat) : (c.fresh cells).strm = c.strm := rfl
@[simp] theorem fresh_forked (c : Core) (cells : List Nat) : (c.fresh cells).forked = c.forked := rfl
@[simp] theorem fresh_k (c : Core) (cells : List Nat) : (c.fresh cells).k = c.k := rfl
@[simp] theorem fresh_cpg (c : Core) (cells : List Nat) : (c.fresh cells).cpg = c.cpg := rfl
@[simp] theorem fresh_cb (c : Core) (cells : List Nat) : (c.fresh cells).cb = c.cb := rfl
@[simp] theorem fresh_v (c : Core) (cells : List Nat) : (c.fresh cells).v = c.v := rfl
@[simp] theorem fresh_p (c : Core) (cells : List Nat) : (c.fresh cells).p = c.p := rfl
@[simp] theorem fresh_loops (c : Core) (cells : List Nat) : (c.fresh cells).loops = c.loops := rfl
@[simp] theorem fresh_reps (c : Core) (cells : List Nat) : (c.fresh cells).reps = c.reps := rfl
@[simp] theorem fresh_sb (c : Core) (cells : List Nat) : (c.fresh cells).sb = c.sb := rfl
@[simp] theorem fresh_nmode (c : Core) (cells : List Nat) : (c.fresh cells).nmode = c.nmode := rfl
@[simp] theorem fresh_bfmt (c : Core) (cells : List Nat) : (c.fresh cells).bfmt = c.bfmt := rfl
@[simp] theorem fresh_gens (c : Core) (cells : List Nat) : (c.fresh cells).gens = c.gens := rfl
@[simp] theorem fresh_evcnt (c : Core) (cells : List Nat) : (c.fresh cells).evcnt = c.evcnt := rfl
@[simp] theorem fresh_evwin (c : Core) (cells : List Nat) : (c.fresh cells).evwin = c.evwin := rfl
@[simp] theorem fresh_due (c : Core) (cells : List Nat) : (c.fresh cells).due = c.due := rfl
@[simp] theorem fresh_clkc (c : Core) (cells : List Nat) : (c.fresh cells).clkc = c.clkc := rfl
@[simp] theorem fresh_leftq (c : Core) (cells : List Nat) : (c.fresh cells).leftq = c.leftq := rfl
@[simp] theorem fresh_spad (c : Core) (cells : List Nat) : (c.fresh cells).spad = c.spad := rfl
@[simp] theorem fresh_stash (c : Core) (cells : List Nat) : (c.fresh cells).stash = c.stash := rfl
@[simp] theorem fresh_stLine (c : Core) (cells : List Nat) : (c.fresh cells).stLine = c.stLine := rfl
@[simp] theorem fresh_scLine (c : Core) (cells : List Nat) : (c.fresh cells).scLine = c.scLine := rfl
@[simp] theorem fresh_scByte (c : Core) (cells : List Nat) : (c.fresh cells).scByte = c.scByte := rfl
@[simp] theorem fresh_held (c : Core) (cells : List Nat) : (c.fresh cells).held = c.held := rfl
@[simp] theorem fresh_q (c : Core) (cells : List Nat) : (c.fresh cells).q = c.q := rfl
@[simp] theorem fresh_mx (c : Core) (cells : List Nat) : (c.fresh cells).mx = c.mx := rfl
@[simp] theorem fresh_z (c : Core) (cells : List Nat) : (c.fresh cells).z = c.z := rfl
@[simp] theorem fresh_regs (c : Core) (cells : List Nat) : (c.fresh cells).regs = c.regs := rfl
@[simp] theorem fresh_rows (c : Core) (cells : List Nat) : (c.fresh cells).rows = c.rows := rfl
@[simp] theorem fresh_badRow (c : Core) (cells : List Nat) : (c.fresh cells).badRow = c.badRow := rfl
@[simp] theorem fresh_arr (c : Core) (cells : List Nat) : (c.fresh cells).arr = c.arr := rfl
@[simp] theorem fresh_eng (c : Core) (cells : List Nat) : (c.fresh cells).eng = c.eng := rfl
@[simp] theorem fresh_outBox (c : Core) (cells : List Nat) : (c.fresh cells).outBox = c.outBox := rfl
@[simp] theorem fresh_inBox (c : Core) (cells : List Nat) : (c.fresh cells).inBox = c.inBox := rfl
@[simp] theorem fresh_waitw (c : Core) (cells : List Nat) : (c.fresh cells).waitw = c.waitw := rfl
@[simp] theorem fresh_barSync (c : Core) (cells : List Nat) : (c.fresh cells).barSync = c.barSync := rfl
@[simp] theorem fresh_trunc (c : Core) (cells : List Nat) : (c.fresh cells).trunc = c.trunc := rfl
@[simp] theorem fresh_launchRec (c : Core) (cells : List Nat) : (c.fresh cells).launchRec = c.launchRec := rfl
@[simp] theorem fresh_saves (c : Core) (cells : List Nat) : (c.fresh cells).saves = c.saves := rfl

@[simp] theorem putSpad_task (c : Core) (a : Nat) (bs : List Byte) : (c.putSpad a bs).task = c.task := rfl
@[simp] theorem putSpad_frozen (c : Core) (a : Nat) (bs : List Byte) : (c.putSpad a bs).frozen = c.frozen := rfl
@[simp] theorem putSpad_rcd (c : Core) (a : Nat) (bs : List Byte) : (c.putSpad a bs).rcd = c.rcd := rfl
@[simp] theorem putSpad_rcdDue (c : Core) (a : Nat) (bs : List Byte) : (c.putSpad a bs).rcdDue = c.rcdDue := rfl
@[simp] theorem putSpad_dead (c : Core) (a : Nat) (bs : List Byte) : (c.putSpad a bs).dead = c.dead := rfl
@[simp] theorem putSpad_lastEnd (c : Core) (a : Nat) (bs : List Byte) : (c.putSpad a bs).lastEnd = c.lastEnd := rfl
@[simp] theorem putSpad_s (c : Core) (a : Nat) (bs : List Byte) : (c.putSpad a bs).s = c.s := rfl
@[simp] theorem putSpad_lc (c : Core) (a : Nat) (bs : List Byte) : (c.putSpad a bs).lc = c.lc := rfl
@[simp] theorem putSpad_strm (c : Core) (a : Nat) (bs : List Byte) : (c.putSpad a bs).strm = c.strm := rfl
@[simp] theorem putSpad_forked (c : Core) (a : Nat) (bs : List Byte) : (c.putSpad a bs).forked = c.forked := rfl
@[simp] theorem putSpad_k (c : Core) (a : Nat) (bs : List Byte) : (c.putSpad a bs).k = c.k := rfl
@[simp] theorem putSpad_cpg (c : Core) (a : Nat) (bs : List Byte) : (c.putSpad a bs).cpg = c.cpg := rfl
@[simp] theorem putSpad_cb (c : Core) (a : Nat) (bs : List Byte) : (c.putSpad a bs).cb = c.cb := rfl
@[simp] theorem putSpad_v (c : Core) (a : Nat) (bs : List Byte) : (c.putSpad a bs).v = c.v := rfl
@[simp] theorem putSpad_p (c : Core) (a : Nat) (bs : List Byte) : (c.putSpad a bs).p = c.p := rfl
@[simp] theorem putSpad_loops (c : Core) (a : Nat) (bs : List Byte) : (c.putSpad a bs).loops = c.loops := rfl
@[simp] theorem putSpad_reps (c : Core) (a : Nat) (bs : List Byte) : (c.putSpad a bs).reps = c.reps := rfl
@[simp] theorem putSpad_sb (c : Core) (a : Nat) (bs : List Byte) : (c.putSpad a bs).sb = c.sb := rfl
@[simp] theorem putSpad_nmode (c : Core) (a : Nat) (bs : List Byte) : (c.putSpad a bs).nmode = c.nmode := rfl
@[simp] theorem putSpad_bfmt (c : Core) (a : Nat) (bs : List Byte) : (c.putSpad a bs).bfmt = c.bfmt := rfl
@[simp] theorem putSpad_gens (c : Core) (a : Nat) (bs : List Byte) : (c.putSpad a bs).gens = c.gens := rfl
@[simp] theorem putSpad_evcnt (c : Core) (a : Nat) (bs : List Byte) : (c.putSpad a bs).evcnt = c.evcnt := rfl
@[simp] theorem putSpad_evwin (c : Core) (a : Nat) (bs : List Byte) : (c.putSpad a bs).evwin = c.evwin := rfl
@[simp] theorem putSpad_due (c : Core) (a : Nat) (bs : List Byte) : (c.putSpad a bs).due = c.due := rfl
@[simp] theorem putSpad_clkc (c : Core) (a : Nat) (bs : List Byte) : (c.putSpad a bs).clkc = c.clkc := rfl
@[simp] theorem putSpad_leftq (c : Core) (a : Nat) (bs : List Byte) : (c.putSpad a bs).leftq = c.leftq := rfl
@[simp] theorem putSpad_stash (c : Core) (a : Nat) (bs : List Byte) : (c.putSpad a bs).stash = c.stash := rfl
@[simp] theorem putSpad_stLine (c : Core) (a : Nat) (bs : List Byte) : (c.putSpad a bs).stLine = c.stLine := rfl
@[simp] theorem putSpad_scLine (c : Core) (a : Nat) (bs : List Byte) : (c.putSpad a bs).scLine = c.scLine := rfl
@[simp] theorem putSpad_scByte (c : Core) (a : Nat) (bs : List Byte) : (c.putSpad a bs).scByte = c.scByte := rfl
@[simp] theorem putSpad_held (c : Core) (a : Nat) (bs : List Byte) : (c.putSpad a bs).held = c.held := rfl
@[simp] theorem putSpad_q (c : Core) (a : Nat) (bs : List Byte) : (c.putSpad a bs).q = c.q := rfl
@[simp] theorem putSpad_mx (c : Core) (a : Nat) (bs : List Byte) : (c.putSpad a bs).mx = c.mx := rfl
@[simp] theorem putSpad_z (c : Core) (a : Nat) (bs : List Byte) : (c.putSpad a bs).z = c.z := rfl
@[simp] theorem putSpad_regs (c : Core) (a : Nat) (bs : List Byte) : (c.putSpad a bs).regs = c.regs := rfl
@[simp] theorem putSpad_rows (c : Core) (a : Nat) (bs : List Byte) : (c.putSpad a bs).rows = c.rows := rfl
@[simp] theorem putSpad_badRow (c : Core) (a : Nat) (bs : List Byte) : (c.putSpad a bs).badRow = c.badRow := rfl
@[simp] theorem putSpad_arr (c : Core) (a : Nat) (bs : List Byte) : (c.putSpad a bs).arr = c.arr := rfl
@[simp] theorem putSpad_eng (c : Core) (a : Nat) (bs : List Byte) : (c.putSpad a bs).eng = c.eng := rfl
@[simp] theorem putSpad_outBox (c : Core) (a : Nat) (bs : List Byte) : (c.putSpad a bs).outBox = c.outBox := rfl
@[simp] theorem putSpad_inBox (c : Core) (a : Nat) (bs : List Byte) : (c.putSpad a bs).inBox = c.inBox := rfl
@[simp] theorem putSpad_waitw (c : Core) (a : Nat) (bs : List Byte) : (c.putSpad a bs).waitw = c.waitw := rfl
@[simp] theorem putSpad_barSync (c : Core) (a : Nat) (bs : List Byte) : (c.putSpad a bs).barSync = c.barSync := rfl
@[simp] theorem putSpad_trunc (c : Core) (a : Nat) (bs : List Byte) : (c.putSpad a bs).trunc = c.trunc := rfl
@[simp] theorem putSpad_launchRec (c : Core) (a : Nat) (bs : List Byte) : (c.putSpad a bs).launchRec = c.launchRec := rfl
@[simp] theorem putSpad_saves (c : Core) (a : Nat) (bs : List Byte) : (c.putSpad a bs).saves = c.saves := rfl

/-- A write of S[n] reaches only the acting core or sequencer. -/
@[simp] theorem wrS_cur (s : State) (n : Nat) (v : Word) : (s.wrS n v).cur = s.cur := by
  unfold State.wrS; split; rfl; split <;> rfl
@[simp] theorem wrS_agenda (s : State) (n : Nat) (v : Word) : (s.wrS n v).agenda = s.agenda := by
  unfold State.wrS; split; rfl; split <;> rfl
@[simp] theorem wrS_rot (s : State) (n : Nat) (v : Word) : (s.wrS n v).rot = s.rot := by
  unfold State.wrS; split; rfl; split <;> rfl
@[simp] theorem wrS_fresh (s : State) (n : Nat) (v : Word) : (s.wrS n v).fresh = s.fresh := by
  unfold State.wrS; split; rfl; split <;> rfl
@[simp] theorem wrS_note (s : State) (n : Nat) (v : Word) : (s.wrS n v).note = s.note := by
  unfold State.wrS; split; rfl; split <;> rfl
@[simp] theorem wrS_latch (s : State) (n : Nat) (v : Word) : (s.wrS n v).latch = s.latch := by
  unfold State.wrS; split; rfl; split <;> rfl
@[simp] theorem wrS_dtime (s : State) (n : Nat) (v : Word) : (s.wrS n v).dtime = s.dtime := by
  unfold State.wrS; split; rfl; split <;> rfl
@[simp] theorem wrS_tsync (s : State) (n : Nat) (v : Word) : (s.wrS n v).tsync = s.tsync := by
  unfold State.wrS; split; rfl; split <;> rfl
@[simp] theorem wrS_slew (s : State) (n : Nat) (v : Word) : (s.wrS n v).slew = s.slew := by
  unfold State.wrS; split; rfl; split <;> rfl
@[simp] theorem wrS_slewRem (s : State) (n : Nat) (v : Word) : (s.wrS n v).slewRem = s.slewRem := by
  unfold State.wrS; split; rfl; split <;> rfl
@[simp] theorem wrS_mhz (s : State) (n : Nat) (v : Word) : (s.wrS n v).mhz = s.mhz := by
  unfold State.wrS; split; rfl; split <;> rfl
@[simp] theorem wrS_tier (s : State) (n : Nat) (v : Word) : (s.wrS n v).tier = s.tier := by
  unfold State.wrS; split; rfl; split <;> rfl
@[simp] theorem wrS_lastReq (s : State) (n : Nat) (v : Word) : (s.wrS n v).lastReq = s.lastReq := by
  unfold State.wrS; split; rfl; split <;> rfl
@[simp] theorem wrS_lastMem (s : State) (n : Nat) (v : Word) : (s.wrS n v).lastMem = s.lastMem := by
  unfold State.wrS; split; rfl; split <;> rfl
@[simp] theorem wrS_boot (s : State) (n : Nat) (v : Word) : (s.wrS n v).boot = s.boot := by
  unfold State.wrS; split; rfl; split <;> rfl
@[simp] theorem wrS_mem (s : State) (n : Nat) (v : Word) : (s.wrS n v).mem = s.mem := by
  unfold State.wrS; split; rfl; split <;> rfl
@[simp] theorem wrS_lkey (s : State) (n : Nat) (v : Word) : (s.wrS n v).lkey = s.lkey := by
  unfold State.wrS; split; rfl; split <;> rfl
@[simp] theorem wrS_back (s : State) (n : Nat) (v : Word) : (s.wrS n v).back = s.back := by
  unfold State.wrS; split; rfl; split <;> rfl
@[simp] theorem wrS_pol (s : State) (n : Nat) (v : Word) : (s.wrS n v).pol = s.pol := by
  unfold State.wrS; split; rfl; split <;> rfl
@[simp] theorem wrS_blocks (s : State) (n : Nat) (v : Word) : (s.wrS n v).blocks = s.blocks := by
  unfold State.wrS; split; rfl; split <;> rfl
@[simp] theorem wrS_polDisc (s : State) (n : Nat) (v : Word) : (s.wrS n v).polDisc = s.polDisc := by
  unfold State.wrS; split; rfl; split <;> rfl
@[simp] theorem wrS_badWord (s : State) (n : Nat) (v : Word) : (s.wrS n v).badWord = s.badWord := by
  unfold State.wrS; split; rfl; split <;> rfl
@[simp] theorem wrS_pend (s : State) (n : Nat) (v : Word) : (s.wrS n v).pend = s.pend := by
  unfold State.wrS; split; rfl; split <;> rfl
@[simp] theorem wrS_remote (s : State) (n : Nat) (v : Word) : (s.wrS n v).remote = s.remote := by
  unfold State.wrS; split; rfl; split <;> rfl
@[simp] theorem wrS_episodes (s : State) (n : Nat) (v : Word) : (s.wrS n v).episodes = s.episodes := by
  unfold State.wrS; split; rfl; split <;> rfl
@[simp] theorem wrS_cold (s : State) (n : Nat) (v : Word) : (s.wrS n v).cold = s.cold := by
  unfold State.wrS; split; rfl; split <;> rfl
@[simp] theorem wrS_badPol (s : State) (n : Nat) (v : Word) : (s.wrS n v).badPol = s.badPol := by
  unfold State.wrS; split; rfl; split <;> rfl
@[simp] theorem wrS_issued (s : State) (n : Nat) (v : Word) : (s.wrS n v).issued = s.issued := by
  unfold State.wrS; split; rfl; split <;> rfl
@[simp] theorem wrS_peerOut (s : State) (n : Nat) (v : Word) : (s.wrS n v).peerOut = s.peerOut := by
  unfold State.wrS; split; rfl; split <;> rfl
@[simp] theorem wrS_sweeps (s : State) (n : Nat) (v : Word) : (s.wrS n v).sweeps = s.sweeps := by
  unfold State.wrS; split; rfl; split <;> rfl
@[simp] theorem wrS_ranges (s : State) (n : Nat) (v : Word) : (s.wrS n v).ranges = s.ranges := by
  unfold State.wrS; split; rfl; split <;> rfl
@[simp] theorem wrS_numVfs (s : State) (n : Nat) (v : Word) : (s.wrS n v).numVfs = s.numVfs := by
  unfold State.wrS; split; rfl; split <;> rfl
@[simp] theorem wrS_irqDue (s : State) (n : Nat) (v : Word) : (s.wrS n v).irqDue = s.irqDue := by
  unfold State.wrS; split; rfl; split <;> rfl
@[simp] theorem wrS_ltr (s : State) (n : Nat) (v : Word) : (s.wrS n v).ltr = s.ltr := by
  unfold State.wrS; split; rfl; split <;> rfl
@[simp] theorem wrS_hold (s : State) (n : Nat) (v : Word) : (s.wrS n v).hold = s.hold := by
  unfold State.wrS; split; rfl; split <;> rfl
@[simp] theorem wrS_quar (s : State) (n : Nat) (v : Word) : (s.wrS n v).quar = s.quar := by
  unfold State.wrS; split; rfl; split <;> rfl
@[simp] theorem wrS_qepoch (s : State) (n : Nat) (v : Word) : (s.wrS n v).qepoch = s.qepoch := by
  unfold State.wrS; split; rfl; split <;> rfl
@[simp] theorem wrS_ctxs (s : State) (n : Nat) (v : Word) : (s.wrS n v).ctxs = s.ctxs := by
  unfold State.wrS; split; rfl; split <;> rfl
@[simp] theorem wrS_fns (s : State) (n : Nat) (v : Word) : (s.wrS n v).fns = s.fns := by
  unfold State.wrS; split; rfl; split <;> rfl
@[simp] theorem wrS_mg (s : State) (n : Nat) (v : Word) : (s.wrS n v).mg = s.mg := by
  unfold State.wrS; split; rfl; split <;> rfl
@[simp] theorem wrS_kslots (s : State) (n : Nat) (v : Word) : (s.wrS n v).kslots = s.kslots := by
  unfold State.wrS; split; rfl; split <;> rfl
@[simp] theorem wrS_zel (s : State) (n : Nat) (v : Word) : (s.wrS n v).zel = s.zel := by
  unfold State.wrS; split; rfl; split <;> rfl
@[simp] theorem wrS_launches (s : State) (n : Nat) (v : Word) : (s.wrS n v).launches = s.launches := by
  unfold State.wrS; split; rfl; split <;> rfl
@[simp] theorem wrS_accepted (s : State) (n : Nat) (v : Word) : (s.wrS n v).accepted = s.accepted := by
  unfold State.wrS; split; rfl; split <;> rfl
@[simp] theorem wrS_requeued (s : State) (n : Nat) (v : Word) : (s.wrS n v).requeued = s.requeued := by
  unfold State.wrS; split; rfl; split <;> rfl
@[simp] theorem wrS_saved (s : State) (n : Nat) (v : Word) : (s.wrS n v).saved = s.saved := by
  unfold State.wrS; split; rfl; split <;> rfl
@[simp] theorem wrS_dctr (s : State) (n : Nat) (v : Word) : (s.wrS n v).dctr = s.dctr := by
  unfold State.wrS; split; rfl; split <;> rfl
@[simp] theorem wrS_gangs (s : State) (n : Nat) (v : Word) : (s.wrS n v).gangs = s.gangs := by
  unfold State.wrS; split; rfl; split <;> rfl
@[simp] theorem wrS_gangNo (s : State) (n : Nat) (v : Word) : (s.wrS n v).gangNo = s.gangNo := by
  unfold State.wrS; split; rfl; split <;> rfl
@[simp] theorem wrS_spills (s : State) (n : Nat) (v : Word) : (s.wrS n v).spills = s.spills := by
  unfold State.wrS; split; rfl; split <;> rfl
@[simp] theorem wrS_slots (s : State) (n : Nat) (v : Word) : (s.wrS n v).slots = s.slots := by
  unfold State.wrS; split; rfl; split <;> rfl
@[simp] theorem wrS_debt (s : State) (n : Nat) (v : Word) : (s.wrS n v).debt = s.debt := by
  unfold State.wrS; split; rfl; split <;> rfl

@[simp] theorem setPc_cur (s : State) (v : Word) : (s.setPc v).cur = s.cur := by
  unfold State.setPc; split <;> rfl
@[simp] theorem setPc_agenda (s : State) (v : Word) : (s.setPc v).agenda = s.agenda := by
  unfold State.setPc; split <;> rfl
@[simp] theorem setPc_rot (s : State) (v : Word) : (s.setPc v).rot = s.rot := by
  unfold State.setPc; split <;> rfl
@[simp] theorem setPc_fresh (s : State) (v : Word) : (s.setPc v).fresh = s.fresh := by
  unfold State.setPc; split <;> rfl
@[simp] theorem setPc_note (s : State) (v : Word) : (s.setPc v).note = s.note := by
  unfold State.setPc; split <;> rfl
@[simp] theorem setPc_latch (s : State) (v : Word) : (s.setPc v).latch = s.latch := by
  unfold State.setPc; split <;> rfl
@[simp] theorem setPc_dtime (s : State) (v : Word) : (s.setPc v).dtime = s.dtime := by
  unfold State.setPc; split <;> rfl
@[simp] theorem setPc_tsync (s : State) (v : Word) : (s.setPc v).tsync = s.tsync := by
  unfold State.setPc; split <;> rfl
@[simp] theorem setPc_slew (s : State) (v : Word) : (s.setPc v).slew = s.slew := by
  unfold State.setPc; split <;> rfl
@[simp] theorem setPc_slewRem (s : State) (v : Word) : (s.setPc v).slewRem = s.slewRem := by
  unfold State.setPc; split <;> rfl
@[simp] theorem setPc_mhz (s : State) (v : Word) : (s.setPc v).mhz = s.mhz := by
  unfold State.setPc; split <;> rfl
@[simp] theorem setPc_tier (s : State) (v : Word) : (s.setPc v).tier = s.tier := by
  unfold State.setPc; split <;> rfl
@[simp] theorem setPc_lastReq (s : State) (v : Word) : (s.setPc v).lastReq = s.lastReq := by
  unfold State.setPc; split <;> rfl
@[simp] theorem setPc_lastMem (s : State) (v : Word) : (s.setPc v).lastMem = s.lastMem := by
  unfold State.setPc; split <;> rfl
@[simp] theorem setPc_boot (s : State) (v : Word) : (s.setPc v).boot = s.boot := by
  unfold State.setPc; split <;> rfl
@[simp] theorem setPc_mem (s : State) (v : Word) : (s.setPc v).mem = s.mem := by
  unfold State.setPc; split <;> rfl
@[simp] theorem setPc_lkey (s : State) (v : Word) : (s.setPc v).lkey = s.lkey := by
  unfold State.setPc; split <;> rfl
@[simp] theorem setPc_back (s : State) (v : Word) : (s.setPc v).back = s.back := by
  unfold State.setPc; split <;> rfl
@[simp] theorem setPc_pol (s : State) (v : Word) : (s.setPc v).pol = s.pol := by
  unfold State.setPc; split <;> rfl
@[simp] theorem setPc_blocks (s : State) (v : Word) : (s.setPc v).blocks = s.blocks := by
  unfold State.setPc; split <;> rfl
@[simp] theorem setPc_polDisc (s : State) (v : Word) : (s.setPc v).polDisc = s.polDisc := by
  unfold State.setPc; split <;> rfl
@[simp] theorem setPc_badWord (s : State) (v : Word) : (s.setPc v).badWord = s.badWord := by
  unfold State.setPc; split <;> rfl
@[simp] theorem setPc_pend (s : State) (v : Word) : (s.setPc v).pend = s.pend := by
  unfold State.setPc; split <;> rfl
@[simp] theorem setPc_remote (s : State) (v : Word) : (s.setPc v).remote = s.remote := by
  unfold State.setPc; split <;> rfl
@[simp] theorem setPc_episodes (s : State) (v : Word) : (s.setPc v).episodes = s.episodes := by
  unfold State.setPc; split <;> rfl
@[simp] theorem setPc_cold (s : State) (v : Word) : (s.setPc v).cold = s.cold := by
  unfold State.setPc; split <;> rfl
@[simp] theorem setPc_badPol (s : State) (v : Word) : (s.setPc v).badPol = s.badPol := by
  unfold State.setPc; split <;> rfl
@[simp] theorem setPc_issued (s : State) (v : Word) : (s.setPc v).issued = s.issued := by
  unfold State.setPc; split <;> rfl
@[simp] theorem setPc_peerOut (s : State) (v : Word) : (s.setPc v).peerOut = s.peerOut := by
  unfold State.setPc; split <;> rfl
@[simp] theorem setPc_sweeps (s : State) (v : Word) : (s.setPc v).sweeps = s.sweeps := by
  unfold State.setPc; split <;> rfl
@[simp] theorem setPc_ranges (s : State) (v : Word) : (s.setPc v).ranges = s.ranges := by
  unfold State.setPc; split <;> rfl
@[simp] theorem setPc_numVfs (s : State) (v : Word) : (s.setPc v).numVfs = s.numVfs := by
  unfold State.setPc; split <;> rfl
@[simp] theorem setPc_irqDue (s : State) (v : Word) : (s.setPc v).irqDue = s.irqDue := by
  unfold State.setPc; split <;> rfl
@[simp] theorem setPc_ltr (s : State) (v : Word) : (s.setPc v).ltr = s.ltr := by
  unfold State.setPc; split <;> rfl
@[simp] theorem setPc_hold (s : State) (v : Word) : (s.setPc v).hold = s.hold := by
  unfold State.setPc; split <;> rfl
@[simp] theorem setPc_quar (s : State) (v : Word) : (s.setPc v).quar = s.quar := by
  unfold State.setPc; split <;> rfl
@[simp] theorem setPc_qepoch (s : State) (v : Word) : (s.setPc v).qepoch = s.qepoch := by
  unfold State.setPc; split <;> rfl
@[simp] theorem setPc_ctxs (s : State) (v : Word) : (s.setPc v).ctxs = s.ctxs := by
  unfold State.setPc; split <;> rfl
@[simp] theorem setPc_fns (s : State) (v : Word) : (s.setPc v).fns = s.fns := by
  unfold State.setPc; split <;> rfl
@[simp] theorem setPc_mg (s : State) (v : Word) : (s.setPc v).mg = s.mg := by
  unfold State.setPc; split <;> rfl
@[simp] theorem setPc_kslots (s : State) (v : Word) : (s.setPc v).kslots = s.kslots := by
  unfold State.setPc; split <;> rfl
@[simp] theorem setPc_zel (s : State) (v : Word) : (s.setPc v).zel = s.zel := by
  unfold State.setPc; split <;> rfl
@[simp] theorem setPc_launches (s : State) (v : Word) : (s.setPc v).launches = s.launches := by
  unfold State.setPc; split <;> rfl
@[simp] theorem setPc_accepted (s : State) (v : Word) : (s.setPc v).accepted = s.accepted := by
  unfold State.setPc; split <;> rfl
@[simp] theorem setPc_requeued (s : State) (v : Word) : (s.setPc v).requeued = s.requeued := by
  unfold State.setPc; split <;> rfl
@[simp] theorem setPc_saved (s : State) (v : Word) : (s.setPc v).saved = s.saved := by
  unfold State.setPc; split <;> rfl
@[simp] theorem setPc_dctr (s : State) (v : Word) : (s.setPc v).dctr = s.dctr := by
  unfold State.setPc; split <;> rfl
@[simp] theorem setPc_gangs (s : State) (v : Word) : (s.setPc v).gangs = s.gangs := by
  unfold State.setPc; split <;> rfl
@[simp] theorem setPc_gangNo (s : State) (v : Word) : (s.setPc v).gangNo = s.gangNo := by
  unfold State.setPc; split <;> rfl
@[simp] theorem setPc_spills (s : State) (v : Word) : (s.setPc v).spills = s.spills := by
  unfold State.setPc; split <;> rfl
@[simp] theorem setPc_slots (s : State) (v : Word) : (s.setPc v).slots = s.slots := by
  unfold State.setPc; split <;> rfl
@[simp] theorem setPc_debt (s : State) (v : Word) : (s.setPc v).debt = s.debt := by
  unfold State.setPc; split <;> rfl

@[simp] theorem goTo_cur (s : State) (v : Word) : (s.goTo v).cur = s.cur := by
  simp [State.goTo]
@[simp] theorem goTo_agenda (s : State) (v : Word) : (s.goTo v).agenda = s.agenda := by
  simp [State.goTo]
@[simp] theorem goTo_rot (s : State) (v : Word) : (s.goTo v).rot = s.rot := by
  simp [State.goTo]
@[simp] theorem goTo_fresh (s : State) (v : Word) : (s.goTo v).fresh = s.fresh := by
  simp [State.goTo]
@[simp] theorem goTo_latch (s : State) (v : Word) : (s.goTo v).latch = s.latch := by
  simp [State.goTo]
@[simp] theorem goTo_dtime (s : State) (v : Word) : (s.goTo v).dtime = s.dtime := by
  simp [State.goTo]
@[simp] theorem goTo_tsync (s : State) (v : Word) : (s.goTo v).tsync = s.tsync := by
  simp [State.goTo]
@[simp] theorem goTo_slew (s : State) (v : Word) : (s.goTo v).slew = s.slew := by
  simp [State.goTo]
@[simp] theorem goTo_slewRem (s : State) (v : Word) : (s.goTo v).slewRem = s.slewRem := by
  simp [State.goTo]
@[simp] theorem goTo_mhz (s : State) (v : Word) : (s.goTo v).mhz = s.mhz := by
  simp [State.goTo]
@[simp] theorem goTo_tier (s : State) (v : Word) : (s.goTo v).tier = s.tier := by
  simp [State.goTo]
@[simp] theorem goTo_lastReq (s : State) (v : Word) : (s.goTo v).lastReq = s.lastReq := by
  simp [State.goTo]
@[simp] theorem goTo_lastMem (s : State) (v : Word) : (s.goTo v).lastMem = s.lastMem := by
  simp [State.goTo]
@[simp] theorem goTo_boot (s : State) (v : Word) : (s.goTo v).boot = s.boot := by
  simp [State.goTo]
@[simp] theorem goTo_mem (s : State) (v : Word) : (s.goTo v).mem = s.mem := by
  simp [State.goTo]
@[simp] theorem goTo_lkey (s : State) (v : Word) : (s.goTo v).lkey = s.lkey := by
  simp [State.goTo]
@[simp] theorem goTo_back (s : State) (v : Word) : (s.goTo v).back = s.back := by
  simp [State.goTo]
@[simp] theorem goTo_pol (s : State) (v : Word) : (s.goTo v).pol = s.pol := by
  simp [State.goTo]
@[simp] theorem goTo_blocks (s : State) (v : Word) : (s.goTo v).blocks = s.blocks := by
  simp [State.goTo]
@[simp] theorem goTo_polDisc (s : State) (v : Word) : (s.goTo v).polDisc = s.polDisc := by
  simp [State.goTo]
@[simp] theorem goTo_badWord (s : State) (v : Word) : (s.goTo v).badWord = s.badWord := by
  simp [State.goTo]
@[simp] theorem goTo_pend (s : State) (v : Word) : (s.goTo v).pend = s.pend := by
  simp [State.goTo]
@[simp] theorem goTo_remote (s : State) (v : Word) : (s.goTo v).remote = s.remote := by
  simp [State.goTo]
@[simp] theorem goTo_episodes (s : State) (v : Word) : (s.goTo v).episodes = s.episodes := by
  simp [State.goTo]
@[simp] theorem goTo_cold (s : State) (v : Word) : (s.goTo v).cold = s.cold := by
  simp [State.goTo]
@[simp] theorem goTo_badPol (s : State) (v : Word) : (s.goTo v).badPol = s.badPol := by
  simp [State.goTo]
@[simp] theorem goTo_issued (s : State) (v : Word) : (s.goTo v).issued = s.issued := by
  simp [State.goTo]
@[simp] theorem goTo_peerOut (s : State) (v : Word) : (s.goTo v).peerOut = s.peerOut := by
  simp [State.goTo]
@[simp] theorem goTo_sweeps (s : State) (v : Word) : (s.goTo v).sweeps = s.sweeps := by
  simp [State.goTo]
@[simp] theorem goTo_ranges (s : State) (v : Word) : (s.goTo v).ranges = s.ranges := by
  simp [State.goTo]
@[simp] theorem goTo_numVfs (s : State) (v : Word) : (s.goTo v).numVfs = s.numVfs := by
  simp [State.goTo]
@[simp] theorem goTo_irqDue (s : State) (v : Word) : (s.goTo v).irqDue = s.irqDue := by
  simp [State.goTo]
@[simp] theorem goTo_ltr (s : State) (v : Word) : (s.goTo v).ltr = s.ltr := by
  simp [State.goTo]
@[simp] theorem goTo_hold (s : State) (v : Word) : (s.goTo v).hold = s.hold := by
  simp [State.goTo]
@[simp] theorem goTo_quar (s : State) (v : Word) : (s.goTo v).quar = s.quar := by
  simp [State.goTo]
@[simp] theorem goTo_qepoch (s : State) (v : Word) : (s.goTo v).qepoch = s.qepoch := by
  simp [State.goTo]
@[simp] theorem goTo_ctxs (s : State) (v : Word) : (s.goTo v).ctxs = s.ctxs := by
  simp [State.goTo]
@[simp] theorem goTo_fns (s : State) (v : Word) : (s.goTo v).fns = s.fns := by
  simp [State.goTo]
@[simp] theorem goTo_mg (s : State) (v : Word) : (s.goTo v).mg = s.mg := by
  simp [State.goTo]
@[simp] theorem goTo_kslots (s : State) (v : Word) : (s.goTo v).kslots = s.kslots := by
  simp [State.goTo]
@[simp] theorem goTo_zel (s : State) (v : Word) : (s.goTo v).zel = s.zel := by
  simp [State.goTo]
@[simp] theorem goTo_launches (s : State) (v : Word) : (s.goTo v).launches = s.launches := by
  simp [State.goTo]
@[simp] theorem goTo_accepted (s : State) (v : Word) : (s.goTo v).accepted = s.accepted := by
  simp [State.goTo]
@[simp] theorem goTo_requeued (s : State) (v : Word) : (s.goTo v).requeued = s.requeued := by
  simp [State.goTo]
@[simp] theorem goTo_saved (s : State) (v : Word) : (s.goTo v).saved = s.saved := by
  simp [State.goTo]
@[simp] theorem goTo_dctr (s : State) (v : Word) : (s.goTo v).dctr = s.dctr := by
  simp [State.goTo]
@[simp] theorem goTo_gangs (s : State) (v : Word) : (s.goTo v).gangs = s.gangs := by
  simp [State.goTo]
@[simp] theorem goTo_gangNo (s : State) (v : Word) : (s.goTo v).gangNo = s.gangNo := by
  simp [State.goTo]
@[simp] theorem goTo_spills (s : State) (v : Word) : (s.goTo v).spills = s.spills := by
  simp [State.goTo]
@[simp] theorem goTo_slots (s : State) (v : Word) : (s.goTo v).slots = s.slots := by
  simp [State.goTo]
@[simp] theorem goTo_debt (s : State) (v : Word) : (s.goTo v).debt = s.debt := by
  simp [State.goTo]

@[simp] theorem step4_cur (s : State) : (s.step4).cur = s.cur := by
  simp [State.step4]
@[simp] theorem step4_agenda (s : State) : (s.step4).agenda = s.agenda := by
  simp [State.step4]
@[simp] theorem step4_rot (s : State) : (s.step4).rot = s.rot := by
  simp [State.step4]
@[simp] theorem step4_fresh (s : State) : (s.step4).fresh = s.fresh := by
  simp [State.step4]
@[simp] theorem step4_latch (s : State) : (s.step4).latch = s.latch := by
  simp [State.step4]
@[simp] theorem step4_dtime (s : State) : (s.step4).dtime = s.dtime := by
  simp [State.step4]
@[simp] theorem step4_tsync (s : State) : (s.step4).tsync = s.tsync := by
  simp [State.step4]
@[simp] theorem step4_slew (s : State) : (s.step4).slew = s.slew := by
  simp [State.step4]
@[simp] theorem step4_slewRem (s : State) : (s.step4).slewRem = s.slewRem := by
  simp [State.step4]
@[simp] theorem step4_mhz (s : State) : (s.step4).mhz = s.mhz := by
  simp [State.step4]
@[simp] theorem step4_tier (s : State) : (s.step4).tier = s.tier := by
  simp [State.step4]
@[simp] theorem step4_lastReq (s : State) : (s.step4).lastReq = s.lastReq := by
  simp [State.step4]
@[simp] theorem step4_lastMem (s : State) : (s.step4).lastMem = s.lastMem := by
  simp [State.step4]
@[simp] theorem step4_boot (s : State) : (s.step4).boot = s.boot := by
  simp [State.step4]
@[simp] theorem step4_mem (s : State) : (s.step4).mem = s.mem := by
  simp [State.step4]
@[simp] theorem step4_lkey (s : State) : (s.step4).lkey = s.lkey := by
  simp [State.step4]
@[simp] theorem step4_back (s : State) : (s.step4).back = s.back := by
  simp [State.step4]
@[simp] theorem step4_pol (s : State) : (s.step4).pol = s.pol := by
  simp [State.step4]
@[simp] theorem step4_blocks (s : State) : (s.step4).blocks = s.blocks := by
  simp [State.step4]
@[simp] theorem step4_polDisc (s : State) : (s.step4).polDisc = s.polDisc := by
  simp [State.step4]
@[simp] theorem step4_badWord (s : State) : (s.step4).badWord = s.badWord := by
  simp [State.step4]
@[simp] theorem step4_pend (s : State) : (s.step4).pend = s.pend := by
  simp [State.step4]
@[simp] theorem step4_remote (s : State) : (s.step4).remote = s.remote := by
  simp [State.step4]
@[simp] theorem step4_episodes (s : State) : (s.step4).episodes = s.episodes := by
  simp [State.step4]
@[simp] theorem step4_cold (s : State) : (s.step4).cold = s.cold := by
  simp [State.step4]
@[simp] theorem step4_badPol (s : State) : (s.step4).badPol = s.badPol := by
  simp [State.step4]
@[simp] theorem step4_issued (s : State) : (s.step4).issued = s.issued := by
  simp [State.step4]
@[simp] theorem step4_peerOut (s : State) : (s.step4).peerOut = s.peerOut := by
  simp [State.step4]
@[simp] theorem step4_sweeps (s : State) : (s.step4).sweeps = s.sweeps := by
  simp [State.step4]
@[simp] theorem step4_ranges (s : State) : (s.step4).ranges = s.ranges := by
  simp [State.step4]
@[simp] theorem step4_numVfs (s : State) : (s.step4).numVfs = s.numVfs := by
  simp [State.step4]
@[simp] theorem step4_irqDue (s : State) : (s.step4).irqDue = s.irqDue := by
  simp [State.step4]
@[simp] theorem step4_ltr (s : State) : (s.step4).ltr = s.ltr := by
  simp [State.step4]
@[simp] theorem step4_hold (s : State) : (s.step4).hold = s.hold := by
  simp [State.step4]
@[simp] theorem step4_quar (s : State) : (s.step4).quar = s.quar := by
  simp [State.step4]
@[simp] theorem step4_qepoch (s : State) : (s.step4).qepoch = s.qepoch := by
  simp [State.step4]
@[simp] theorem step4_ctxs (s : State) : (s.step4).ctxs = s.ctxs := by
  simp [State.step4]
@[simp] theorem step4_fns (s : State) : (s.step4).fns = s.fns := by
  simp [State.step4]
@[simp] theorem step4_mg (s : State) : (s.step4).mg = s.mg := by
  simp [State.step4]
@[simp] theorem step4_kslots (s : State) : (s.step4).kslots = s.kslots := by
  simp [State.step4]
@[simp] theorem step4_zel (s : State) : (s.step4).zel = s.zel := by
  simp [State.step4]
@[simp] theorem step4_launches (s : State) : (s.step4).launches = s.launches := by
  simp [State.step4]
@[simp] theorem step4_accepted (s : State) : (s.step4).accepted = s.accepted := by
  simp [State.step4]
@[simp] theorem step4_requeued (s : State) : (s.step4).requeued = s.requeued := by
  simp [State.step4]
@[simp] theorem step4_saved (s : State) : (s.step4).saved = s.saved := by
  simp [State.step4]
@[simp] theorem step4_dctr (s : State) : (s.step4).dctr = s.dctr := by
  simp [State.step4]
@[simp] theorem step4_gangs (s : State) : (s.step4).gangs = s.gangs := by
  simp [State.step4]
@[simp] theorem step4_gangNo (s : State) : (s.step4).gangNo = s.gangNo := by
  simp [State.step4]
@[simp] theorem step4_spills (s : State) : (s.step4).spills = s.spills := by
  simp [State.step4]
@[simp] theorem step4_slots (s : State) : (s.step4).slots = s.slots := by
  simp [State.step4]
@[simp] theorem step4_debt (s : State) : (s.step4).debt = s.debt := by
  simp [State.step4]

@[simp] theorem goTo_note (s : State) (v : Word) : (s.goTo v).note = .done := rfl
@[simp] theorem step4_note (s : State) : s.step4.note = .done := rfl

@[simp] theorem coreAt_setCore (s : State) (c d : Nat) (x : Core) :
    (s.setCore c x).coreAt d = if d = c then x else s.coreAt d := by simp [State.coreAt, State.setCore, get_set]

@[simp] theorem seqrAt_setSeqr (s : State) (c d : Nat) (x : Seqr) :
    (s.setSeqr c x).seqrAt d = if d = c then x else s.seqrAt d := by simp [State.seqrAt, State.setSeqr, get_set]

@[simp] theorem ctxAt_setCtx (s : State) (c d : Nat) (x : Ctx) :
    (s.setCtx c x).ctxAt d = if d = c then x else s.ctxAt d := by simp [State.ctxAt, State.setCtx, get_set]

@[simp] theorem fnAt_setFn (s : State) (c d : Nat) (x : Fn) :
    (s.setFn c x).fnAt d = if d = c then x else s.fnAt d := by simp [State.fnAt, State.setFn, get_set]

@[simp] theorem seqrAt_setCore (s : State) (c d : Nat) (x : Core) : (s.setCore c x).seqrAt d = s.seqrAt d := rfl
@[simp] theorem coreAt_setSeqr (s : State) (c d : Nat) (x : Seqr) : (s.setSeqr c x).coreAt d = s.coreAt d := rfl
@[simp] theorem ctxAt_setCore (s : State) (c d : Nat) (x : Core) : (s.setCore c x).ctxAt d = s.ctxAt d := rfl
@[simp] theorem coreAt_setCtx (s : State) (c d : Nat) (x : Ctx) : (s.setCtx c x).coreAt d = s.coreAt d := rfl
@[simp] theorem coreNo_setCore (s : State) (c : Nat) (x : Core) : (s.setCore c x).coreNo = s.coreNo := rfl
@[simp] theorem strmNo_setCore (s : State) (c : Nat) (x : Core) : (s.setCore c x).strmNo = s.strmNo := rfl
@[simp] theorem coreNo_putCore (s : State) (x : Core) : (s.putCore x).coreNo = s.coreNo := rfl
@[simp] theorem strmNo_putCore (s : State) (x : Core) : (s.putCore x).strmNo = s.strmNo := rfl

@[simp] theorem core_putCore (s : State) (x : Core) : (s.putCore x).core = x := by
  simp [State.core, State.putCore]

@[simp] theorem strmAt_setStrm (c : Core) (st : Strm) (r : StrmRec) : (c.setStrm st r).strmAt st = r := by
  simp [Core.strmAt, Core.setStrm]

/-- S[n] reads what was written to it; s0 reads zero (R13, R43). -/
theorem rdS_wrS (s : State) (n m : Nat) (v : Word) :
    (s.wrS n v).rdS m = if m = n ∧ n ≠ 0 then v else s.rdS m := by
  by_cases hn : n = 0
  · simp [State.wrS, hn]
  by_cases hm : m = 0
  · have : ¬ (m = n ∧ n ≠ 0) := fun h => hn (h.1 ▸ hm)
    simp [State.rdS, hm]
    intro h; exact absurd h.symm hn
  cases hc : s.cur <;>
    simp [State.wrS, State.rdS, hn, hm, hc, State.core, State.putCore, Core.fresh, State.coreNo, State.seqrAt,
      State.setSeqr, State.coreAt, State.setCore, get_set]

/-- The pc is where the stream was set to go on. -/
@[simp] theorem pc_setPc (s : State) (v : Word) : (s.setPc v).pc = v := by
  cases hc : s.cur <;>
    simp [State.setPc, State.pc, hc, State.core, State.putCore, State.coreNo, State.strmNo, State.seqrAt, State.setSeqr,
      State.coreAt, State.setCore, Core.strmAt, Core.setStrm]

@[simp] theorem pc_goTo (s : State) (v : Word) : (s.goTo v).pc = v := pc_setPc s v

@[simp] theorem pc_step4 (s : State) : s.step4.pc = s.pc + 4 := pc_goTo s _

end Sys2Proof.Laws
end

