-- ==== Sys2Proof/Laws/Run.lean ====
section
/-! SUPPORT. How a meaning in progress runs: each step of it on a state, and what the wrappers make of its end. -/

namespace Sys2Proof.Laws

open Sys2Proof.Machine

variable {α β : Type}

@[simp] theorem m_pure (x : α) (s : State) : (pure x : M α) s = .ok x s := rfl

@[simp] theorem m_get (s : State) : (get : M State) s = .ok s s := rfl

@[simp] theorem m_set (t s : State) : (set t : M Unit) s = .ok () t := rfl

@[simp] theorem m_modify (f : State → State) (s : State) : (modify f : M Unit) s = .ok () (f s) := rfl

@[simp] theorem m_throw (e : Stop) (s : State) : (throw e : M α) s = .error e s := rfl

@[simp] theorem m_fail (f : FaultInfo) (s : State) : (fail f : M α) s = .error (.fault f) s := rfl

@[simp] theorem m_stall (w : Wait) (s : State) : (stall w : M α) s = .error (.stall w) s := rfl

@[simp] theorem m_takeFresh (s : State) : takeFresh s = .ok s.fresh { s with fresh := s.fresh + 1 } := rfl

/-- One step of a meaning, then the rest. -/
@[simp] theorem m_bind (m : M α) (f : α → M β) (s : State) :
    (m >>= f) s = match m s with | .ok a t => f a t | .error e t => .error e t := by
  simp only [bind, EStateM.bind]; cases m s <;> rfl

theorem m_bind_ok {m : M α} {s t : State} {a : α} (h : m s = .ok a t) (f : α → M β) : (m >>= f) s = f a t := by
  simp [h]

theorem m_bind_error {m : M α} {s t : State} {e : Stop} (h : m s = .error e t) (f : α → M β) : (m >>= f) s = .error e t := by
  simp [h]

@[simp] theorem m_map (m : M α) (f : α → β) (s : State) :
    (f <$> m) s = match m s with | .ok a t => .ok (f a) t | .error e t => .error e t := by
  simp only [Functor.map, EStateM.map]; cases m s <;> rfl

@[simp] theorem m_failIf_false (f : FaultInfo) (s : State) : failIf false f s = .ok () s := rfl

@[simp] theorem m_failIf_true (f : FaultInfo) (s : State) : failIf true f s = .error (.fault f) s := rfl

theorem m_failIf (b : Bool) (f : FaultInfo) (s : State) :
    failIf b f s = if b then .error (.fault f) s else .ok () s := by cases b <;> rfl

/-- An `if` of meanings runs the branch that its condition names. -/
theorem m_ite (c : Prop) [Decidable c] (m n : M α) (s : State) : (if c then m else n) s = if c then m s else n s := by
  split <;> rfl

@[simp] theorem forM_nil (f : α → M Unit) (s : State) : (([] : List α).forM f) s = .ok () s := rfl

@[simp] theorem forM_cons (a : α) (l : List α) (f : α → M Unit) (s : State) :
    ((a :: l).forM f) s = (f a >>= fun _ => l.forM f) s := rfl

/-- A loop whose every round leaves the state as it is leaves it as it is. -/
theorem forM_idle (l : List α) (f : α → M Unit) (s : State) (h : ∀ a ∈ l, f a s = .ok () s) : (l.forM f) s = .ok () s := by
  induction l with
  | nil => rfl
  | cons a l ih =>
    rw [forM_cons, m_bind_ok (h a (by simp))]
    exact ih fun b hb => h b (by simp [hb])

/-- An invariant that every round keeps holds after the loop. -/
theorem forM_keeps (P : State → Prop) (l : List α) (f : α → M Unit)
    (h : ∀ a ∈ l, ∀ s t, P s → f a s = .ok () t → P t) (s t : State) (hs : P s) (e : (l.forM f) s = .ok () t) : P t := by
  induction l generalizing s with
  | nil => simp at e; exact e ▸ hs
  | cons a l ih =>
    rw [forM_cons, m_bind] at e
    split at e
    · rename_i u hu
      exact ih (fun b hb => h b (by simp [hb])) _ (h a (by simp) _ _ hs hu) e
    · cases e

/-- A meaning that ends well gives its state. -/
theorem runM_ok {m : M Unit} {s t : State} (h : m s = .ok () t) : runM m s = .next { t with note := .done } := by
  simp [runM, h]

/-- A meaning that waits has no effect but the wait. -/
theorem runM_stall {m : M Unit} {s t : State} {w : Wait} (h : m s = .error (.stall w) t) : runM m s = .next (s.waits w) := by
  simp [runM, h]

theorem runM_pause {m : M Unit} {s t : State} {w : Wait} (h : m s = .error (.pause w) t) : runM m s = .next (t.waits w) := by
  simp [runM, h]

/-- A meaning that raises an exception takes it. -/
theorem runM_fault {m : M Unit} {s t : State} {f : FaultInfo} (h : m s = .error (.fault f) t) :
    runM m s = settleOut (takeFault f { t with note := .faulted }) := by
  simp [runM, h]

/-- A meaning of the A-stream that ends well goes on at the next word. -/
theorem runA_ok {m : M Unit} {s t : State} (h : m s = .ok () t) : runA m s = .next t.step4 := by
  simp [runA, runM, nextWord, h, State.step4, State.goTo]

theorem runA_stall {m : M Unit} {s t : State} {w : Wait} (h : m s = .error (.stall w) t) : runA m s = .next (s.waits w) := by
  simp [runA, runM, h]

theorem runA_fault {m : M Unit} {s t : State} {f : FaultInfo} (h : m s = .error (.fault f) t) :
    runA m s = settleOut (takeFault f { t with note := .faulted }) := by
  simp [runA, runM, h]

/-- A core's own meaning is given the core's number. -/
theorem runAC_ok {m : Nat → M Unit} {s t : State} {c : Nat} {st : Strm} (hc : s.cur = .strm c st) (h : m c s = .ok () t) :
    runAC m s = .next t.step4 := by
  refine runA_ok ?_
  simp [onCore, hc, State.coreNo, h]

theorem runAC_stall {m : Nat → M Unit} {s t : State} {c : Nat} {st : Strm} {w : Wait} (hc : s.cur = .strm c st)
    (h : m c s = .error (.stall w) t) : runAC m s = .next (s.waits w) := by
  refine runA_stall (t := t) ?_
  simp [onCore, hc, State.coreNo, h]

theorem runAC_fault {m : Nat → M Unit} {s t : State} {c : Nat} {st : Strm} {f : FaultInfo} (hc : s.cur = .strm c st)
    (h : m c s = .error (.fault f) t) : runAC m s = settleOut (takeFault f { t with note := .faulted }) := by
  refine runA_fault (t := t) ?_
  simp [onCore, hc, State.coreNo, h]

/-- A sequencer does not have it (R45). -/
theorem runAC_seqr {m : Nat → M Unit} {s : State} {q : Nat} (hc : s.cur = .seqr q) :
    runAC m s = settleOut (takeFault { code := 0x01 } { s with note := .faulted }) := by
  refine runA_fault (t := s) ?_
  simp [onCore, hc]

/-- An event that ends well gives its state. -/
theorem runEvent_ok {m : M Unit} {s t : State} (h : m { s with note := .done } = .ok () t) : runEvent m s = .next t := by
  simp [runEvent, attempt, settleOut, h]

theorem runLive_ok {m : M Unit} {s t : State} (hl : s.halted = false) (h : m { s with note := .done } = .ok () t) :
    runLive m s = .next t := by
  simp [runLive, hl, runEvent_ok h]

/-- A halted device does none of its own work (R393). -/
theorem runLive_halted (m : M Unit) {s : State} (hl : s.halted = true) : runLive m s = .next { s with note := .done } := by
  simp [runLive, hl]

end Sys2Proof.Laws
end

