-- ==== Sys2Proof/Laws/Plain.lean ====
section
/-! SUPPORT. What the operations over memory do where nothing stands in their way: plain memory in the sense of `Mapped` and `Plain`,
an agent with no waiting store, no stash line. -/

namespace Sys2Proof.Laws

open Sys2Proof.Machine

theorem filter_none {α : Type} (l : List α) (p : α → Bool) (h : ∀ x ∈ l, p x = false) : l.filter p = [] := by
  simpa [List.filter_eq_nil_iff] using h

/-- An agent with no waiting store has none to perform. -/
theorem settleIf_none (ag : Nat) (f : Pend → Bool) (s : State) (h : ∀ o ∈ s.pend, o.agent ≠ ag) : settleIf ag f s = .ok () s := by
  have h1 : s.pend.filter (fun p => decide (p.agent = ag)) = [] := filter_none _ _ fun o ho => by simp [h o ho]
  simp [settleIf, h1]

/-- An agent that is no command's, with no waiting store, has none to settle before an access. -/
theorem settleBefore_none (q : Req) (b : Bool) (ia n : Nat) (s : State) (hq : q.ag < 8192) (h : ∀ o ∈ s.pend, o.agent ≠ q.ag) :
    settleBefore q b ia n s = .ok () s := by
  simp [settleBefore, settleIf_none _ _ _ h, Nat.not_le.mpr hq]

theorem settleBytes_none (q : Req) (ia n : Nat) (s : State) (hq : q.ag < 8192) (h : ∀ o ∈ s.pend, o.agent ≠ q.ag) :
    settleBytes q ia n s = .ok () s :=
  settleBefore_none _ _ _ _ _ hq h

theorem settleAll_none (ag : Nat) (s : State) (h : ∀ o ∈ s.pend, o.agent ≠ ag) : settleAll ag s = .ok () s := by
  have h1 : s.pend.filter (fun p => !decide (p.agent = ag)) = s.pend := List.filter_eq_self.mpr fun o ho => by simp [h o ho]
  simp [settleAll, settleIf_none ag _ s h, h1]

theorem settleSR_none (ag : Nat) (s : State) (h : ∀ o ∈ s.pend, o.agent ≠ ag) : settleSR ag s = .ok () s := by
  have h1 : s.pend.filter (fun p => !decide (p.agent = ag) || !decide (p.ord = 3)) = s.pend :=
    List.filter_eq_self.mpr fun o ho => by simp [h o ho]
  simp [settleSR, settleIf_none ag _ s h, h1]

/-- With no stash line of the range, a home read or write meets no stash (R199). -/
theorem stashRead_none (ia n : Nat) (s : State) (h : ∀ a, s.stashed a = []) : stashRead ia n s = .ok () s := by
  simp only [stashRead, m_bind, m_get]
  exact forM_idle _ _ _ fun i _ => by simp [h]

theorem stashWrite_none (ia n : Nat) (s : State) (h : ∀ a, s.stashed a = []) : stashWrite ia n s = .ok () s := by
  simp only [stashWrite, m_bind, stashRead_none ia n s h, m_get]
  exact forM_idle _ _ _ fun i _ => by simp [h]

/-- What counting an access can change. -/
theorem touch_eq (s : State) (q : Req) (l : Loc) (ia : Nat) :
    ∃ f r, s.touch q l ia = { s with lastMem := s.dtime, fresh := f, ranges := r } := by
  have count : ∀ (d : Nat) (ks : List Nat) (t : State), ∃ f r, ks.foldl (fun t k => t.countRange d k) t = { t with fresh := f, ranges := r } := by
    intro d ks
    induction ks with
    | nil => intro t; exact ⟨_, _, rfl⟩
    | cons k ks ih => intro t; obtain ⟨f, r, h⟩ := ih (t.countRange d k); exact ⟨f, r, h⟩
  unfold State.touch
  split
  · exact ⟨_, _, rfl⟩
  all_goals
    obtain ⟨f, r, h⟩ := count (s.homeOf _ ia) (s.rangesAt q.ctx ia) { s with lastMem := s.dtime }
    exact ⟨f, r, h⟩

theorem Mapped_touch {s : State} {x ia n : Nat} {e : Entry} {k : Nat} (h : Mapped s x ia n e k) (q : Req) (l : Loc) (a : Nat) :
    Mapped (s.touch q l a) x ia n e k := by
  obtain ⟨f, r, e⟩ := touch_eq s q l a
  rw [e]
  exact ⟨h.piece, h.noPeer, h.entry, h.goodWalk, h.present, h.owner, h.backed, h.inTier, h.service, h.key, h.clean, h.readable, h.unstashed⟩

theorem touch_mem (s : State) (q : Req) (l : Loc) (a : Nat) : (s.touch q l a).mem = s.mem := by
  obtain ⟨f, r, e⟩ := touch_eq s q l a
  rw [e]

/-- translate of R202 on a state. -/
theorem translate_eq (q : Req) (va n : Nat) (p : Perm) (s : State) :
    translate q va n p s = match s.translate? q va n p with
      | .ok ia => if s.winBad q.ctx va then .error (.fault { code := 0x10, va := some va }) s else .ok ia s
      | .error c => .error (.fault { code := c, va := some va }) s := by
  simp only [Machine.translate, m_bind, m_get]
  cases h : s.translate? q va n p with
  | ok ia => cases hb : s.winBad q.ctx va <;> simp [hb]
  | error c => simp

theorem Plain_translate {s : State} {q : Req} {va n : Nat} {p : Perm} {ia : Nat} {e : Entry} {k : Nat} (h : Plain s q va n p ia e k) :
    translate q va n p s = .ok ia s := by
  simp [translate_eq, h.xlate, h.window]

/-- The walk of plain memory ends in its frame (R208). -/
theorem Mapped_walk {s : State} {x ia n : Nat} {e : Entry} {k : Nat} (h : Mapped s x ia n e k) (q : Req) (hq : q.ctx = x) (a : AKind) :
    walk q ia a s = .ok (.frame e k) s := by
  subst hq
  simp [walk, State.offService, h.noPeer, h.entry, h.goodWalk, h.present, h.owner, h.backed, Nat.not_le.mpr h.inTier, h.service, h.key]

theorem Mapped_grantAll {s : State} {x ia n : Nat} {e : Entry} {k : Nat} (h : Mapped s x ia n e k) (q : Req) (hq : q.ctx = x)
    (va : Nat) (a : AKind) : grantAll q va ia n a s = .ok [(.frame e k, ia, 0, n)] s := by
  have h1 := h.piece
  have h2 : pieces ia n = [(ia, 0, n)] := by
    have : min n (4096 - ia % 4096) = n := by omega
    simp [pieces, this]
  have h3 : grant q ia a s = .ok (.frame e k) s := by
    simp [grant, Mapped_walk h q hq a]
  simp [grantAll, h2, withVa, tryCatch, tryCatchThe, MonadExceptOf.tryCatch, EStateM.tryCatch, h3]

/-- Plain bytes read as they are stored (R365, R389). -/
theorem Mapped_readFrame {s : State} {x ia n : Nat} {e : Entry} {k : Nat} (h : Mapped s x ia n e k) (q : Req) :
    readFrame q e k ia n s = .ok (s.mem.bytes k n) s := by
  have h1 : ((List.range n).all fun i =>
      decide (s.lkey.get 0 ((k + i) / 128) = 0) || decide (s.lkey.get 0 ((k + i) / 128) = s.lineTag e (ia + i))) = true := by
    simp only [List.all_eq_true, List.mem_range, Bool.or_eq_true, decide_eq_true_eq]
    exact fun i hi => h.readable i hi
  have h2 : ∀ i, i < n → s.badWord.get false ((k + i) / 16) = false := by
    intro i hi
    have hb := h.clean
    simp only [State.badIn, List.any_eq_false, List.mem_range] at hb
    have := hb ((k + i) / 16 - k / 16) (by omega)
    have e1 : k / 16 + ((k + i) / 16 - k / 16) = (k + i) / 16 := by omega
    rw [e1] at this
    simpa using this
  have h3 : (List.range n).map (fun i => if s.badWord.get false ((k + i) / 16) then 0 else s.installed e k ia 0 i) = s.mem.bytes k n := by
    refine List.map_congr_left fun i hi => ?_
    have hi := List.mem_range.mp hi
    simp only [h2 i hi, State.installed, h.readable i hi, Bool.false_eq_true, if_false, if_true]
  simp only [readFrame, m_bind, m_get]
  rw [if_pos h1]
  simp only [h.clean, Bool.false_eq_true, if_false, m_bind, m_pure, h3]

/-- A read of plain memory at its home, by an agent with no waiting store. -/
theorem Mapped_homeRead {s : State} {x ia n : Nat} {e : Entry} {k : Nat} (h : Mapped s x ia n e k) (q : Req) (hq : q.ag < 8192)
    (hp : ∀ o ∈ s.pend, o.agent ≠ q.ag) :
    homeRead q (.frame e k) ia n s = .ok (s.mem.bytes k n) (s.touch q (.frame e k) ia) := by
  simp only [homeRead, m_bind, m_get, settleBefore_none _ _ _ _ s hq hp, stashRead_none _ _ s h.unstashed, m_modify,
    Mapped_readFrame (Mapped_touch h q (.frame e k) ia), touch_mem]

theorem Mapped_readAll {s : State} {x ia n : Nat} {e : Entry} {k : Nat} (h : Mapped s x ia n e k) (q : Req) (hq : q.ag < 8192)
    (hp : ∀ o ∈ s.pend, o.agent ≠ q.ag) :
    readAll q [(.frame e k, ia, 0, n)] s = .ok (s.mem.bytes k n) (s.touch q (.frame e k) ia) := by
  simp [readAll, Mapped_homeRead h q hq hp]

/-- The word at a pc in plain executable memory (R40). -/
theorem Plain_fetchWord {s : State} {n ia : Nat} {e : Entry} {k : Nat}
    (h : Plain s { s.req with ag := 4096 } s.pc.toNat n { x := true } ia e k) :
    fetchWord n s = .ok (bytesWord (s.mem.bytes k n)) (s.touch { s.req with ag := 4096 } (.frame e k) ia) := by
  have hc := h.clean
  simp only [fetchWord, fetchBytes, m_bind, m_get, Plain_translate h, Mapped_grantAll h.toMapped _ rfl, forM_cons, forM_nil, hc,
    m_failIf_false, m_pure, Mapped_readAll h.toMapped _ (show (4096 : Nat) < 8192 by decide) h.settled]

end Sys2Proof.Laws
end

