-- ==== Sys2Proof/Laws/Memory.lean ====
section
/-! SUPPORT. Every operation over memory keeps the canonical form of the backed and the polder bytes, whether it ends well, raises a
fault or waits. -/

namespace Sys2Proof.Laws

open Sys2Proof.Machine

variable {α β : Type}

/-- The state that a meaning in progress has reached. -/
def reached (r : EStateM.Result Stop State α) : State :=
  match r with
  | .ok _ t => t
  | .error _ t => t

/-- From a state with canonical memory, the meaning reaches one. -/
def KeepAt (m : M α) (s : State) : Prop := s.memWf = true → (reached (m s)).memWf = true

/-- The meaning keeps the canonical form from every state. -/
abbrev Keeps (m : M α) : Prop := ∀ s, KeepAt m s

/-- A change of the state keeps the canonical form. -/
abbrev Safe (f : State → State) : Prop := ∀ s, s.memWf = true → (f s).memWf = true

theorem memWf_of {s t : State} (h : s.memWf = true) (hm : t.mem = s.mem) (hp : t.pol = s.pol) : t.memWf = true := by
  simpa [State.memWf, hm, hp] using h

theorem memWf_iff (s : State) : s.memWf = true ↔ Memory.wf s.mem = true ∧ Memory.wf s.pol = true := by
  simp only [State.memWf, Bool.and_eq_true]

theorem keeps_pure (x : α) : Keeps (pure x : M α) := fun _ h => h

theorem keeps_get : Keeps (get : M State) := fun _ h => h

theorem keeps_throw (e : Stop) : Keeps (throw e : M α) := fun _ h => h

theorem keeps_modify {f : State → State} (hf : Safe f) : Keeps (modify f : M Unit) := fun s h => hf s h

theorem keepAt_set {s t : State} (h : s.memWf = true → t.memWf = true) : KeepAt (set t : M Unit) s := h

theorem keepAt_bind {m : M α} {f : α → M β} {s : State} (hm : KeepAt m s) (hf : ∀ a t, m s = .ok a t → KeepAt (f a) t) :
    KeepAt (m >>= f) s := by
  intro h
  have h1 := hm h
  rw [m_bind]
  cases e : m s with
  | ok a t => rw [e] at h1; exact hf a t e h1
  | error x t => rw [e] at h1; exact h1

theorem keeps_bind {m : M α} {f : α → M β} (hm : Keeps m) (hf : ∀ a, Keeps (f a)) : Keeps (m >>= f) :=
  fun s => keepAt_bind (hm s) fun a t _ => hf a t

/-- Reading the state: the rest runs on that very state. -/
theorem keeps_get_bind {f : State → M β} (hf : ∀ s, KeepAt (f s) s) : Keeps (get >>= f) :=
  fun s => keepAt_bind (keeps_get s) fun a t e => by cases e; exact hf _

theorem keeps_map {m : M α} (g : α → β) (hm : Keeps m) : Keeps (g <$> m) := by
  intro s h
  have := hm s h
  rw [m_map]
  cases e : m s <;> rw [e] at this <;> exact this

theorem keeps_ite {c : Prop} [Decidable c] {m n : M α} (hm : Keeps m) (hn : Keeps n) : Keeps (if c then m else n) := by
  split <;> assumption

theorem keepAt_ite {c : Prop} [Decidable c] {m n : M α} {s : State} (hm : KeepAt m s) (hn : KeepAt n s) :
    KeepAt (if c then m else n) s := by
  split <;> assumption

theorem keeps_fail (f : FaultInfo) : Keeps (fail f : M α) := fun _ h => h

theorem keeps_stall (w : Wait) : Keeps (stall w : M α) := fun _ h => h

theorem keeps_failIf (b : Bool) (f : FaultInfo) : Keeps (failIf b f) := by
  intro s h; rw [m_failIf]; cases b <;> exact h

theorem keeps_takeFresh : Keeps takeFresh := fun _ h => h

theorem keeps_forM (l : List α) (f : α → M Unit) (hf : ∀ a, Keeps (f a)) : Keeps (l.forM f) := by
  induction l with
  | nil => exact keeps_pure ()
  | cons a l ih => exact keeps_bind (hf a) fun _ => ih

theorem keeps_mapM (l : List α) (f : α → M β) (hf : ∀ a, Keeps (f a)) : Keeps (l.mapM f) := by
  induction l with
  | nil => exact keeps_pure []
  | cons a l ih =>
    rw [List.mapM_cons]
    exact keeps_bind (hf a) fun b => keeps_bind ih fun bs => keeps_pure _

theorem keeps_foldlM (f : β → α → M β) (hf : ∀ b a, Keeps (f b a)) : ∀ (l : List α) (b : β), Keeps (l.foldlM f b) := by
  intro l
  induction l with
  | nil => intro b; exact keeps_pure b
  | cons a l ih =>
    intro b
    rw [List.foldlM_cons]
    exact keeps_bind (hf b a) fun c => ih c

theorem keeps_tryCatch {m : M α} {h : Stop → M α} (hm : Keeps m) (hh : ∀ e, Keeps (h e)) : Keeps (tryCatch m h) := by
  intro s hs
  have h1 := hm s hs
  simp only [tryCatch, tryCatchThe, MonadExceptOf.tryCatch, EStateM.tryCatch] at *
  cases e : m s with
  | ok a t => rw [e] at h1; exact h1
  | error x t => rw [e] at h1; exact hh x _ h1

theorem keeps_attempt {m : M Unit} (hm : Keeps m) : Keeps (attempt m) := by
  intro s hs
  have h1 := hm s hs
  unfold attempt
  split <;> rename_i e <;> first | exact hs | (rw [e] at h1; exact h1) | exact h1

/-- A splice of a canonical store, as the model writes it. -/
@[simp] theorem wf_splice {m : Sparse Byte} (lo n : Nat) (f : Nat → Byte) (h : Memory.wf m = true) :
    Memory.wf (m.splice 0 lo n f) = true := splice_wf 0 lo n f h

@[simp] theorem wf_setBytes {m : Sparse Byte} (k : Nat) (bs : List Byte) (h : Memory.wf m = true) :
    Memory.wf (m.setBytes k bs) = true := splice_wf 0 _ _ _ h

theorem wf_foldl {γ : Type} (f : Sparse Byte → γ → Sparse Byte) (hf : ∀ m x, Memory.wf m = true → Memory.wf (f m x) = true) :
    ∀ (l : List γ) (m : Sparse Byte), Memory.wf m = true → Memory.wf (l.foldl f m) = true := by
  intro l
  induction l with
  | nil => intro m h; exact h
  | cons a l ih => intro m h; exact ih _ (hf m a h)

/-- Two runs of a canonical store with the keys between them left out. -/
theorem wf_cut {m : Sparse Byte} (lo hi : Nat) (h : Memory.wf m = true) (hl : lo ≤ hi) :
    Memory.wf (m.below lo ++ m.above hi) = true := by
  refine wfFrom_append 0 (b := lo) (wfFrom_filter 0 _ h) ?_ (fun e he => mem_below he) (by omega)
  exact wfFrom_raise 0 (wfFrom_filter 0 _ h) fun e he => by have := mem_above he; omega

/-- A run of one canonical store moved into another. -/
theorem wf_moved {m p : Sparse Byte} (k pg n : Nat) (hm : Memory.wf m = true) (hp : Memory.wf p = true) :
    Memory.wf (m.below k ++ ((((p.above pg).below (pg + n)).map fun b => (k + (b.1 - pg), b.2)) ++ m.above (k + n))) = true := by
  have hq : Sparse.wfFrom 0 pg ((p.above pg).below (pg + n)) = true :=
    wfFrom_raise 0 (wfFrom_filter 0 _ (wfFrom_filter 0 _ hp)) fun e he => by
      simp [Sparse.below, Sparse.above] at he; omega
  have hmap : ∀ (q : Sparse Byte) (a : Nat), pg ≤ a → Sparse.wfFrom 0 a q = true →
      Sparse.wfFrom 0 (k + (a - pg)) (q.map fun b => (k + (b.1 - pg), b.2)) = true := by
    intro q
    induction q with
    | nil => intro a _ _; rfl
    | cons e q ih =>
      intro a ha h
      simp [Sparse.wfFrom] at h ⊢
      refine ⟨⟨by omega, h.1.2⟩, ?_⟩
      have := ih (e.1 + 1) (by omega) h.2
      have he : k + (e.1 + 1 - pg) = k + (e.1 - pg) + 1 := by omega
      rwa [he] at this
  refine wfFrom_append 0 (b := k) (wfFrom_filter 0 _ hm) ?_ (fun e he => mem_below he) (by omega)
  refine wfFrom_append 0 (b := k + n) (by simpa using hmap _ pg (by omega) hq) ?_ ?_ (by omega)
  · exact wfFrom_raise 0 (wfFrom_filter 0 _ hm) fun e he => mem_above he
  · intro e he
    simp only [List.mem_map, Sparse.below, Sparse.above, List.mem_filter, decide_eq_true_eq] at he
    obtain ⟨b, hb, rfl⟩ := he
    simp only; omega

/-! What the changes of the state do to memory. -/

@[simp] theorem scrubWords_wf {s : State} (k n : Nat) (h : Memory.wf s.mem = true) : Memory.wf (s.scrubWords k n).mem = true := by
  unfold State.scrubWords
  exact wf_foldl _ (fun m x hm => wf_splice _ _ _ hm) _ _ h

@[simp] theorem scrubWords_pol (s : State) (k n : Nat) : (s.scrubWords k n).pol = s.pol := rfl

@[simp] theorem rawWrite_wf {s : State} (k : Nat) (bs : List Byte) (h : Memory.wf s.mem = true) :
    Memory.wf (s.rawWrite k bs).mem = true := by
  simp [State.rawWrite, h]

@[simp] theorem rawWrite_pol (s : State) (k : Nat) (bs : List Byte) : (s.rawWrite k bs).pol = s.pol := rfl

@[simp] theorem raise_mem (s : State) (f v : Nat) : (s.raise f v).mem = s.mem := rfl
@[simp] theorem raise_pol (s : State) (f v : Nat) : (s.raise f v).pol = s.pol := rfl
@[simp] theorem setFr_mem (s : State) (f o : Nat) (v : Word) : (s.setFr f o v).mem = s.mem := rfl
@[simp] theorem setFr_pol (s : State) (f o : Nat) (v : Word) : (s.setFr f o v).pol = s.pol := rfl
@[simp] theorem updCore_mem (s : State) (c : Nat) (f : Core → Core) : (s.updCore c f).mem = s.mem := rfl
@[simp] theorem updCore_pol (s : State) (c : Nat) (f : Core → Core) : (s.updCore c f).pol = s.pol := rfl
@[simp] theorem clkTick_mem (s : State) (c : Nat) : (s.clkTick c).mem = s.mem := rfl
@[simp] theorem clkTick_pol (s : State) (c : Nat) : (s.clkTick c).pol = s.pol := rfl
@[simp] theorem scUpdate_mem (s : State) (c ia : Nat) (bs : List Byte) : (s.scUpdate c ia bs).mem = s.mem := rfl
@[simp] theorem scUpdate_pol (s : State) (c ia : Nat) (bs : List Byte) : (s.scUpdate c ia bs).pol = s.pol := rfl
@[simp] theorem scClear_mem (s : State) (c : Nat) : (s.scClear c).mem = s.mem := rfl
@[simp] theorem scClear_pol (s : State) (c : Nat) : (s.scClear c).pol = s.pol := rfl
@[simp] theorem scDrop_mem (s : State) (c l : Nat) : (s.scDrop c l).mem = s.mem := rfl
@[simp] theorem scDrop_pol (s : State) (c l : Nat) : (s.scDrop c l).pol = s.pol := rfl
@[simp] theorem monitor_mem (s : State) (ia n : Nat) : (s.monitor ia n).mem = s.mem := rfl
@[simp] theorem monitor_pol (s : State) (ia n : Nat) : (s.monitor ia n).pol = s.pol := rfl

theorem safe_pushRing (f b v : Nat) (r : List Byte) : Safe fun s => s.pushRing f b v r := by
  intro s h
  rw [memWf_iff] at *
  simp only [State.pushRing]
  split <;> simp [h]

theorem safe_sendEvent (f g k c w : Nat) : Safe fun s => s.sendEvent f g k c w := fun s h => safe_pushRing _ _ _ _ s h

theorem safe_evRoll (c x n : Nat) : Safe fun s => s.evRoll c x n := by
  intro s h
  simp only [State.evRoll]
  split <;> exact memWf_of h rfl rfl

theorem safe_countClass (c x st : Nat) (hdl : Word) (k n : Nat) : Safe fun s => s.countClass c x st hdl k n := by
  intro s h
  simp only [State.countClass]
  split
  · exact h
  · have h1 : (s.setSr x (104 + k) (BitVec.ofNat 64 (satAdd 64 (s.sr x (104 + k)).toNat n))).memWf = true := memWf_of h rfl rfl
    have h2 := safe_evRoll c x k _ h1
    split
    · split
      · exact safe_sendEvent _ _ _ _ _ _ (memWf_of h2 rfl rfl)
      · exact memWf_of h2 rfl rfl
    · exact memWf_of h2 rfl rfl

theorem safe_foldl {γ : Type} (f : State → γ → State) (hf : ∀ x, Safe fun s => f s x) : ∀ l : List γ, Safe fun s => l.foldl f s := by
  intro l
  induction l with
  | nil => intro s h; exact h
  | cons a l ih => intro s h; exact ih _ (hf a s h)

theorem safe_countEvs (c x st : Nat) (hdl : Word) (e : Evs) : Safe fun s => s.countEvs c x st hdl e :=
  safe_foldl _ (fun k => safe_countClass c x st hdl k (e.of k)) _

theorem safe_violate (x k a ia : Nat) : Safe fun s => s.violate x k a ia := by
  intro s h
  simp only [State.violate]
  split
  · exact memWf_of h rfl rfl
  · exact safe_sendEvent _ _ _ _ _ _ (memWf_of h rfl rfl)

theorem safe_logZero (x c k p : Nat) (clk : Word) : Safe fun s => s.logZero x c k p clk := by
  intro s h
  simp only [State.logZero]
  split <;> exact memWf_of h rfl rfl

theorem safe_logMc (x ia : Nat) : Safe fun s => s.logMc x ia := by
  intro s h
  simp only [State.logMc]
  split <;> exact memWf_of h rfl rfl

theorem safe_substitute (c x st : Nat) (hdl : Word) (xs : List (Nat × Nat)) : Safe fun s => s.substitute c x st hdl xs := by
  intro s h
  simp only [State.substitute]
  split
  · exact h
  · have h1 := safe_countClass c x st hdl 5 xs.length s h
    have h2 : ((s.countClass c x st hdl 5 xs.length).clkTick c).memWf = true := memWf_of h1 (clkTick_mem _ _) (clkTick_pol _ _)
    refine safe_foldl _ (fun y t ht => ?_) xs _ h2
    exact safe_logZero _ _ _ _ _ _ ht

theorem safe_setS (c d : Nat) (v : Word) : Safe fun s => s.setS c d v := by
  intro s h
  simp only [State.setS]
  split
  · exact h
  · exact memWf_of h rfl rfl

theorem safe_sendEpisodes : Safe State.sendEpisodes := fun _ h =>
  safe_foldl _ (fun _ s h => safe_pushRing _ _ _ _ s h) _ _ (memWf_of h rfl rfl)

theorem safe_putEntry (ia : Nat) (e : Entry) (e0 e1 : Word) : Safe fun s => s.putEntry ia e e0 e1 := by
  intro s h
  have h1 : (if s.episodes = [] then s else s.sendEpisodes).memWf = true := by
    split
    · exact h
    · exact safe_sendEpisodes s h
  rw [memWf_iff] at *
  simp only [State.putEntry]
  exact ⟨rawWrite_wf _ _ h1.1, h1.2⟩

theorem safe_openEpisode (q : Req) (k : AKind) (p : Nat) : Safe fun s => s.openEpisode q k p := by
  intro s h
  simp only [State.openEpisode]
  split <;> exact memWf_of h rfl rfl

theorem safe_migratePage (e : Entry) (ia d : Nat) : Safe fun s => s.migratePage e ia d := by
  intro s h
  exact memWf_of (safe_putEntry ia e _ e.e1 s h) rfl rfl

theorem safe_dropPolder (e : Entry) (ia : Nat) : Safe fun s => s.dropPolder e ia := by
  intro s h
  rw [memWf_iff] at *
  refine ⟨h.1, ?_⟩
  exact wf_cut _ _ h.2 (by omega)

theorem safe_lateFrameFrom (e : Entry) (ia p : Nat) : Safe fun s => s.lateFrameFrom e ia p := by
  intro s h
  simp only [State.lateFrameFrom]
  split
  · exact h
  · refine safe_putEntry _ _ _ _ _ (safe_dropPolder _ _ _ ?_)
    rw [memWf_iff] at *
    exact ⟨wf_moved _ _ _ h.1 h.2, h.2⟩

theorem safe_scrubPolder (ia n : Nat) : Safe fun s => s.scrubPolder ia n := by
  intro s h
  rw [memWf_iff] at *
  exact ⟨h.1, wf_foldl _ (fun m x hm => wf_splice _ _ _ hm) _ _ h.2⟩

theorem safe_polderWrite (ia : Nat) (bs : List Byte) : Safe fun s => s.polderWrite ia bs := by
  intro s h
  have h1 := safe_scrubPolder ia bs.length s h
  rw [memWf_iff] at *
  exact ⟨h1.1, wf_setBytes _ _ h1.2⟩

theorem safe_touch (q : Req) (l : Loc) (ia : Nat) : Safe fun s => s.touch q l ia := fun s h => by
  obtain ⟨f, r, e⟩ := touch_eq s q l ia
  show (s.touch q l ia).memWf = true
  rw [e]; exact h

theorem safe_scFollow (q : Req) (ia : Nat) (bs : List Byte) : Safe fun s => s.scFollow q ia bs := by
  intro s h
  simp only [State.scFollow]
  split <;> exact h

/-! What the operations do to memory. -/

theorem keeps_countM (e : Evs) : Keeps (countM e) := by
  refine keeps_modify fun s h => ?_
  split
  · exact h
  · split
    · exact safe_countEvs _ _ _ _ _ _ h
    · exact h

theorem keeps_translate (q : Req) (va n : Nat) (p : Perm) : Keeps (translate q va n p) := by
  refine keeps_get_bind fun s => ?_
  split
  · exact keeps_bind (keeps_get) (fun t => keeps_bind (keeps_failIf _ _) fun _ => keeps_pure _) s
  · exact keeps_fail _ s

theorem keepAt_get_bind {f : State → M β} {s : State} (h : KeepAt (f s) s) : KeepAt (get >>= f) s :=
  keepAt_bind (keeps_get s) fun a t e => by cases e; exact h

theorem keepAt_fail_bind (x : FaultInfo) (f : α → M β) (s : State) : KeepAt ((fail x : M α) >>= f) s := fun h => h

theorem keepAt_throw_bind (x : Stop) (f : α → M β) (s : State) : KeepAt ((throw x : M α) >>= f) s := fun h => h

theorem keepAt_stall_bind (w : Wait) (f : α → M β) (s : State) : KeepAt ((stall w : M α) >>= f) s := fun h => h

theorem keepAt_set_bind {t : State} {f : Unit → M β} {s : State} (ht : s.memWf = true → t.memWf = true) (hf : KeepAt (f ()) t) :
    KeepAt (set t >>= f) s := fun h => hf (ht h)

/-- A named operation that keeps the form from every state, then the rest. -/
theorem keepAt_op {m : M α} {f : α → M β} {s : State} (hm : Keeps m) (hf : ∀ a t, KeepAt (f a) t) : KeepAt (m >>= f) s :=
  keepAt_bind (hm s) fun a t _ => hf a t

theorem keeps_walk (q : Req) (ia : Nat) (k : AKind) : Keeps (walk q ia k) := by
  intro s
  unfold walk
  refine keepAt_get_bind ?_
  dsimp only
  repeat' first
    | with_reducible exact keeps_pure _ _
    | with_reducible exact keeps_fail _ _
    | with_reducible exact keepAt_fail_bind _ _ _
    | with_reducible exact keepAt_throw_bind _ _ _
    | with_reducible exact keepAt_stall_bind _ _ _
    | with_reducible exact safe_openEpisode _ _ _ s
    | with_reducible exact safe_logMc _ _ s
    | with_reducible exact safe_violate _ _ _ _ s
    | with_reducible refine keepAt_set_bind ?_ ?_
    | split

theorem keeps_lateFrame (e : Entry) (ia p : Nat) : Keeps (lateFrame e ia p) := by
  intro s
  unfold lateFrame
  refine keepAt_get_bind ?_
  dsimp only
  repeat' first
    | with_reducible exact safe_lateFrameFrom _ _ _ s
    | with_reducible exact keepAt_stall_bind _ _ _
    | with_reducible refine keepAt_set ?_
    | split

theorem keeps_newBlock (e : Entry) (ia : Nat) : Keeps (newBlock e ia) := by
  intro s
  unfold newBlock
  refine keepAt_get_bind ?_
  dsimp only
  split
  · refine keepAt_set fun h => ?_
    rw [memWf_iff]
    simp only [setCtx_mem, setCtx_pol]
    rw [← memWf_iff]
    split
    · exact safe_migratePage _ _ _ _ h
    · exact h
  · repeat' first
      | with_reducible exact keeps_fail _ _
      | with_reducible exact keeps_lateFrame _ _ _ s
      | split

theorem keeps_grant (q : Req) (ia : Nat) (k : AKind) : Keeps (grant q ia k) := by
  refine keeps_bind (keeps_walk q ia k) fun l => ?_
  split
  · refine keeps_get_bind fun s => ?_
    split
    · exact keepAt_op (keeps_newBlock _ _) fun _ t => keeps_walk _ _ _ t
    · exact keeps_pure _ s
  · exact keeps_pure _

theorem keeps_withVa (va ia : Nat) {m : M α} (h : Keeps m) : Keeps (withVa va ia m) := by
  refine keeps_tryCatch h fun e => ?_
  split <;> exact keeps_throw _

theorem keeps_whole {m : M α} (hm : Keeps m) : Keeps (whole m) := by
  intro s hs
  have h1 := hm s hs
  unfold whole
  split <;> rename_i e
  · exact hs
  · exact h1

theorem keeps_walkAll (q : Req) (ia n : Nat) (k : AKind) : Keeps (walkAll q ia n k) :=
  keeps_forM _ _ fun _ => keeps_bind (keeps_walk _ _ _) fun _ => keeps_pure _

theorem keeps_grantAll (q : Req) (va ia n : Nat) (k : AKind) : Keeps (grantAll q va ia n k) := by
  refine keeps_withVa _ _ (keeps_ite ?_ ?_)
  · exact keeps_mapM _ _ fun _ => keeps_bind (keeps_grant _ _ _) fun _ => keeps_pure _
  · refine keeps_bind (keeps_walkAll _ _ _ _) fun _ => keeps_bind (keeps_whole ?_) fun _ => ?_
    · exact keeps_forM _ _ fun _ => keeps_bind (keeps_grant _ _ _) fun _ => keeps_pure _
    · exact keeps_mapM _ _ fun _ => keeps_bind (keeps_walk _ _ _) fun _ => keeps_pure _

theorem keeps_countReq (q : Req) (e : Evs) : Keeps (countReq q e) := by
  refine keeps_modify fun s h => ?_
  simp only []
  split
  · exact h
  · split
    · exact h
    · exact safe_countEvs _ _ _ _ _ _ h

theorem keeps_readFrame (q : Req) (e : Entry) (k ia n : Nat) : Keeps (readFrame q e k ia n) := by
  intro s
  unfold readFrame
  refine keepAt_get_bind ?_
  dsimp only
  have hs : Safe fun s : State => (s.scrubWords k n).logMc q.ctx ia := fun s h =>
    safe_logMc _ _ _ (by rw [memWf_iff] at *; simp [h])
  split
  · refine keepAt_op (keeps_pure _) fun f t => ?_
    split
    · exact keepAt_op (keeps_modify hs) fun _ u => keepAt_op (keeps_countReq _ _) (fun _ v => keeps_pure _ v)
    · exact keeps_pure _ t
  · refine keepAt_op keeps_takeFresh fun f t => ?_
    split
    · exact keepAt_op (keeps_modify hs) fun _ u => keepAt_op (keeps_countReq _ _) (fun _ v => keeps_pure _ v)
    · exact keeps_pure _ t

theorem safe_claimLine (e : Entry) (k ia f i : Nat) : Safe fun s => s.claimLine e k ia f i := by
  intro s h
  simp only [State.claimLine]
  rw [memWf_iff] at *
  split
  · exact h
  · split
    · exact h
    · exact ⟨wf_splice _ _ _ h.1, h.2⟩

theorem keeps_writeFrame (e : Entry) (k ia : Nat) (bs : List Byte) : Keeps (writeFrame e k ia bs) := by
  refine keeps_bind keeps_takeFresh fun f => keeps_modify fun s h => ?_
  have h1 : (s.scrubWords k bs.length).memWf = true := by rw [memWf_iff] at *; simp [h]
  have h2 := safe_foldl (fun (s : State) i => s.claimLine e k ia f i) (fun i => safe_claimLine e k ia f i)
    (List.range (lineCount k bs.length)) _ h1
  rw [memWf_iff] at h2 ⊢
  exact ⟨wf_setBytes _ _ h2.1, h2.2⟩

theorem keeps_putAt (q : Req) (l : Loc) (ia : Nat) (bs : List Byte) : Keeps (putAt q l ia bs) := by
  unfold putAt
  split
  · exact keeps_bind (keeps_writeFrame _ _ _ _) fun _ => keeps_modify fun _ h => memWf_of h rfl rfl
  · exact keeps_modify fun s h => memWf_of (safe_polderWrite ia bs s h) rfl rfl
  · exact keeps_modify fun _ h => memWf_of h rfl rfl

theorem keeps_scrubStash (c i ia : Nat) : Keeps (scrubStash c i ia) := by
  refine keeps_get_bind fun s => keepAt_ite ?_ (keeps_pure _ s)
  exact keepAt_op (keeps_modify fun s h => safe_logMc _ _ _ (memWf_of h rfl rfl)) fun _ t =>
    keepAt_get_bind (keeps_countReq _ _ t)

theorem keeps_stashClean (c i : Nat) (l : StLine) : Keeps (stashClean c i l) := by
  refine keeps_get_bind fun s => keepAt_op (keeps_grant _ _ _) fun _ t => keepAt_op (keeps_scrubStash _ _ _) fun _ t => ?_
  exact keepAt_get_bind (keepAt_op (keeps_modify fun s h => memWf_of h rfl rfl) fun _ t => keeps_putAt _ _ _ _ t)

theorem keeps_quietly {m : M Unit} (hm : Keeps m) : Keeps (quietly m) := by
  refine keeps_tryCatch hm fun e => ?_
  split
  · exact keeps_pure _
  · exact keeps_throw _

theorem keeps_readPolder (q : Req) (ia n : Nat) : Keeps (readPolder q ia n) := by
  have last : Keeps (do pure ((← get).pol.bytes ia n) : M (List Byte)) := keeps_bind keeps_get fun _ => keeps_pure _
  refine keeps_get_bind fun s => keepAt_ite ?_ (last s)
  refine keepAt_op (keeps_modify fun s h => safe_logMc _ _ _ (safe_scrubPolder _ _ s h)) fun _ t => ?_
  exact keepAt_op (keeps_countReq _ _) fun _ t => last t

theorem keeps_stashRead (ia n : Nat) : Keeps (stashRead ia n) := by
  refine keeps_get_bind fun s => ?_
  refine keeps_forM _ _ (fun i => keeps_forM _ _ fun h => ?_) s
  exact keeps_ite (keeps_quietly (keeps_stashClean _ _ _)) (keeps_pure _)

theorem keeps_stashWrite (ia n : Nat) : Keeps (stashWrite ia n) := by
  refine keeps_bind (keeps_stashRead _ _) fun _ => keeps_get_bind fun s => ?_
  refine keeps_forM _ _ (fun i => keeps_forM _ _ fun h => keeps_modify ?_) s
  exact fun s h => memWf_of h rfl rfl

theorem keeps_slotStore (q : Req) (g : Nat) (d : SlotDev) (ia : Nat) (bs : List Byte) : Keeps (slotStore q g d ia bs) := by
  intro s
  unfold slotStore
  refine keepAt_get_bind ?_
  dsimp only
  repeat' first
    | with_reducible exact keeps_pure _ _
    | with_reducible exact safe_violate _ _ _ _ s
    | with_reducible refine keepAt_set_bind ?_ ?_
    | with_reducible refine keepAt_op (keeps_modify (safe_sendEvent _ _ _ _ _)) fun _ t => ?_
    | with_reducible refine keepAt_op (keeps_pure _) fun _ t => ?_
    | split

theorem keeps_slotGuard (q : Req) (ia : Nat) (bs : List Byte) : Keeps (slotGuard q ia bs) := by
  unfold slotGuard
  refine keeps_ite (keeps_pure _) (keeps_get_bind fun s => ?_)
  exact keeps_foldlM _ (fun b d => keeps_bind (keeps_slotStore _ _ _ _ _) fun _ => keeps_pure _) _ _ s

theorem keeps_slotResponse (q : Req) (ia : Nat) (b : Bool) : Keeps (slotResponse q ia b) := keeps_failIf _ _

theorem keeps_homePut (q : Req) (l : Loc) (ia : Nat) (bs : List Byte) : Keeps (homePut q l ia bs) :=
  keeps_bind (keeps_stashWrite _ _) fun _ => keeps_bind (keeps_putAt _ _ _ _) fun _ =>
    keeps_modify fun s h => safe_touch _ _ _ _ (safe_scFollow _ _ _ s h)

theorem keeps_homeWrite (q : Req) (l : Loc) (ia : Nat) (bs : List Byte) : Keeps (homeWrite q l ia bs) :=
  keeps_bind (keeps_slotGuard _ _ _) fun _ => keeps_bind (keeps_homePut _ _ _ _) fun _ => keeps_slotResponse _ _ _

theorem keeps_performPend (p : Pend) : Keeps (performPend p) := by
  refine keeps_get_bind fun s => ?_
  split
  · exact keeps_pure _ s
  · exact keeps_quietly (keeps_homeWrite _ _ _ _) s

theorem keeps_settleIf (ag : Nat) (f : Pend → Bool) : Keeps (settleIf ag f) := by
  refine keeps_get_bind fun s => ?_
  exact keepAt_op (keeps_modify fun s h => memWf_of h rfl rfl) fun _ t => keeps_forM _ _ (fun p => keeps_performPend p) t

theorem keeps_settleAll (ag : Nat) : Keeps (settleAll ag) :=
  keeps_bind (keeps_settleIf _ _) fun _ => keeps_modify fun _ h => memWf_of h rfl rfl

theorem keeps_settleSR (ag : Nat) : Keeps (settleSR ag) :=
  keeps_bind (keeps_settleIf _ _) fun _ => keeps_modify fun _ h => memWf_of h rfl rfl

theorem keeps_settleBefore (q : Req) (b : Bool) (ia n : Nat) : Keeps (settleBefore q b ia n) :=
  keeps_bind (keeps_settleIf _ _) fun _ => keeps_ite (keeps_settleIf _ _) (keeps_pure _)

theorem keeps_settleBytes (q : Req) (ia n : Nat) : Keeps (settleBytes q ia n) := keeps_settleBefore _ _ _ _

theorem keeps_performNth (k : Nat) : Keeps (performNth k) := by
  refine keeps_get_bind fun s => ?_
  split
  · refine keepAt_ite (keepAt_set_bind (fun h => memWf_of h rfl rfl) ?_) (keeps_pure _ s)
    exact keepAt_ite (keeps_performPend _ _) (keeps_pure _ _)
  · exact keeps_pure _ s

theorem keeps_letPerform : Keeps letPerform := by
  refine keeps_get_bind fun s => keeps_forM _ _ (fun _ => keeps_bind keeps_takeFresh fun f => keeps_get_bind fun t => ?_) s
  exact keeps_performNth _ t

theorem keeps_homeRead (q : Req) (l : Loc) (ia n : Nat) : Keeps (homeRead q l ia n) := by
  refine keeps_get_bind fun s => ?_
  refine keepAt_op (keeps_settleBefore _ _ _ _) fun _ t => keepAt_op (keeps_stashRead _ _) fun _ t =>
    keepAt_op (keeps_modify (safe_touch _ _ _)) fun _ t => ?_
  split
  · exact keeps_readFrame _ _ _ _ _ t
  · exact keeps_readPolder _ _ _ t
  · exact keepAt_op (keeps_modify fun s h => memWf_of h rfl rfl) fun _ t => keepAt_op keeps_takeFresh fun _ t => keeps_pure _ t

theorem keeps_readAll (q : Req) (ps : List (Loc × Nat × Nat × Nat)) : Keeps (readAll q ps) :=
  keeps_bind (keeps_mapM _ _ fun _ => keeps_homeRead _ _ _ _) fun _ => keeps_pure _

theorem keeps_readBytes (b : Bool) (f : Loc → Nat → Nat → M (List Byte)) (hf : ∀ l i n, Keeps (f l i n)) (l : Loc) (ia n : Nat) :
    Keeps (readBytes b f l ia n) :=
  keeps_ite (hf _ _ _) (keeps_bind (keeps_mapM _ _ fun _ => keeps_bind keeps_letPerform fun _ => hf _ _ _) fun _ => keeps_pure _)

theorem keeps_writeBytes (q : Req) (l : Loc) (ia : Nat) (bs : List Byte) : Keeps (writeBytes q l ia bs) :=
  keeps_bind (keeps_slotGuard _ _ _) fun _ => keeps_bind
    (keeps_forM _ _ fun _ => keeps_bind keeps_letPerform fun _ => keeps_bind (keeps_settleBytes _ _ _) fun _ => keeps_homePut _ _ _ _)
    fun _ => keeps_slotResponse _ _ _

theorem keeps_writeEach (q : Req) (b : Bool) (ps : List (Loc × Nat × Nat × Nat)) (bs : List Byte) : Keeps (writeEach q b ps bs) :=
  keeps_forM _ _ fun _ => keeps_bind (keeps_settleBytes _ _ _) fun _ => keeps_ite (keeps_homeWrite _ _ _ _) (keeps_writeBytes _ _ _ _)

theorem keeps_writeAll (q : Req) (ps : List (Loc × Nat × Nat × Nat)) (bs : List Byte) : Keeps (writeAll q ps bs) := keeps_writeEach _ _ _ _

theorem keeps_readEach (q : Req) (b : Bool) (ps : List (Loc × Nat × Nat × Nat)) : Keeps (readEach q b ps) :=
  keeps_bind (keeps_mapM _ _ fun _ => keeps_readBytes _ _ (fun _ _ _ => keeps_homeRead _ _ _ _) _ _ _) fun _ => keeps_pure _

theorem keeps_readVa (q : Req) (va n : Nat) (p : Perm) (k : AKind) : Keeps (readVa q va n p k) :=
  keeps_bind (keeps_translate _ _ _ _) fun _ => keeps_bind (keeps_grantAll _ _ _ _ _) fun _ => keeps_readAll _ _

theorem keeps_writeVa (q : Req) (va : Nat) (bs : List Byte) : Keeps (writeVa q va bs) :=
  keeps_bind (keeps_translate _ _ _ _) fun _ => keeps_bind (keeps_grantAll _ _ _ _ _) fun _ => keeps_writeAll _ _ _

/-! What the A-stream's reach of memory does. -/

/-- A change of a core reaches no memory. -/
theorem keeps_updCore (c : Nat) (g : State → Core → Core) : Keeps (modify fun s => s.updCore c (g s) : M Unit) := fun _ h => h

theorem keeps_scUpdate (c ia : Nat) (bs : List Byte) : Keeps (modify fun s => s.scUpdate c ia bs : M Unit) := fun _ h => h

theorem keeps_seenRead (q : Req) (l : Loc) (ia n : Nat) : Keeps (seenRead q l ia n) :=
  keeps_bind (keeps_homeRead _ _ _ _) fun _ => keeps_bind (keeps_modify (safe_scFollow _ _ _)) fun _ => keeps_pure _

theorem keeps_seenAll (q : Req) (ps : List (Loc × Nat × Nat × Nat)) : Keeps (seenAll q ps) :=
  keeps_bind (keeps_mapM _ _ fun _ => keeps_seenRead _ _ _ _) fun _ => keeps_pure _

theorem keeps_scBound (c : Nat) : Keeps (scBound c) := by
  refine keeps_get_bind fun s => keepAt_ite (keepAt_op keeps_takeFresh fun f t => ?_) (keeps_pure _ s)
  split
  · exact keeps_modify (fun _ h => h) t
  · exact keeps_pure _ t

theorem keeps_scalarRead (q : Req) (l : Loc) (ia n : Nat) : Keeps (scalarRead q l ia n) := by
  refine keeps_get_bind fun s => ?_
  refine keepAt_ite (keeps_homeRead _ _ _ _ s) ?_
  refine keepAt_op (keeps_settleBytes _ _ _) fun _ t => keepAt_op keeps_takeFresh fun f t => keepAt_get_bind ?_
  refine keepAt_ite (keeps_pure _ t) (keepAt_op (keeps_homeRead _ _ _ _) fun bs t => ?_)
  exact keepAt_op (keeps_updCore _ _) fun _ t => keepAt_op (keeps_scBound _) fun _ t => keeps_pure _ t

theorem keeps_settleFor (q : Req) (ia : Nat) (w : Bool) : Keeps (settleFor q ia w) := by
  refine keeps_get_bind fun s => keepAt_get_bind ?_
  have last : ∀ o : Nat, Keeps (if o = 0 then settleIf q.ag fun p => decide (p.ord = 0) else pure ()) := fun o =>
    keeps_ite (keeps_settleIf _ _) (keeps_pure _)
  exact keepAt_ite (keepAt_op (keeps_settleSR _) fun _ t => last _ t) (last _ s)

theorem keeps_stashFetch (q : Req) (w : StashWin) (va : Nat) : Keeps (stashFetch q w va) := by
  refine keeps_get_bind fun s => ?_
  split
  · exact keeps_pure _ s
  · exact keepAt_get_bind (keepAt_op (keeps_failIf _ _) fun _ t => keepAt_op (keeps_translate _ _ _ _) fun _ t =>
      keepAt_op (keeps_grantAll _ _ _ _ _) fun _ t => keepAt_op (keeps_seenAll _ _) fun _ t => keepAt_op (keeps_updCore _ _) fun _ t =>
        keeps_pure _ t)

theorem keeps_stashCheck (q : Req) (w : StashWin) (va : Nat) : Keeps (stashCheck q w va) := by
  refine keeps_get_bind fun s => keepAt_ite ?_ (keeps_pure _ s)
  split
  · refine keepAt_ite (keeps_scrubStash _ _ _ s) (keepAt_op (keeps_updCore _ _) fun _ t => ?_)
    exact keepAt_op (keeps_stashFetch _ _ _) fun _ t => keeps_pure _ t
  · exact keeps_pure _ s

theorem keeps_stashOpen (q : Req) (w : StashWin) (va : Nat) (b : Bool) : Keeps (stashOpen q w va b) :=
  keeps_bind (keeps_stashFetch _ _ _) fun _ => keeps_bind (keeps_settleFor _ _ _) fun _ => keeps_bind (keeps_settleBytes _ _ _) fun _ =>
    keeps_bind (keeps_stashFetch _ _ _) fun _ => keeps_bind (keeps_stashCheck _ _ _) fun _ => keeps_pure _

theorem keeps_stashBytes (q : Req) (w : StashWin) (va n : Nat) : Keeps (stashBytes q w va n) :=
  keeps_bind (keeps_stashOpen _ _ _ _) fun _ => keeps_bind keeps_get fun _ => keeps_pure _

theorem keeps_stashLoad (q : Req) (b : Bool) (w : StashWin) (va n : Nat) : Keeps (stashLoad q b w va n) :=
  keeps_ite (keeps_stashBytes _ _ _ _)
    (keeps_bind (keeps_mapM _ _ fun _ => keeps_bind keeps_letPerform fun _ => keeps_stashBytes _ _ _ _) fun _ => keeps_pure _)

theorem keeps_loadVa (q : Req) (va n : Nat) (b : Bool) : Keeps (loadVa q va n b) := by
  refine keeps_bind (keeps_translate _ _ _ _) fun ia => keeps_get_bind fun s => ?_
  refine keepAt_ite (keepAt_op (keeps_grantAll _ _ _ _ _) fun _ t => keeps_readEach _ _ _ t) (keepAt_ite ?_ ?_)
  · refine keepAt_op (keeps_grantAll _ _ _ _ _) fun _ t => keepAt_op (keeps_mapM _ _ fun p => ?_) fun _ t => ?_
    · refine keeps_readBytes _ _ (fun _ _ _ => ?_) _ _ _
      split
      · exact keeps_scalarRead _ _ _ _
      · exact keeps_seenRead _ _ _ _
    · exact keeps_bind keeps_get (fun _ => keeps_pure _) t
  · refine keepAt_op (keeps_mapM _ _ fun p => ?_) fun _ t => keeps_bind keeps_get (fun _ => keeps_pure _) t
    refine keeps_get_bind fun s => ?_
    split
    · exact keeps_stashLoad _ _ _ _ _ s
    · refine keepAt_op (keeps_translate _ _ _ _) fun _ t => keepAt_op (keeps_grantAll _ _ _ _ _) fun _ t => ?_
      exact keepAt_op (keeps_mapM _ _ fun p => keeps_readBytes _ _ (fun _ _ _ => keeps_seenRead _ _ _ _) _ _ _) fun _ t => keeps_pure _ t

theorem keeps_storeWaits (q : Req) (no : Nat) (b : Bool) (l : Loc) (ia : Nat) (bs : List Byte) : Keeps (storeWaits q no b l ia bs) :=
  keeps_modify fun s h => memWf_of (safe_scFollow q ia bs s h) rfl rfl

theorem keeps_storeGranted (q : Req) (no : Nat) (b : Bool) (ps : List (Loc × Nat × Nat × Nat)) (bs : List Byte) :
    Keeps (storeGranted q no b ps bs) := by
  refine keeps_forM _ _ fun p => keeps_get_bind fun s => keepAt_ite ?_ (keeps_storeWaits _ _ _ _ _ _ s)
  exact keepAt_op (keeps_settleFor _ _ _) fun _ t => keepAt_op (keeps_settleBytes _ _ _) fun _ t =>
    keeps_ite (keeps_homeWrite _ _ _ _) (keeps_writeBytes _ _ _ _) t

theorem keeps_freeBlock (e : Entry) (b : Nat) : Keeps (freeBlock e b) := by
  refine keeps_get_bind fun s => keepAt_ite (keeps_pure _ s) (keepAt_get_bind ?_)
  refine keepAt_op (keeps_forM _ _ fun _ => keeps_settleIf _ _) fun _ t => keepAt_get_bind (keepAt_ite (keeps_pure _ t) ?_)
  exact keepAt_op (keeps_modify fun s h => memWf_of h rfl rfl) fun _ t => keeps_pure _ t

theorem keeps_discardLine (x ia : Nat) : Keeps (discardLine x ia) := by
  refine keeps_bind (keeps_stashWrite _ _) fun _ => keeps_get_bind fun s => ?_
  split
  · exact keeps_pure _ s
  · refine keepAt_ite (keeps_pure _ s) (keepAt_ite ?_ ?_)
    · refine keepAt_set_bind (fun hs => ?_) (keeps_freeBlock _ _ _)
      have h1 := safe_scrubPolder ia 128 s hs
      rw [memWf_iff] at *
      exact ⟨h1.1, wf_splice _ _ _ h1.2⟩
    · refine keepAt_op keeps_takeFresh fun f t => keepAt_op (keeps_modify fun s hs => ?_) fun _ t => keeps_pure _ t
      rw [memWf_iff] at *
      exact ⟨wf_splice _ _ _ hs.1, hs.2⟩

theorem keeps_discardLines (q : Req) (ls : List Nat) : Keeps (discardLines q ls) := by
  refine keeps_foldlM _ (fun n ia => ?_) _ _
  refine keeps_bind (keeps_settleBytes _ _ _) fun _ => keeps_bind (keeps_settleFor _ _ _) fun _ => ?_
  have last : Keeps (do pure (n + (← discardLine q.ctx ia)) : M Nat) := keeps_bind (keeps_discardLine _ _) fun _ => keeps_pure _
  exact keeps_ite (keeps_bind (keeps_modify fun _ h => h) fun _ => last) last

theorem keeps_stashFlush (c : Nat) : Keeps (stashFlush c) := by
  refine keeps_get_bind fun s => keeps_forM _ _ (fun e => ?_) s
  split
  · exact keeps_ite (keeps_stashClean _ _ _) (keeps_pure _)
  · exact keeps_pure _

theorem keeps_awaitRemote (sc : Nat) (mine : Nat → Bool) : Keeps (awaitRemote sc mine) := by
  have w : ∀ (c : Prop) [Decidable c] (m : M Unit), Keeps m → Keeps (if c then ((throw (.pause (.flight 0)) : M PUnit) >>= fun _ => m) else m) :=
    fun c _ m hm => keeps_ite (fun s => keepAt_throw_bind _ _ s) hm
  refine keeps_get_bind fun s => w _ _ ?_ s
  exact keeps_ite (keeps_throw _) (keeps_pure _)

theorem keeps_release (q : Req) (sc : Nat) : Keeps (release q sc) :=
  keeps_bind (keeps_settleSR _) fun _ =>
    keeps_ite (keeps_bind (keeps_stashFlush _) fun _ => keeps_awaitRemote _ _) (keeps_awaitRemote _ _)

theorem keeps_releaseAt (c ag sc : Nat) : Keeps (releaseAt c ag sc) :=
  keeps_ite (keeps_bind (keeps_stashFlush _) fun _ => keeps_awaitRemote _ _) (keeps_awaitRemote _ _)

theorem keeps_acquire (q : Req) (sc : Nat) : Keeps (acquire q sc) :=
  keeps_ite (keeps_modify fun _ h => h) (keeps_pure _)

theorem keeps_cmdWrites (q : Req) (ws : List (Nat × List Byte)) : Keeps (cmdWrites q ws) :=
  keeps_forM _ _ fun _ => keeps_bind (keeps_grantAll _ _ _ _ _) fun _ => keeps_writeAll _ _ _

theorem keeps_flushOne (c : Nat) (h : Held) : Keeps (flushOne c h) := by
  refine keeps_get_bind fun s => ?_
  have upd : ∀ hs, Keeps (modify fun s => s.setHeld c hs : M Unit) := fun _ => keeps_updCore _ _
  split
  · exact keepAt_op (keeps_grantAll _ _ _ _ _) fun _ t => keepAt_op (upd _) fun _ t => keeps_storeGranted _ _ _ _ _ t
  · exact keeps_throw _ s
  · refine keepAt_op (keeps_cmdWrites _ _) fun _ t => keepAt_op (upd _) fun _ t => ?_
    split
    · exact keepAt_op (keeps_releaseAt _ _ _) fun _ t => upd _ t
    · exact upd _ t
  · refine keepAt_op (keeps_discardLines _ _) fun n t h => ?_
    exact safe_setS c _ _ _ (show (t.setHeld c (s.coreAt c).held.tail).memWf = true from h)

theorem keeps_flushRegion (c : Nat) : Keeps (flushRegion c) :=
  keeps_bind (keeps_updCore _ _) fun _ => keeps_get_bind fun _ =>
    keepAt_op (keeps_forM _ _ fun _ => keeps_flushOne _ _) fun _ t => keeps_settleAll _ t

theorem keeps_irrevocable (c : Nat) : Keeps (irrevocable c) :=
  keeps_get_bind fun s => keepAt_ite (keeps_flushRegion _ s) (keeps_pure _ s)

theorem keeps_resumeFlush (c : Nat) : Keeps (resumeFlush c) :=
  keeps_get_bind fun s => keepAt_ite (keeps_flushRegion _ s) (keeps_pure _ s)

theorem safe_leaveStashes (c i ia : Nat) : Safe fun s => s.leaveStashes c i ia := by
  intro s hs
  simp only [State.leaveStashes]
  refine safe_foldl (fun (s : State) (h : Nat × Nat × StLine) => if h.1 = c ∧ h.2.1 = i then s
    else s.updCore h.1 fun x => { x with stLine := x.stLine.set none h.2.1 none }) (fun h s hs => ?_) _ s hs
  split <;> exact hs

theorem keeps_stashPut (q : Req) (w : StashWin) (va : Nat) (bs : List Byte) : Keeps (stashPut q w va bs) :=
  keeps_bind (keeps_stashOpen _ _ _ _) fun _ => keeps_bind (keeps_modify (safe_leaveStashes _ _ _)) fun _ =>
    keeps_bind (keeps_updCore _ _) fun _ => keeps_modify fun _ h => memWf_of h rfl rfl

theorem keeps_stashStore (q : Req) (b : Bool) (w : StashWin) (va : Nat) (bs : List Byte) : Keeps (stashStore q b w va bs) := by
  refine keeps_bind (keeps_stashOpen _ _ _ _) fun ia => keeps_bind (keeps_slotGuard _ _ _) fun g => keeps_ite ?_ ?_
  · exact keeps_bind (keeps_stashPut _ _ _ _) fun _ => keeps_slotResponse _ _ _
  · exact keeps_bind (keeps_forM _ _ fun _ => keeps_bind keeps_letPerform fun _ => keeps_stashPut _ _ _ _) fun _ => keeps_slotResponse _ _ _

theorem keeps_storePart (q : Req) (va n : Nat) : Keeps (storePart q va n) := by
  refine keeps_get_bind fun s => ?_
  split
  · exact keepAt_op (keeps_stashFetch _ _ _) fun _ t => keeps_pure _ t
  · exact keeps_translate _ _ _ _ s

/-- The parts of a store, outside a region or after its flush. -/
theorem keeps_storeParts (q : Req) (va ia : Nat) (bs : List Byte) : Keeps (do
      let x := (← get).coreAt q.ag
      let once := decide (va % bs.length = 0)
      let no := (← get).issued
      if !q.isCore || ((x.stashWin? va).isNone && (x.stashWin? (va + bs.length - 1)).isNone) then
        storeGranted q no once (← grantAll q va ia bs.length .write) bs
      else
        (lineParts va bs.length).forM fun p => do
          let ia ← storePart q p.1 p.2
          withVa p.1 ia (walkAll q ia p.2 .write)
        whole ((lineParts va bs.length).forM fun p => do
          let ia ← storePart q p.1 p.2
          let _ ← grantAll q p.1 ia p.2 .write)
        (lineParts va bs.length).forM fun p => do
          let part := (bs.drop (p.1 - va)).take p.2
          match ((← get).coreAt q.ag).stashWin? p.1 with
          | some w => stashStore q once w p.1 part
          | none =>
            let ia ← translate q p.1 p.2 { w := true }
            storeGranted q no once (← grantAll q p.1 ia p.2 .write) part : M Unit) := by
  refine keeps_get_bind fun s => keepAt_get_bind
    (keepAt_ite (keepAt_op (keeps_grantAll _ _ _ _ _) fun _ t => keeps_storeGranted _ _ _ _ _ t) ?_)
  refine keepAt_op (keeps_forM _ _ fun p => keeps_bind (keeps_storePart _ _ _) fun _ => keeps_withVa _ _ (keeps_walkAll _ _ _ _)) fun _ t =>
    keepAt_op (keeps_whole (keeps_forM _ _ fun p => keeps_bind (keeps_storePart _ _ _) fun _ =>
      keeps_bind (keeps_grantAll _ _ _ _ _) fun _ => keeps_pure _)) fun _ t =>
      keeps_forM _ _ (fun p => keeps_get_bind fun s => ?_) t
  split
  · exact keeps_stashStore _ _ _ _ _ s
  · exact keepAt_op (keeps_translate _ _ _ _) fun _ t => keepAt_op (keeps_grantAll _ _ _ _ _) fun _ t => keeps_storeGranted _ _ _ _ _ t

theorem keeps_storeVa (q : Req) (va : Nat) (bs : List Byte) : Keeps (storeVa q va bs) := by
  refine keeps_bind (keeps_translate _ _ _ _) fun ia => keeps_get_bind fun s => ?_
  have last := keeps_storeParts q va ia bs
  refine keepAt_ite ?_ (keepAt_ite (keepAt_op (keeps_resumeFlush _) fun _ t => last t) (last s))
  refine keepAt_op (keeps_withVa _ _ (keeps_walkAll _ _ _ _)) fun _ t => keepAt_get_bind ?_
  exact keepAt_ite (keepAt_op (keeps_modify fun _ h => memWf_of h rfl rfl) fun _ t => keeps_pure _ t)
    (keepAt_op (keeps_flushRegion _) fun _ t => last t)

theorem keeps_atomicAt (q : Req) (va ia o w x e : Nat) : Keeps (atomicAt q va ia o w x e) := by
  refine keeps_get_bind fun s => ?_
  have last : Keeps (do
      let ps ← grantAll q va ia (w / 8) .write
      match ps with
      | (.peer m, _) :: _ =>
        settleBefore q (decide ((← get).ordOf q.ctx (.peer m) = 0)) ia (w / 8)
        modify fun s => { s.toPeer q m ia (.amo o w (BitVec.ofNat 64 x) (BitVec.ofNat 64 e)) with
          remote := s.remote ++ [⟨q.ag, true⟩], lastMem := s.dtime }
        let f ← takeFresh
        let old := (Config.freeWord f).toNat % 2 ^ w
        pure (old, (amoNew o w old x e).2)
      | _ =>
        let old := leNat (← readAll q ps)
        let r := amoNew o w old x e
        writeAll q ps (leBytes (w / 8) r.1)
        pure (old, r.2) : M (Nat × Evs)) := by
    refine keeps_bind (keeps_grantAll _ _ _ _ _) fun ps => ?_
    split
    · exact keeps_get_bind fun s => keepAt_op (keeps_settleBefore _ _ _ _) fun _ t =>
        keepAt_op (keeps_modify fun s h => memWf_of h rfl rfl) fun _ t => keepAt_op keeps_takeFresh fun _ t => keeps_pure _ t
    · exact keeps_bind (keeps_readAll _ _) fun _ => keeps_bind (keeps_writeAll _ _ _) fun _ => keeps_pure _
  exact keepAt_ite (keepAt_fail_bind _ _ s) (last s)

/-! What the device's own events do to memory. -/

theorem safe_copyFrame (a b n : Nat) : Safe fun s => s.copyFrame a b n := by
  intro s h
  rw [memWf_iff] at *
  exact ⟨wf_splice _ _ _ h.1, h.2⟩

theorem keeps_loseSlot (d : SlotDev) : Keeps (loseSlot d) := by
  refine keeps_bind keeps_takeFresh fun f => keeps_get_bind fun s => ?_
  split
  · refine keepAt_set fun h => ?_
    rw [memWf_iff] at *
    exact ⟨wf_splice _ _ _ h.1, h.2⟩
  · exact keeps_pure _ s

theorem keeps_stopStores : Keeps stopStores := by
  refine keeps_bind keeps_takeFresh fun f => keeps_get_bind fun s => ?_
  refine keepAt_set_bind (fun h => h) (keeps_forM _ _ (fun p => ?_) _)
  exact keeps_ite (keeps_pure _) (keeps_performPend _)

theorem reset_memWf : State.reset.memWf = true := rfl

theorem powerless_memWf (s : State) : s.powerless.memWf = true := rfl

theorem fetchMem_wf {m : Sparse Byte} (w : Nat) (h : Memory.wf m = true) : Memory.wf (fetchMem m w) = true := by
  exact wf_setBytes _ _ (wf_setBytes _ _ (wf_setBytes _ _ h))

theorem withFetchWord_memWf (s : State) (nbits w : Nat) (h : s.memWf = true) : (s.withFetchWord nbits w).memWf = true := by
  rw [memWf_iff] at *
  simp only [State.withFetchWord, setSr_pol, setCore_pol, setSr_mem, setCore_mem]
  exact ⟨fetchMem_wf w h.1, h.2⟩

end Sys2Proof.Laws
end

