-- ==== Sys2Proof/Tests/Slice0.lean ====
section
/-! SUPPORT. Tests: the decoder on words of the spec, ill-formed terms, results that the spec works out, and for every statement
with hypotheses a state that meets them. -/

set_option Elab.async false
set_option maxRecDepth 100000

namespace Sys2Proof.Tests

open Sys2Proof.Machine Sys2Proof.Claims

theorem test_words_scalar_1 : ∀ r ∈ ([
   (0x07B5F900, .add 59 23 57), (0x041C8901, .sub 1 50 9), (0x043DC402, .and 3 55 4), (0x0459C103, .or 5 39 1),
   (0x06E19D04, .xor 46 6 29), (0x0430C305, .andn 3 3 3), (0x07F7EA06, .sll 63 31 42), (0x0460CF07, .srl 6 3 15),
   (0x0451FF08, .sra 5 7 63), (0x07C05409, .rol 60 1 20), (0x0430ED0A, .slt 3 3 45), (0x04FA0D0B, .sltu 15 40 13),
   (0x0451290C, .min 5 4 41), (0x07A0C70D, .max 58 3 7), (0x05F3090E, .minu 31 12 9), (0x04313C0F, .maxu 3 4 60),
   (0x0410C510, .mul 1 3 5), (0x0450EC11, .mulh 5 3 44), (0x04D24712, .mulhu 13 9 7), (0x043AD113, .div 3 43 17),
   (0x043D4514, .divu 3 53 5), (0x0701F315, .rem 48 7 51), (0x0431C516, .remu 3 7 5), (0x07C0C018, .popc 60 3),
   (0x04498019, .clz 4 38), (0x042B401A, .ctz 2 45), (0x0423801B, .bhash 2 14 0), (0x0459801C, .sextB 5 38),
   (0x044E401D, .sextH 4 57), (0x07B6001E, .sextW 59 24), (0x0555CC76, .fsh 21 23 12 54), (0x0870C03E, .addi 7 3 62),
   (0x0FB08005, .andi 59 2 5), (0x1036C006, .ori 3 27 6), (0x172CC003, .xori 50 51 3), (0x1831572E, .slti 3 5 5934),
   (0x1F512692, .sltiu 53 4 9874), (0x2307000E, .slli 48 28 14), (0x20310057, .srli 3 4 23), (0x2130C083, .srai 19 3 3),
   (0x2030C0C3, .roli 3 3 3), (0x24400003, .li 4 3), (0x2A069632, .lsi 32 431666), (0x2D5E40C1, .bfx 21 57 3 1),
   (0x2D60E00C, .bfxS 22 3 0 12)] : List (Nat × Instr)),
    decodeA r.1 = .ok r.2 := by decide +kernel

theorem test_words_scalar_2 : ∀ r ∈ ([
   (0x303F00D5, .bfi 3 60 3 21), (0x40604003, .ldB 6 1 0 3), (0x43BD5669, .ldH 59 53 1 617), (0x4274E74D, .ldW 39 19 1 845),
   (0x4070F803, .ldD 7 3 2 3), (0x44C68B29, .ldBs 12 26 2 809), (0x4700D801, .ldHs 48 3 2 1), (0x45DDE00D, .ldWs 29 55 0 13),
   (0x4900C82D, .stB 16 3 2 45), (0x49B0D003, .stH 27 3 0 3), (0x483DE003, .stW 3 55 0 3), (0x483B3006, .stD 3 44 0 6),
   (0x4C32C000, .vld 3 11), (0x4C398108, .vldS 3 38 1), (0x4C178010, .vldBc 1 30), (0x50124000, .qpush 1 9),
   (0x50B00001, .qpop 11 0), (0x54760000, .wlc 7 24), (0x620FC7C5, .copy 32 63 7 1 1 5), (0x6000C389, .gather 0 3 3 1 0 1),
   (0x6031C791, .scatter 3 7 7 1 0 1), (0x603B835B, .rcopy 3 46 3 0 1 3), (0x6037F3E3, .copyMma 3 31 51 1 1 3),
   (0x6405C000, .cancel 23), (0x64084008, .hwait 33), (0x65F0C010, .htest 31 3), (0x689EE807, .amoAddRlx 9 59 40 0 7),
   (0x6BD0E308, .amoAndRlx 61 3 35 0 0), (0x6991C316, .amoOrRlx 25 7 3 0 6), (0x6B832719, .amoXorRlx 56 12 39 0 1),
   (0x68608321, .amoMinRlx 6 2 3 0 1), (0x6AE1C3AD, .amoMaxRlx 46 7 3 1 5), (0x68FA7633, .amoMinuRlx 15 41 54 0 3),
   (0x6830CC3E, .amoMaxuRlx 3 3 12 0 6), (0x69A1D1C2, .amoSwapRlx 26 7 17 1 2), (0x687B044B, .amoCasRlx 7 44 4 0 3),
   (0x6AF0C2D5, .amoFaddRlx 47 3 2 5), (0x6AB93FDB, .amoFmaxRlx 43 36 63 3), (0x68338DE3, .amoFminRlx 3 14 13 3),
   (0x6C40A781, .amoAddAcq 4 2 39 1 1), (0x6C51C30A, .amoAndAcq 5 7 3 0 2), (0x6FF3B996, .amoOrAcq 63 14 57 1 6),
   (0x6C2A0A9B, .amoXorAcq 2 40 10 1 3), (0x6DC003A7, .amoMinAcq 28 0 3 1 7), (0x6D21B029, .amoMaxAcq 18 6 48 0 1)] : List (Nat × Instr)),
    decodeA r.1 = .ok r.2 := by decide +kernel

theorem test_words_scalar_3 : ∀ r ∈ ([
   (0x6DD3AFB3, .amoMinuAcq 29 14 47 1 3), (0x6DF1EF3A, .amoMaxuAcq 31 7 47 0 2), (0x6C50C342, .amoSwapAcq 5 3 3 0 2),
   (0x6C50E74B, .amoCasAcq 5 3 39 0 3), (0x6FAF43D2, .amoFaddAcq 58 61 3 2), (0x6C3119DD, .amoFmaxAcq 3 4 25 5),
   (0x6C4041E3, .amoFminAcq 4 1 1 3), (0x7070C303, .amoAddRel 7 3 3 0 3), (0x7020C389, .amoAndRel 2 3 3 1 1),
   (0x70316893, .amoOrRel 3 5 40 1 3), (0x72761A1B, .amoXorRel 39 24 26 0 3), (0x737B81A3, .amoMinRel 55 46 1 1 3),
   (0x705106A8, .amoMaxRel 5 4 6 1 0), (0x702004B5, .amoMinuRel 2 0 4 1 5), (0x723181B8, .amoMaxuRel 35 6 1 1 0),
   (0x71739EC0, .amoSwapRel 23 14 30 1 0), (0x701E80CA, .amoCasRel 1 58 0 1 2), (0x7030DED1, .amoFaddRel 3 3 30 1),
   (0x70738CDB, .amoFmaxRel 7 14 12 3), (0x730003E1, .amoFminRel 48 0 3 1), (0x77C0C482, .amoAddRc 60 3 4 1 2),
   (0x7457C50A, .amoAndRc 5 31 5 0 2), (0x74300793, .amoOrRc 3 0 7 1 3), (0x74D0D61E, .amoXorRc 13 3 22 0 6),
   (0x748A89A0, .amoMinRc 8 42 9 1 0), (0x7436C0AB, .amoMaxRc 3 27 0 1 3), (0x7433C3B2, .amoMinuRc 3 15 3 1 2),
   (0x743041BB, .amoMaxuRc 3 1 1 1 3), (0x7431E440, .amoSwapRc 3 7 36 0 0), (0x76007A4D, .amoCasRc 32 1 58 0 5),
   (0x7460C3D1, .amoFaddRc 6 3 3 1), (0x743083DA, .amoFmaxRc 3 2 3 2), (0x747743E6, .amoFminRc 7 29 3 6),
   (0x78000003, .fenceAcq 3), (0x7800000D, .fenceRel 5), (0x78000015, .fenceAr 5), (0x7800001E, .fenceDrain 6),
   (0x7D744300, .waitwEq 23 17 3), (0x7CC99E08, .waitwNe 12 38 30), (0x7C0E4610, .waitwGeu 0 57 6), (0x7D814318, .waitwLtu 24 5 3),
   (0x8070C700, .resv 7 3 7), (0x83C0870B, .disc 60 2 7 3), (0x82C0C117, .migr 44 3 1 7), (0x80100218, .pin 1 0 2)] : List (Nat × Instr)),
    decodeA r.1 = .ok r.2 := by decide +kernel

theorem test_words_scalar_4 : ∀ r ∈ ([
   (0x803D0720, .unpin 3 52 7), (0x84030000, .launch 12), (0x84000008, .irv), (0x84000010, .endA), (0x88000302, .barArr 3 2),
   (0x8800060B, .barWait 6 3), (0x88000313, .barSync 3 3), (0x8C37F304, .fork 3 31 51 4), (0x8DB44508, .msend 27 17 5 0),
   (0x8D80C310, .mrecv 24 3 3), (0x8C30C21C, .srch 3 3 2 4), (0x90194300, .scommit 1 37 3), (0x9036C508, .trunc 3 27 5),
   (0x9030D310, .sread 3 3 19), (0x90058618, .sarmCreate 0 22 6), (0x94000000, .nop), (0x95E00208, .mfs 30 2 0),
   (0x94008210, .mts 2 2 0), (0x9400011B, .ecall 1 3), (0x94000020, .eret), (0x94000628, .trap 6 0), (0x94000234, .brk 2 4),
   (0xA02FE48A, .bez 47 58506), (0xA0470017, .bnz 7 23), (0xA0A20003, .bltz 34 3), (0xA0D337C7, .bgez 19 14279),
   (0xA13829CF, .bgtz 56 10703), (0xA14F0000, .blez 15 0), (0xA1800003, .br 3), (0xA40386E7, .beq 3 33 743),
   (0xA4601800, .bne 32 6 0), (0xA483715A, .blt 3 28 346), (0xA4C2F426, .bge 2 61 38), (0xA530AC03, .bltu 48 43 3),
   (0xA5460C03, .bgeu 6 3 3), (0xA9900018, .call 25 24), (0xAC004000, .jr 1), (0xAC3F8001, .jalr 3 62)] : List (Nat × Instr)),
    decodeA r.1 = .ok r.2 := by decide +kernel

theorem test_words_associative_1 : ∀ r ∈ ([
   (0x04000000, .znop), (0x08180000, .zreg 6), (0x10C00602, .zcmpEq 0 6 3 2), (0x14F40603, .zcmpEqAnd 0 7 5 3 3),
   (0x192C0006, .zcmpEqOr 1 1 3 0 6), (0x1F0006D0, .zcmpNe 3 0 3 208), (0x2334121B, .zcmpNeAnd 3 1 5 9 27),
   (0x274C0201, .zcmpNeOr 3 2 3 1 1), (0x2A6000E8, .zwr 2 3 0 232), (0x2C207037, .zwrc 0 1 56 55), (0x33C00201, .zwrs 3 6 1 1),
   (0x34000C38, .zfld 6 56), (0x40340002, .zadd 0 1 5 0 2), (0x47640202, .zsub 3 3 1 1 2), (0x4B007292, .zaddk 3 0 0 57 146),
   (0x4C6C3801, .zsubk 0 3 3 28 1), (0x53141C00, .zgt 3 0 5 14 0), (0x570C66DB, .zlt 3 0 3 51 219), (0x588C0203, .zeqf 0 4 3 1 3),
   (0x5F680603, .zgtk 3 3 2 3 3), (0x6261F003, .zltk 2 3 0 248 3), (0x670DE631, .zmul 3 3 243 49), (0x6B004C7A, .zmov 3 0 38 122),
   (0x71141000, .zcnt 1 5 8), (0x75140600, .zfirst 1 5 3), (0x78402000, .ztagAnd 0 2 0 2), (0x79C07200, .ztagOr 1 6 0 7),
   (0x7B8C5400, .ztagXor 3 4 3 5), (0x7B7C5600, .ztagAndn 3 3 7 5), (0x7B880800, .ztagMov 3 4 2), (0x7BEC0A00, .ztagNot 3 7 3),
   (0x7B200C00, .ztagSet 3 1), (0x7B600E00, .ztagClr 3 3), (0x820C00FF, .zscore 2 3), (0x86080002, .zsel 8 2 2),
   (0x88C00003, .zins 3 3), (0x8C000002, .zage 0 2), (0x8C00003A, .zageClr 6 2), (0x9140000D, .zdel 5 3 1),
   (0x97400008, .zspill 13 2 0), (0x94000020, .zspillCnt 0 0), (0xA0000000, .zkld), (0xA4040600, .zkset 1 3 0),
   (0xA80C6E02, .zkget 3 55 2), (0xC0080003, .yadd 0 2 3)] : List (Nat × Instr)),
    decodeZ r.1 = .ok r.2 := by decide +kernel

theorem test_words_associative_2 : ∀ r ∈ ([
   (0xC4C80003, .yaddi 3 2 3), (0xC94C0004, .ysub 5 3 4), (0xCD000019, .yli 4 25), (0xD3B80000, .yand 14 14 0),
   (0xD4E40008, .yor 3 9 8), (0xD8040000, .ypush 1), (0xDCC00000, .ypop 3), (0xEC000003, .zbr 3), (0xF0E00006, .zbeq 3 8 6),
   (0xF4EC0003, .zbne 3 11 3), (0xF8C35EF7, .zloop 3 220919), (0xFC000000, .zend)] : List (Nat × Instr)),
    decodeZ r.1 = .ok r.2 := by decide +kernel

theorem test_words_vector_1 : ∀ r ∈ ([
   (0x0500000000000000, ⟨0, 5⟩, .vnop ⟨0, 5⟩), (0xC400000011D05302, ⟨1, 68⟩, .fadd ⟨1, 68⟩ 2 7 (.k 1) (.k 12)),
   (0x0500000020E3A383, ⟨0, 5⟩, .fsub ⟨0, 5⟩ 3 3 (.const 14) (.const 14)),
   (0x7F00000039516143, ⟨0, 127⟩, .fmul ⟨0, 127⟩ 3 37 (.k 5) (.const 5)),
   (0xC400000044606143, ⟨1, 68⟩, .fma ⟨1, 68⟩ 3 17 (.const 1) (.const 5)),
   (0x0500000051A11042, ⟨0, 5⟩, .fms ⟨0, 5⟩ 2 6 (.const 4) (.k 1)),
   (0x050000006AE74080, ⟨0, 5⟩, .fnma ⟨0, 5⟩ 0 43 (.const 29) (.vec 2)),
   (0x7F00000070F0E440, ⟨0, 127⟩, .fmin ⟨0, 127⟩ 3 (.lit 3) (.const 17)),
   (0xC40000008C41A040, ⟨1, 68⟩, .fmax ⟨1, 68⟩ 49 (.vec 6) (.const 1)), (0x050000009D673000, ⟨0, 5⟩, .fabs ⟨0, 5⟩ 53 (.const 28)),
   (0xC4000000AB91B000, ⟨1, 68⟩, .fneg ⟨1, 68⟩ 46 (.k 6)), (0xC4000000B4D6F004, ⟨1, 68⟩, .rcp ⟨1, 68⟩ 4 19 (.k 27)),
   (0xC4000000CE907001, ⟨1, 68⟩, .rsqrt ⟨1, 68⟩ 1 58 (.k 1)), (0xC4000000D0E0B000, ⟨1, 68⟩, .exp2 ⟨1, 68⟩ 0 3 (.const 2)),
   (0x7F000000E3A07004, ⟨0, 127⟩, .log2 ⟨0, 127⟩ 4 14 (.const 1)),
   (0x7F0000010A17C083, ⟨0, 127⟩, .hadd ⟨0, 127⟩ 0 3 40 (.k 31) (.vec 2)),
   (0xC40000011074A0C8, ⟨1, 68⟩, .hsub ⟨1, 68⟩ 1 0 1 (.lit 18) (.const 3)),
   (0x0500000121D17180, ⟨0, 5⟩, .hmul ⟨0, 5⟩ 0 0 7 (.k 5) (.lit 6)),
   (0x7F00000133565109, ⟨0, 127⟩, .hfma ⟨0, 127⟩ 1 1 13 (.k 25) (.k 4)),
   (0xC400000140E09088, ⟨1, 68⟩, .hmin ⟨1, 68⟩ 1 3 (.const 2) (.k 2)),
   (0x7F000001500C1540, ⟨0, 127⟩, .hmax ⟨0, 127⟩ 0 0 (.vec 48) (.k 21)),
   (0x0500000201C3F1C0, ⟨0, 5⟩, .iadd ⟨0, 5⟩ 0 7 (.vec 15) (.lit 7)),
   (0x050000021AB18880, ⟨0, 5⟩, .isub ⟨0, 5⟩ 0 42 (.lit 6) (.vec 34)),
   (0xC400000221117082, ⟨1, 68⟩, .imul ⟨1, 68⟩ 2 4 (.k 5) (.lit 2)),
   (0xC40000023150A080, ⟨1, 68⟩, .imulh ⟨1, 68⟩ 0 5 (.k 2) (.const 2)),
   (0x7F00000241616040, ⟨0, 127⟩, .imulhu ⟨0, 127⟩ 0 5 (.const 5) (.const 1)),
   (0x0500000250F052C0, ⟨0, 5⟩, .iand ⟨0, 5⟩ 0 3 (.lit 1) (.k 11)),
   (0x7F00000266A7D180, ⟨0, 127⟩, .ior ⟨0, 127⟩ 0 26 (.const 31) (.k 6)),
   (0x7F00000270C9F781, ⟨0, 127⟩, .ixor ⟨0, 127⟩ 1 3 (.vec 39) (.lit 30)),
   (0x7F00000281615182, ⟨0, 127⟩, .iandn ⟨0, 127⟩ 2 5 (.const 5) (.k 6)),
   (0x050000029A52F081, ⟨0, 5⟩, .isll ⟨0, 5⟩ 1 41 (.k 11) (.lit 2)),
   (0x7F000002A161D041, ⟨0, 127⟩, .isrl ⟨0, 127⟩ 1 5 (.const 7) (.k 1))] : List (Nat × XGuard × Instr)),
    decodeX r.1 = .ok ⟨r.2.2, .knop r.2.1⟩ := by decide +kernel

theorem test_words_vector_2 : ∀ r ∈ ([
   (0x05000002B0D5A141, ⟨0, 5⟩, .isra ⟨0, 5⟩ 1 3 (.k 22) (.const 5)),
   (0xC4000002C07100C2, ⟨1, 68⟩, .imin ⟨1, 68⟩ 2 1 (.lit 4) (.vec 3)),
   (0xC4000002D0F0D302, ⟨1, 68⟩, .imax ⟨1, 68⟩ 2 3 (.lit 3) (.k 12)),
   (0x05000002E175D142, ⟨0, 5⟩, .iminu ⟨0, 5⟩ 2 5 (.lit 23) (.k 5)),
   (0xC4000002F1D101C0, ⟨1, 68⟩, .imaxu ⟨1, 68⟩ 0 7 (.k 4) (.vec 7)),
   (0x7F00000300CEA1C0, ⟨0, 127⟩, .iadds ⟨0, 127⟩ 0 3 (.vec 58) (.const 7)),
   (0xC40000031B1451C2, ⟨1, 68⟩, .iaddus ⟨1, 68⟩ 2 44 (.k 17) (.k 7)),
   (0x7F0000032EC34AC2, ⟨0, 127⟩, .isubs ⟨0, 127⟩ 2 59 (.vec 13) (.vec 43)),
   (0x0500000331504980, ⟨0, 5⟩, .isubus ⟨0, 5⟩ 0 5 (.k 1) (.vec 38)), (0x0500000340D0F002, ⟨0, 5⟩, .iabs ⟨0, 5⟩ 2 3 (.k 3)),
   (0x7F000003827111C3, ⟨0, 127⟩, .fcmp ⟨0, 127⟩ 3 9 (.lit 4) (.k 7)),
   (0xC400000390C19647, ⟨1, 68⟩, .icmp ⟨1, 68⟩ 7 3 (.vec 6) (.k 25)),
   (0xC4000003C8D180A1, ⟨1, 68⟩, .sel ⟨1, 68⟩ 33 35 (.k 6) (.vec 2)), (0x05000003DD80C0C0, ⟨0, 5⟩, .pand ⟨0, 5⟩ 54 3 3),
   (0x05000003D0C0C701, ⟨0, 5⟩, .por ⟨0, 5⟩ 3 3 28), (0xC4000003D080C022, ⟨1, 68⟩, .pxor ⟨1, 68⟩ 66 3 0),
   (0x7F000003D1898E83, ⟨0, 127⟩, .pandn ⟨0, 127⟩ 6 38 58), (0x7F000003D201C0C4, ⟨0, 127⟩, .porn ⟨0, 127⟩ 8 7 3),
   (0x7F000003D0C0C005, ⟨0, 127⟩, .pnot ⟨0, 127⟩ 3 3), (0xC4000003D0C00006, ⟨1, 68⟩, .pset ⟨1, 68⟩ 3),
   (0xC4000003DA000007, ⟨1, 68⟩, .pclr ⟨1, 68⟩ 40), (0xC400000410CEB00C, ⟨1, 68⟩, .cvt ⟨1, 68⟩ 1 12 3 (.vec 58)),
   (0x7F000004A0C1300E, ⟨0, 127⟩, .cvtF32 ⟨0, 127⟩ 2 14 3 (.vec 4)), (0x0500000510C14411, ⟨0, 5⟩, .mxq ⟨0, 5⟩ 1 17 3 (.vec 5) 16),
   (0x0500000550D0C1D1, ⟨0, 5⟩, .mxdq ⟨0, 5⟩ 17 3 (.k 3) (.vec 7)),
   (0x7F00000590D141D8, ⟨0, 127⟩, .tsqTsf8a ⟨0, 127⟩ 1 3 (.k 5) 7),
   (0xC400000590E3A199, ⟨1, 68⟩, .tsqTsf8w ⟨1, 68⟩ 1 3 (.const 14) (.const 6)),
   (0xC4000005D3007518, ⟨1, 68⟩, .tsdq ⟨1, 68⟩ 24 12 (.vec 1) (.lit 20)),
   (0xC40000060085F009, ⟨1, 68⟩, .fredsum ⟨1, 68⟩ 1 1 2 (.vec 23)), (0x050000061000F000, ⟨0, 5⟩, .fredmax ⟨0, 5⟩ 0 0 (.vec 3)),
   (0xC400000620C7F008, ⟨1, 68⟩, .fredmin ⟨1, 68⟩ 1 3 (.vec 31)), (0x7F00000630C97000, ⟨0, 127⟩, .iredsum ⟨0, 127⟩ 0 3 (.vec 37))] : List (Nat × XGuard × Instr)),
    decodeX r.1 = .ok ⟨r.2.2, .knop r.2.1⟩ := by decide +kernel

theorem test_words_vector_3 : ∀ r ∈ ([
   (0x050000064B41F008, ⟨0, 5⟩, .iredmax ⟨0, 5⟩ 1 45 (.vec 7)), (0x0500000650C0F008, ⟨0, 5⟩, .iredmin ⟨0, 5⟩ 1 3 (.vec 3)),
   (0x0500000660C0B000, ⟨0, 5⟩, .iredmaxu ⟨0, 5⟩ 0 3 (.vec 2)), (0x0500000673417008, ⟨0, 5⟩, .iredminu ⟨0, 5⟩ 1 13 (.vec 5)),
   (0xC400000680CE8140, ⟨1, 68⟩, .vperm ⟨1, 68⟩ 3 (.vec 58) (.vec 5)),
   (0xC400000690C12580, ⟨1, 68⟩, .vbcast ⟨1, 68⟩ 3 (.vec 4) (.const 22)),
   (0x7F000006A0457180, ⟨0, 127⟩, .vrot ⟨0, 127⟩ 1 (.vec 21) (.lit 6)),
   (0x7F000006BD0097C0, ⟨0, 127⟩, .vshl ⟨0, 127⟩ 52 (.vec 2) (.k 31)),
   (0xC4000006C280B180, ⟨1, 68⟩, .vshr ⟨1, 68⟩ 10 (.vec 2) (.lit 6)),
   (0xC4000006D0C187C0, ⟨1, 68⟩, .vzip ⟨1, 68⟩ 3 (.vec 6) (.vec 31)),
   (0x7F000006EAC70400, ⟨0, 127⟩, .vunzip ⟨0, 127⟩ 43 (.vec 28) (.vec 16)),
   (0x7F000006F1C18700, ⟨0, 127⟩, .vcomp ⟨0, 127⟩ 7 (.vec 6) 28),
   (0xC400000704E13142, ⟨1, 68⟩, .vbfx ⟨1, 68⟩ 2 19 (.const 4) (.lit 5)),
   (0x7F0000071D545084, ⟨0, 127⟩, .vbfxS ⟨0, 127⟩ 4 53 (.k 17) (.k 2)),
   (0xC400000720C7609E, ⟨1, 68⟩, .vfsh ⟨1, 68⟩ 30 3 (.vec 29) (.const 2)),
   (0x7F00000781110A00, ⟨0, 127⟩, .lgth ⟨0, 127⟩ 0 4 (.k 4) (.vec 40)),
   (0x7F00000799F1E1C1, ⟨0, 127⟩, .lsct ⟨0, 127⟩ 1 39 (.lit 7) (.const 7)),
   (0xC4000007A063A440, ⟨1, 68⟩, .lld ⟨1, 68⟩ 0 1 (.const 14) (.const 17)),
   (0x05000007B05400C0, ⟨0, 5⟩, .lst ⟨0, 5⟩ 0 1 (.k 16) (.vec 3)), (0x7F000007C001F000, ⟨0, 127⟩, .zpush (.vec 7)),
   (0x7F00000801D05640, ⟨0, 127⟩, .tld 7 (.k 1) (.k 25)), (0x7F00000810F03000, ⟨0, 127⟩, .tfree 3),
   (0x7F00000827D2D709, ⟨0, 127⟩, .mma 9 1 15 (.k 11) (.k 28)), (0x7F00000831945398, ⟨0, 127⟩, .mmaTs 6 (.k 17) (.k 14)),
   (0x7F0000084290D115, ⟨0, 127⟩, .mmaMx 21 0 10 (.k 3) (.k 4)), (0x7F0000085751B049, ⟨0, 127⟩, .accrd 1 9 29 (.k 6)),
   (0x7F0000086013B100, ⟨0, 127⟩, .acczero (.k 14) 4), (0x7F00000872B03040, ⟨0, 127⟩, .balloc 10 1),
   (0x7F00000880117080, ⟨0, 127⟩, .bfree (.k 5) 2), (0x7F0000089E0A1580, ⟨0, 127⟩, .msig 56 (.vec 40) (.k 22))] : List (Nat × XGuard × Instr)),
    decodeX r.1 = .ok ⟨r.2.2, .knop r.2.1⟩ := by decide +kernel

theorem test_words_control : ∀ r ∈ ([
   (0x7F00000F003C030A, .loop 7 1 0 3 10), (0x7F00000F10190C06, .rep 0 1 18 3 6), (0x7F00000F20079460, .forkx 96 40 30),
   (0x7F00000F30000000, .joinx), (0x7F00000F40000330, .sbset 48 3), (0x7F00000F500001DE, .sbwaitSet 222),
   (0x7F00000F50000002, .sbwaitClr 2), (0x7F00000F50000330, .sbwaitTake 48), (0x7F00000FF0000000, .endX)] : List (Nat × Instr)),
    decodeX r.1 = .ok ⟨r.2, .knop .none⟩ := by decide +kernel

theorem test_words_pair_scalar : ∀ r ∈ ([
   (0x7F00000000000000, ⟨0, 127⟩, .knop ⟨0, 127⟩), (0x7F0D49B000000000, ⟨0, 127⟩, .kadd ⟨0, 127⟩ 21 4 27),
   (0xC41181D000000000, ⟨1, 68⟩, .kaddi ⟨1, 68⟩ 6 0 29), (0xC419465000000000, ⟨1, 68⟩, .ksub ⟨1, 68⟩ 5 3 5),
   (0xC427144000000000, ⟨1, 68⟩, .kand ⟨1, 68⟩ 28 10 4), (0x0528EAA000000000, ⟨0, 5⟩, .kor ⟨0, 5⟩ 3 21 10),
   (0x7F31363000000000, ⟨0, 127⟩, .kxor ⟨0, 127⟩ 4 27 3), (0xC43A405000000000, ⟨1, 68⟩, .ksll ⟨1, 68⟩ 9 0 5),
   (0x7F428C3000000000, ⟨0, 127⟩, .kslli ⟨0, 127⟩ 10 6 3), (0x7F48F83000000000, ⟨0, 127⟩, .ksrl ⟨0, 127⟩ 3 28 3),
   (0xC452CE3000000000, ⟨1, 68⟩, .ksrli ⟨1, 68⟩ 11 7 3), (0x0558C63000000000, ⟨0, 5⟩, .ksra ⟨0, 5⟩ 3 3 3),
   (0x7F67083000000000, ⟨0, 127⟩, .ksrai ⟨0, 127⟩ 28 4 3), (0x7F6B1A6000000000, ⟨0, 127⟩, .kmul ⟨0, 127⟩ 12 13 6),
   (0x0570C67000000000, ⟨0, 5⟩, .kmin ⟨0, 5⟩ 3 3 7), (0x057D905000000000, ⟨0, 5⟩, .kmax ⟨0, 5⟩ 22 8 5),
   (0x7F84C6A000000000, ⟨0, 127⟩, .kminu ⟨0, 127⟩ 19 3 10), (0xC488120000000000, ⟨1, 68⟩, .kmaxu ⟨1, 68⟩ 0 9 0),
   (0x7F91F7E000000000, ⟨0, 127⟩, .kslt ⟨0, 127⟩ 7 27 30), (0xC498C63000000000, ⟨1, 68⟩, .ksltu ⟨1, 68⟩ 3 3 3),
   (0x05A1D61000000000, ⟨0, 5⟩, .kli ⟨0, 5⟩ 7 353), (0xC4A8A98000000000, ⟨1, 68⟩, .klsh ⟨1, 68⟩ 2 664),
   (0xC4CE723000000000, ⟨1, 68⟩, .kbfx ⟨1, 68⟩ 25 25 3), (0x05B1001000000000, ⟨0, 5⟩, .kpop ⟨0, 5⟩ 4 1),
   (0x05B80C0000000000, ⟨0, 5⟩, .kpush ⟨0, 5⟩ 6 0), (0xC4C0000000000000, ⟨1, 68⟩, .kcpg ⟨1, 68⟩ 0),
   (0x7FD0E8F000000000, ⟨0, 127⟩, .kfadd ⟨0, 127⟩ 3 20 15), (0x7FD8663000000000, ⟨0, 127⟩, .kfmul ⟨0, 127⟩ 1 19 3),
   (0x7FE7DE1000000000, ⟨0, 127⟩, .kfmax ⟨0, 127⟩ 31 15 1)] : List (Nat × XGuard × Instr)),
    decodeX r.1 = .ok ⟨.vnop r.2.1, r.2.2⟩ := by decide +kernel

/-- Words that the spec's listings give with their assembly (chapters 1, 2, 13, 16 and 20). -/
theorem test_listed_scalar_words : ∀ r ∈ ([
   (0x24400029, .li 4 41), (0x50010000, .qpush 0 4), (0x50500001, .qpop 5 0), (0x4851B000, .stD 5 6 0 0), (0x84000010, .endA),
   (0x04820A1B, .bhash 8 8 10), (0x0871C040, .addi 7 7 64), (0x208200D1, .roli 8 8 17), (0x40A1FBFF, .ldD 10 7 2 1023),
   (0xA049FFFD, .bnz 9 65533), (0x40707401, .ldD 7 1 1 1), (0x60A50000, .copy 10 20 0 0 0 0), (0x64028008, .hwait 10),
   (0x7D755608, .waitwNe 23 21 22), (0x94010910, .mts 4 9 0), (0x95401008, .mfs 20 16 0), (0x54010000, .wlc 0 4),
   (0x88000012, .barSync 0 2), (0x94000020, .eret), (0x84018000, .launch 6), (0x70A19F04, .amoAddRel 10 6 31 0 4),
   (0x90B18018, .sarmCreate 11 6 0), (0x90818010, .sread 8 6 0), (0x90F18A00, .scommit 15 6 10), (0x8DA01C1C, .srch 26 0 28 4),
   (0x8C910008, .msend 9 4 0 0), (0x8C510704, .fork 5 4 7 4), (0x8C828710, .mrecv 8 10 7), (0x30A387C0, .bfi 10 14 31 0),
   (0x2C9207C0, .bfx 9 8 31 0), (0x20A20060, .srli 10 8 32), (0x29512109, .lsi 21 0x12109)] : List (Nat × Instr)),
    decodeA r.1 = .ok r.2 := by decide +kernel

/-- The Z-stream words of the listings (chapters 7, 11, 18 and 19). -/
theorem test_listed_associative_words : ∀ r ∈ ([
   (0xDC800000, .ypop 2), (0x08080000, .zreg 2), (0xA40E0017, .zkset 3 256 23), (0xCD000001, .yli 4 1),
   (0x10227C00, .zcmpEq 0 1 318 0), (0x14267C00, .zcmpEqAnd 0 1 1 318 0), (0x60460017, .zltk 0 2 1 256 23),
   (0x78642600, .ztagAndn 0 3 1 2), (0x786C1200, .ztagOr 0 3 3 1), (0x2C627C00, .zwrc 0 3 318 0), (0x700C0A00, .zcnt 0 3 5),
   (0xD8140000, .ypush 5), (0xFC000000, .zend), (0xA0000000, .zkld), (0x800400FF, .zscore 0 1), (0x85600000, .zsel 5 8 0),
   (0x74040C00, .zfirst 0 1 6), (0xF55C0002, .zbne 5 7 2), (0xFA43FFF2, .zloop 9 0x3FFF2), (0x91800008, .zdel 6 2 0),
   (0x488CD00F, .zaddk 0 4 3 104 15)] : List (Nat × Instr)),
    decodeZ r.1 = .ok r.2 := by decide +kernel

/-- The X pair words of the listings (chapters 1, 5, 6, 17 and 19): vector slot and scalar slot. -/
theorem test_listed_pair_words : ∀ r ∈ ([
   (0x7FB0800000000000, .vnop .none, .kpop .none 2 0), (0x7F10841000000000, .vnop .none, .kaddi .none 2 2 1),
   (0x7FB8040000000000, .vnop .none, .kpush .none 2 0), (0x7F00000F00044302, .loop 0 1 2 3 2, .knop .none),
   (0x7F000007A150B000, .lld .none 0 5 (.k 2) (.lit 0), .knop .none),
   (0x7F00000011818140, .fadd .none 0 6 (.vec 6) (.vec 5), .knop .none),
   (0x7F0000080011B000, .tld 0 (.k 6) (.lit 0), .knop .none), (0x7F00000820111149, .mma 9 0 0 (.k 4) (.k 5), .knop .none),
   (0x7F00000810303000, .tfree 0, .knop .none), (0x7F00000852113008, .accrd 0 8 8 (.k 4), .knop .none),
   (0x7F00000F2000C101, .forkx 1 2 3, .knop .none), (0x7F00000F30000000, .joinx, .knop .none),
   (0x7F00000721810158, .vfsh .none 24 6 (.vec 4) (.vec 5), .knop .none),
   (0x7F00000701C1B0C0, .vbfx .none 0 7 (.vec 6) (.lit 3), .knop .none),
   (0x7F00000790511140, .lsct .none 0 1 (.k 4) (.k 5), .knop .none), (0x7F00000890C011C0, .msig 3 (.vec 0) (.k 7), .knop .none),
   (0x7F000007C000F000, .zpush (.vec 3), .knop .none), (0x7F00000FF0000000, .endX, .knop .none),
   (0x7F10858000000000, .vnop .none, .kaddi .none 2 2 24),
   (0x7F194A9000000000, .vnop .none, .ksub .none 5 5 9)] : List (Nat × Instr × Instr)),
    decodeX r.1 = .ok ⟨r.2.1, r.2.2⟩ := by decide +kernel

/-- A term that breaks one check of `Instr.wellFormed` each, and its nearest legal neighbour: the check refuses the first and
accepts the second. -/
theorem test_ill_formed_scalar : ∀ r ∈ ([
   (.add 64 0 0, .add 63 0 0), (.fsh 0 0 0 64, .fsh 0 0 0 63), (.addi 0 0 16384, .addi 0 0 16383), (.slli 0 0 64, .slli 0 0 63),
   (.li 0 1048576, .li 0 1048575), (.bfx 0 0 32 32, .bfx 0 0 31 32), (.bfi 0 0 63 1, .bfi 0 0 63 0),
   (.ldD 1 2 3 0, .ldD 1 2 2 0), (.ldD 2 2 1 0, .ldD 2 2 0 0), (.ldW 1 0 1 0, .ldW 1 0 0 0), (.stB 1 0 2 0, .stB 1 1 2 0),
   (.stB 1 1 0 1024, .stB 1 1 0 1023), (.vld 4 0, .vld 3 0), (.qpush 3 0, .qpush 2 0), (.qpop 0 3, .qpop 0 2), (.wlc 8 0, .wlc 7 0),
   (.copy 0 0 0 0 0 0, .copy 0 0 0 0 1 0), (.copy 0 53 0 0 0 0, .copy 0 52 0 0 0 0), (.gather 0 1 53 0 0 0, .gather 0 1 53 1 0 0),
   (.amoAddRc 0 0 0 2 0, .amoAddRc 0 0 0 1 0), (.amoCasRlx 0 0 0 0 8, .amoCasRlx 0 0 0 0 7), (.barSync 0 1, .barSync 0 2),
   (.barArr 0 5, .barArr 0 4), (.msend 0 0 0 0, .msend 0 1 0 0), (.mrecv 0 57 0, .mrecv 0 56 0), (.mfs 0 11 0, .mfs 0 10 7),
   (.mts 0 0 1, .mts 0 2 0), (.beq 0 0 1024, .beq 0 0 1023)] : List (Instr × Instr)),
    r.1.wellFormed = false ∧ r.2.wellFormed = true := by decide +kernel

theorem test_ill_formed_pair : ∀ r ∈ ([
   (.fadd .none 5 0 (.vec 0) (.vec 0), .fadd .none 4 0 (.vec 0) (.vec 0)), (.fadd .none 0 60 (.vec 0) (.vec 0), .fadd .none 0 59 (.vec 0) (.vec 0)),
   (.fadd .none 0 0 (.k 32) (.vec 0), .fadd .none 0 0 (.k 31) (.vec 0)), (.vnop ⟨0, 96⟩, .vnop ⟨0, 95⟩), (.vnop ⟨1, 127⟩, .vnop ⟨0, 127⟩),
   (.iadd .none 3 0 (.vec 0) (.vec 0), .iadd .none 2 0 (.vec 0) (.vec 0)), (.fcmp .none 8 0 (.vec 0) (.vec 0), .fcmp .none 7 0 (.vec 0) (.vec 0)),
   (.icmp .none 10 0 (.vec 0) (.vec 0), .icmp .none 9 0 (.vec 0) (.vec 0)), (.icmp .none 0 96 (.vec 0) (.vec 0), .icmp .none 0 95 (.vec 0) (.vec 0)),
   (.sel .none 64 0 (.vec 0) (.vec 0), .sel .none 63 0 (.vec 0) (.vec 0)), (.cvt .none 0 7 0 (.vec 0), .cvt .none 0 8 0 (.vec 0)),
   (.mxq .none 0 16 1 (.vec 0) 1, .mxq .none 0 16 1 (.vec 0) 2), (.mxq .none 0 22 1 (.vec 0) 2, .mxq .none 0 21 1 (.vec 0) 2),
   (.mxq .none 0 16 1 (.lit 0) 2, .mxq .none 0 16 1 (.k 0) 2), (.tsdq .none 26 0 (.vec 0) (.vec 0), .tsdq .none 25 0 (.vec 0) (.vec 0)),
   (.fredsum .none 4 0 0 (.vec 0), .fredsum .none 3 0 0 (.vec 0)), (.fredmax .none 0 0 (.k 0), .fredmax .none 1 0 (.vec 0)),
   (.vperm .none 0 (.vec 0) (.lit 0), .vperm .none 0 (.vec 0) (.vec 0)), (.vbcast .none 0 (.vec 0) (.vec 0), .vbcast .none 0 (.vec 0) (.lit 0)),
   (.lgth .none 3 0 (.vec 0) (.vec 0), .lgth .none 2 0 (.vec 0) (.vec 0)), (.zpush (.k 0), .zpush (.vec 0)), (.tld 16 (.k 0) (.k 0), .tld 15 (.k 0) (.k 0)),
   (.tld 0 (.k 0) (.lit 1), .tld 0 (.k 0) (.lit 0)), (.mma 8 0 0 (.k 0) (.k 0), .mma 9 0 0 (.k 0) (.k 0)),
   (.mmaMx 18 1 0 (.k 0) (.k 0), .mmaMx 17 1 0 (.k 0) (.k 0)), (.accrd 0 7 0 (.k 0), .accrd 0 8 0 (.k 0)), (.acczero (.k 0) 0, .acczero (.k 0) 16),
   (.balloc 0 3, .balloc 0 4), (.loop 0 0 1 1 0, .loop 0 0 0 0 1), (.sbset 1 1, .sbset 1 2), (.sbwaitTake 0, .sbwaitTake 255),
   (.kadd .none 32 0 0, .kadd .none 31 0 0), (.kli .none 0 1024, .kli .none 0 1023), (.kpop .none 0 2, .kpop .none 0 1),
   (.tsqTsf8w .none 5 0 (.lit 63) (.vec 0), .tsqTsf8w .none 4 0 (.lit 63) (.vec 0)), (.kcpg .none 4, .kcpg .none 3)] : List (Instr × Instr)),
    r.1.wellFormed = false ∧ r.2.wellFormed = true := by decide +kernel

theorem test_ill_formed_associative : ∀ r ∈ ([
   (.zreg 16, .zreg 15), (.zcmpEq 4 0 0 0, .zcmpEq 3 0 0 0), (.zcmpEq 0 8 0 0, .zcmpEq 0 7 0 0), (.zcmpEq 0 0 256 64, .zcmpEq 0 0 256 63),
   (.zadd 0 6 0 0 0, .zadd 0 5 0 0 0), (.zltk 0 0 6 0 0, .zltk 0 0 5 0 0), (.zmul 0 0 0 2, .zmul 0 0 0 3), (.zmul 0 0 225 63, .zmul 0 0 224 63),
   (.zkset 0 0 32, .zkset 0 0 31), (.zsel 0 9 0, .zsel 0 8 0), (.yli 0 262144, .yli 0 262143)] : List (Instr × Instr)),
    r.1.wellFormed = false ∧ r.2.wellFormed = true := by decide +kernel

/-- Words that no row of the tables has are rejected by name: a reserved opcode, a reserved field, a reserved guard. -/
theorem test_reserved_words :
    decodeA 0 = .error .opcode ∧ decodeA 0x04000017 = .error .subOperation ∧ decodeZ 0 = .error .opcode ∧
    decodeX 0xFF00000000000000 = .error .guardField ∧ decodeX 0x7F00000FF0000001 = .error .reservedField ∧
    decodeX 0x7F00000F20200000 = .error .reservedField := by decide +kernel

/-- S[d] after an instruction on `base`'s registers with the given ones, or none where it does not answer a next state. -/
def after (i : Instr) (l : List (Nat × Word)) (d : Nat) : Option Word :=
  match exec i { ({} : State) with cur := .strm 0 .a, cores := [(0, { s := l })] } with
  | .next t => some (t.rdS d)
  | _ => none

/-- The example of R93: −7 and 2. -/
theorem test_div : after (.div 6 4 5) [(4, 0xFFFFFFFFFFFFFFF9), (5, 2)] 6 = some 0xFFFFFFFFFFFFFFFD ∧
    after (.div 6 4 5) [(4, 0xFFFFFFFFFFFFFFF9)] 6 = some 0xFFFFFFFFFFFFFFFF := by decide +kernel
theorem test_rem : after (.rem 6 4 5) [(4, 0xFFFFFFFFFFFFFFF9), (5, 2)] 6 = some 0xFFFFFFFFFFFFFFFF ∧
    after (.rem 6 4 5) [(4, 0xFFFFFFFFFFFFFFF9)] 6 = some 0xFFFFFFFFFFFFFFF9 := by decide +kernel
theorem test_divu : after (.divu 6 4 5) [(4, 0xFFFFFFFFFFFFFFF9), (5, 2)] 6 = some 0x7FFFFFFFFFFFFFFC := by decide +kernel

/-- The example of R97. -/
theorem test_bfx : after (.bfx 5 6 11 8) [(6, 0xABCDEF)] 5 = some 0xBCD := by decide +kernel
theorem test_bfx_signed : after (.bfxS 5 6 11 8) [(6, 0xABCDEF)] 5 = some 0xFFFFFFFFFFFFFBCD := by decide +kernel

/-- The example of R95: the first two steps of a block's hash, and the rotation that starts the next block. -/
theorem test_bhash : after (.bhash 8 8 10) [(10, 0xF0000000E)] 8 = some 0xFE ∧
    after (.bhash 8 8 10) [(8, 0xFE), (10, 0xD0000000C)] 8 = some 0xFEDC := by decide +kernel
theorem test_roli : after (.roli 8 8 17) [(8, 0xFEDCBA9876543210)] 8 = some 0x7530ECA86421FDB9 := by decide +kernel

/-- The example of R383: Q0 and Q17 of the record of an `ecall #5` by a task of context 9 on core 83, whose A-stream goes on at 0x1000044. -/
theorem test_record :
    let r := composite { task := some { lrec := [(4, 0x9000)] }, strm := [(0, { st := .running, pc := 0x1000044 })] } 83
      { code := 0x13, tcode := 5, call := true, next := true } 0 true 0 0 0
    r.get 0 0 = 0x8000125300054013 ∧ r.get 0 17 = 0x1000044 := by decide +kernel

/-- The example of R84: one rounding to E4M3, and two by way of BF16. -/
theorem test_convert_once : (cvtElem (.flt fp32) (.flt e4m3) false 0 0 0x3F880800).bits = 0x39 ∧
    (cvtElem (.flt fp32) (.flt bf16) false 0 0 0x3F880800).bits = 0x3F88 ∧
    (cvtElem (.flt bf16) (.flt e4m3) false 0 0 0x3F88).bits = 0x38 := by decide +kernel

/-- The example of R114: the reciprocal of the smallest subnormal, towards zero (1) and to nearest (0). -/
theorem test_reciprocal : (fRcp 1 0 1).bits = 0x7F7FFFFF ∧ (fRcp 0 0 1).bits = 0x7F800000 := by decide +kernel

/-- The example of R74: the scale of a block of 10 and 0.1 for MXFP4. -/
theorem test_scale : mxScale 0x14 [fp32.val 0x41200000, fp32.val 0x3DCCCCCD] = 0x80 := by decide +kernel

/-- The example of R81: the draw from state 1. -/
theorem test_draw : drawOf 1 = 0x00042021 := by decide +kernel

/-- The example of R204: the homes of chunks 1 and 2, and of an address that names die 5. -/
theorem test_home : homeHash 0x10000 = 3 ∧ homeHash 0x20000 = 2 ∧ homeHash 0xA80000002040 = 5 := by decide +kernel

/-- R53, R125: `tsq.tsf8w` takes a literal a (kind 11 of Table 2.7). -/
theorem test_scaled_literal :
    decodeX 0x7F00000580F141D9 = .ok ⟨.tsqTsf8w .none 0 3 (.lit 5) (.vec 7), .knop .none⟩ := by decide +kernel

/-- The AES-256 example of FIPS 197, C.3. -/
theorem test_cipher :
    let ks := aesRoundKeys ((List.range 32).map (BitVec.ofNat 8))
    let plain : List Byte := (List.range 16).map fun i => BitVec.ofNat 8 (17 * i)
    let cipher := (leBytes 16 0x8960494B9049FCEABF456751CAB7A28E)
    aesEncrypt ks plain = cipher ∧ aesDecrypt ks cipher = plain := by decide +kernel

/-- Two blocks of vector 10 (XTS-AES-256) of IEEE 1619. -/
theorem test_tweaked_cipher :
    let key := 0x2718281828459045235360287471352662497757247093699959574966967627 + 0x3141592653589793238462643383279502884197169399375105820974944592 * 2 ^ 256
    let pair := leNat ((leBytes 32 (key % 2 ^ 256)).reverse ++ (leBytes 32 (key / 2 ^ 256)).reverse)
    let cipher := (leBytes 32 0x1C3B3A102F770386E4836C99E370CF9BEA00803F5E482357A4AE12D414A3E63B).reverse
    xts true pair 0xFF ((List.range 32).map (BitVec.ofNat 8)) = cipher ∧ xts false pair 0xFF cipher = (List.range 32).map (BitVec.ofNat 8) := by
  decide +kernel

/-- Registers of core 0 as given. -/
def regs (l : List (Nat × Word)) (s : State) : State := s.setCore 0 { s.coreAt 0 with s := l }

/-- Core 0 runs the A-stream of a task of context 0, at word 0 of 64 KiB of memory; s4 to s7 hold −7, 1, 4088 and 0x10000. -/
def base : State :=
  { cur := .strm 0 .a
    cores := [(0, { task := some { lrec := [] }, strm := [(0, { st := .running })]
                    s := [(4, 0xFFFFFFFFFFFFFFF9), (5, 1), (6, 4088), (7, 0x10000)] })]
    ctxs := [(0, { sr := [(257, 0x10000), (259, 0xF)] })]
    mg := [(0x1080, 0x10000)]
    mem := [(0, 0x29), (2, 0x40), (3, 0x24), (0x10002, 2), (0x10007, 0x80), (0x20007, 0x80)] }

/-- The entry that governs `base`'s memory. -/
def page : Entry := ⟨0x20000, 0x8000000000000000, 0⟩

/-- `Plain` as far as it can be evaluated. -/
def plainB (s : State) (q : Req) (va n : Nat) (p : Perm) (ia : Nat) (e : Entry) (k : Nat) : Bool :=
  decide (0 < n ∧ ia % 4096 + n ≤ 4096) && decide (s.peerWin? q.ctx ia = none) && decide (s.entry? ia = some e) &&
  decide (s.walkBad? ia = none) && decide (e.absent = false) && decide (e.ctx = q.ctx) && decide (e.pol = false) &&
  decide (e.frame + ia % e.size < tierSize e.tier) && decide (s.reduced = false) && decide (k = physKey e.tier (e.frame + ia % e.size)) &&
  decide (s.badIn k n = false) &&
  decide (∀ i, i < n → s.lkey.get 0 ((k + i) / 128) = 0 ∨ s.lkey.get 0 ((k + i) / 128) = s.lineTag e (ia + i)) &&
  decide (s.translate? q va n p = .ok ia) && decide (s.winBad q.ctx va = false) && decide (∀ o ∈ s.pend, o.agent ≠ q.ag) &&
  decide (q.ag < 8192)

theorem noStash (s : State) (h : s.cores.all (fun c => decide (c.2.stLine = [])) = true) (a : Nat) : s.stashed a = [] := by
  simp only [List.all_eq_true, decide_eq_true_eq] at h
  simp only [State.stashed, List.flatMap_eq_nil_iff]
  exact fun c hc => by simp [h c hc]

theorem plain_of {s : State} {q : Req} {va n : Nat} {p : Perm} {ia : Nat} {e : Entry} {k : Nat}
    (h : plainB s q va n p ia e k = true) (hs : s.cores.all (fun c => decide (c.2.stLine = [])) = true) : Plain s q va n p ia e k := by
  simp only [plainB, Bool.and_eq_true, decide_eq_true_eq] at h
  obtain ⟨⟨⟨⟨⟨⟨⟨⟨⟨⟨⟨⟨⟨⟨⟨h1, h2⟩, h3⟩, h4⟩, h5⟩, h6⟩, h7⟩, h8⟩, h9⟩, h10⟩, h11⟩, h12⟩, h13⟩, h14⟩, h15⟩, h16⟩ := h
  exact ⟨⟨h1, h2, h3, h4, h5, h6, h7, h8, h9, h10, h11, h12, noStash s hs⟩, h13, h14, h15, h16⟩

theorem get_all {α : Type} {d : α} {P : α → Prop} (m : Sparse α) (h0 : P d) (h : ∀ e ∈ m, P e.2) (k : Nat) :
    P (m.get d k) := by
  induction m with
  | nil => exact h0
  | cons x m ih =>
    simp only [Sparse.get]
    split
    · exact h x (by simp)
    · exact ih fun e he => h e (by simp [he])

/-- The first 4 KiB of `base`'s memory are plain for its core. -/
theorem plain_base (va n : Nat) (p : Perm) (hn : 0 < n) (h : va + n ≤ 4096) : Plain base base.req va n p va page va := by
  have hb : ∀ n, n ∈ List.range 4 → bit (base.sr 0 (403 + 4 * n)) 63 = false := by decide +kernel
  have hq : ∀ x, base.peerWin? 0 x = none := fun x => by
    simp only [State.peerWin?, List.find?_eq_none]
    exact fun n hn => by simp [hb n hn]
  have hp := hq va
  have he : base.entry? va = some page := by
    have e1 : va / 2 ^ 29 % 2 ^ 19 = 0 := by omega
    have e2 : va / 2 ^ 21 % 256 = 0 := by omega
    have e3 : va / 2 ^ 16 % 8192 = 0 := by omega
    simp only [State.entry?, e1, e2, e3]
    decide +kernel
  have hw : windowOf base.req.win 0 = ⟨0, 0x10000, 0, true, true, true, true⟩ := by decide +kernel
  have hf : findWindow base.req.win va (List.range 16) = some ⟨0, 0x10000, 0, true, true, true, true⟩ := by
    have hr : List.range 16 = 0 :: (List.range 15).map (· + 1) := by decide
    rw [hr, findWindow, hw]
    exact if_pos ⟨rfl, Nat.zero_le _, by show va < 0x10000; omega⟩
  have ht : base.translate? base.req va n p = .ok va := by
    have hd : base.peerDenies base.req.ctx va n p = false := by
      show base.peerDenies 0 va n p = false
      simp [State.peerDenies, State.peerDenies1, hq]
    simp only [State.translate?, hf, Window.allows, Nat.zero_add, Nat.sub_zero, hd]
    rw [if_neg (by simp), if_neg (by omega), if_neg (by omega), if_neg (by simp; omega)]
  have hc : page.frame + va % page.size = va := by
    have : page.frame = 0 := by decide +kernel
    have h2 : page.size = 0x10000 := by decide +kernel
    rw [h2]
    omega
  refine ⟨⟨⟨hn, by omega⟩, hp, he, rfl, by decide +kernel, by decide +kernel, by decide +kernel, ?_, by decide +kernel, ?_, ?_,
    fun i _ => .inl rfl, noStash _ (by decide +kernel)⟩, ht, rfl, fun o ho => (by cases ho), by decide +kernel⟩
  · rw [hc, show tierSize page.tier = 768 * 2 ^ 30 from by decide +kernel]; omega
  · rw [hc, show page.tier = 0 from by decide +kernel]; simp [physKey]
  · simp [State.badIn, show base.badWord = [] from rfl, Sparse.get]

theorem witness_RegisterOperationsWriteTheirResult : (63 : Nat) < 64 := by decide

theorem witness_ImmediateAndBitFieldOperationsWriteTheirResult :
    (2 ^ 14 - 1 < 2 ^ 14) ∧ (63 : Nat) < 64 ∧ (2 ^ 20 - 1 < 2 ^ 20) ∧ (0 + 63 < 64) ∧ (63 + 0 < 64) := by decide

theorem witness_BranchesGoWhereTheirConditionSays :
    (∀ r ∈ branchesOnOne, (∃ a, r.2 (base.rdS a)) ∧ ∃ a, ¬ r.2 (base.rdS a)) ∧
    (∀ r ∈ branchesOnTwo, (∃ a b, r.2 (base.rdS a) (base.rdS b)) ∧ ∃ a b, ¬ r.2 (base.rdS a) (base.rdS b)) := by
  constructor
  · intro r h
    simp only [branchesOnOne, List.mem_cons, List.not_mem_nil, or_false] at h
    rcases h with rfl | rfl | rfl | rfl | rfl | rfl
    · exact ⟨⟨0, by decide +kernel⟩, 4, by decide +kernel⟩
    · exact ⟨⟨4, by decide +kernel⟩, 0, by decide +kernel⟩
    · exact ⟨⟨4, by decide +kernel⟩, 0, by decide +kernel⟩
    · exact ⟨⟨0, by decide +kernel⟩, 4, by decide +kernel⟩
    · exact ⟨⟨5, by decide +kernel⟩, 0, by decide +kernel⟩
    · exact ⟨⟨0, by decide +kernel⟩, 5, by decide +kernel⟩
  · intro r h
    simp only [branchesOnTwo, List.mem_cons, List.not_mem_nil, or_false] at h
    rcases h with rfl | rfl | rfl | rfl | rfl | rfl
    · exact ⟨⟨4, 4, by decide +kernel⟩, 4, 0, by decide +kernel⟩
    · exact ⟨⟨4, 0, by decide +kernel⟩, 4, 4, by decide +kernel⟩
    · exact ⟨⟨4, 0, by decide +kernel⟩, 0, 4, by decide +kernel⟩
    · exact ⟨⟨0, 4, by decide +kernel⟩, 4, 0, by decide +kernel⟩
    · exact ⟨⟨0, 4, by decide +kernel⟩, 4, 0, by decide +kernel⟩
    · exact ⟨⟨4, 0, by decide +kernel⟩, 0, 4, by decide +kernel⟩

theorem still_base : Still base 0 := by constructor <;> decide +kernel

theorem settled_base : Settled base 0 := by constructor <;> decide +kernel

/-- `base`, with a sequencer of context 0 to act. -/
def onSequencer : State :=
  { base.setSeqr 3 { base.seqrAt 3 with running := true, ctx := 0, win := (base.ctxAt 0).sr, s := [(4, 2), (6, 4080)] } with cur := .seqr 3 }

theorem witness_BranchesGoWhereTheirConditionSays_jumps :
    (base.rdS 6).toNat % 4 = 0 ∧ base.cur = .strm 0 .a ∧ Still base 0 ∧ (base.rdS 5).toNat % 4 ≠ 0 ∧
    onSequencer.cur = .seqr 3 ∧ (∀ o ∈ onSequencer.pend, o.agent ≠ 512 + 3) ∧ (onSequencer.rdS 4).toNat % 4 ≠ 0 := by
  refine ⟨?_, ?_, still_base, ?_, ?_, ?_, ?_⟩ <;> decide +kernel

theorem witness_ScalarLoadsReadMemory :
    (.ldD, 8, false) ∈ scalarLoads ∧ (.ldBs, 1, true) ∈ scalarLoads ∧
    Plain base base.req (accessAddress base 8 6 0 0) 8 { r := true } 4088 page 4088 ∧
    Plain base base.req (accessAddress base 1 6 2 7) 1 { r := true } 4095 page 4095 ∧
    base.req.isCore = true ∧ page.ord = 0 ∧ Settled base base.req.ag ∧
    Plain onSequencer onSequencer.req (accessAddress onSequencer 8 6 1 1) 8 { r := true } 4080 page 4080 ∧
    onSequencer.req.isCore = false ∧ accessAddress base 8 6 0 0 % 8 = 0 ∧
    Plain base base.req (accessAddress base 8 5 0 0) 8 { r := true } 1 page 1 ∧ accessAddress base 8 5 0 0 % 8 ≠ 0 ∧ base.pend = [] := by
  refine ⟨?_, ?_, plain_of ?_ ?_, plain_of ?_ ?_, ?_, ?_, settled_base, plain_of ?_ ?_, ?_, ?_, plain_of ?_ ?_, ?_, ?_⟩ <;> first | decide +kernel | simp [scalarLoads]

theorem witness_ScalarStoresAreGranted :
    (.stD, 8) ∈ scalarStores ∧ Plain base base.req (accessAddress base 8 6 0 0) 8 { w := true } 4088 page 4088 ∧
    Settled base base.req.ag ∧
    Plain onSequencer onSequencer.req (accessAddress onSequencer 8 6 2 1) 8 { w := true } 4088 page 4088 ∧
    base.guarded base.req.ctx 4088 8 = false ∧ onSequencer.guarded onSequencer.req.ctx 4088 8 = false ∧
    Plain base base.req (accessAddress base 8 5 0 0) 8 { w := true } 1 page 1 ∧ base.guarded base.req.ctx 1 8 = false := by
  refine ⟨?_, plain_of ?_ ?_, settled_base, plain_of ?_ ?_, ?_, ?_, plain_of ?_ ?_, ?_⟩ <;> first | decide +kernel | simp [scalarStores]

theorem witness_UnmappedAccessesTrap :
    (∃ r ∈ scalarLoads, ∃ d, r.2.1 = 8 ∧ Instr.ldD 0 7 0 0 = r.1 d 7 0 0) ∧ (∃ r ∈ scalarStores, ∃ d, r.2 = 8 ∧ Instr.stD 0 7 0 0 = r.1 d 7 0 0) ∧
    base.cur = .strm 0 .a ∧ Still base 0 ∧ unmapped base (accessAddress base 8 7 0 0) := by
  refine ⟨⟨_, by simp only [scalarLoads, List.mem_cons]; exact .inr (.inr (.inr (.inl rfl))), 0, rfl, rfl⟩,
    ⟨_, by simp only [scalarStores, List.mem_cons]; exact .inr (.inr (.inr (.inl rfl))), 0, rfl, rfl⟩, by decide +kernel, still_base, ?_⟩
  unfold unmapped
  decide +kernel

theorem witness_VectorLoadsFillAQueueEntry :
    base.cur = .strm 0 .a ∧ (0 : Nat) < 320 ∧ Settled base 0 ∧ base.pend = [] ∧ (base.coreAt 0).scLine = [] ∧ Sparse.wf {} base.cores = true ∧
    ((base.coreAt 0).q.qv.get [] 3).length < 8 ∧
    (∀ l, l < 1024 → laneAddress base 0 4 l % 4 = 0 ∧ Plain base base.req (laneAddress base 0 4 l) 4 { r := true } (4 * l) page (4 * l)) ∧
    (∀ l, l < 1024 → laneAddress base 6 (base.rdS 0) l % 4 = 0 ∧
      Plain base base.req (laneAddress base 6 (base.rdS 0) l) 4 { r := true } 4088 page 4088) ∧
    (base.rdS 6).toNat % 4 = 0 ∧ Plain base base.req (base.rdS 6).toNat 4 { r := true } 4088 page 4088 := by
  have h2 : base.rdS 6 = 4088 ∧ base.rdS 0 = 0 := by decide +kernel
  refine ⟨by decide +kernel, by decide, settled_base, rfl, by decide +kernel, by decide +kernel, by decide +kernel, fun l hl => ?_,
    fun l hl => ?_, by decide +kernel, plain_base _ _ _ (by decide) (by decide +kernel)⟩
  · have e : laneAddress base 0 4 l = 4 * l := by
      show (base.rdS 0 + BitVec.ofNat 64 l * 4#64).toNat = 4 * l
      rw [h2.2, BitVec.toNat_add, BitVec.toNat_mul, BitVec.toNat_ofNat]
      have h0 : BitVec.toNat (0 : Word) = 0 := rfl
      simp only [BitVec.toNat_ofNat, h0]
      omega
    rw [e]
    exact ⟨by omega, plain_base _ _ _ (by decide) (by omega)⟩
  · have e : laneAddress base 6 (base.rdS 0) l = 4088 := by simp [laneAddress, h2.1, h2.2]
    rw [e]
    exact ⟨by decide, plain_base _ _ _ (by decide) (by decide)⟩

theorem quiet_base (s : State) (h : (s.ctxAt 0).sr.all (fun e => decide (bf e.2 47 32 = 0)) = true) : s.noThreshold 0 := by
  simp only [List.all_eq_true, decide_eq_true_eq] at h
  intro c
  have := get_all (P := fun w : Word => bf w 47 32 = 0) (s.ctxAt 0).sr (d := 0) (by decide) h (96 + c)
  simp only [State.evCfg, State.sr, this, Nat.zero_mul]

theorem witness_AtomicsReadAndStore :
    (1 : Nat) < 2 ∧ (7 : Nat) < 8 ∧ AtomicReady base 64 6 4088 page 4088 ∧ AtomicReady base 32 6 4088 page 4088 ∧
    AtomicReady onSequencer 64 6 4080 page 4080 := by
  refine ⟨by decide, by decide, ⟨?_, plain_of ?_ ?_, ?_, ?_, ?_, ?_, quiet_base _ ?_⟩, ⟨?_, plain_of ?_ ?_, ?_, ?_, ?_, ?_, quiet_base _ ?_⟩,
    ⟨?_, plain_of ?_ ?_, ?_, ?_, ?_, ?_, quiet_base _ ?_⟩⟩
  case refine_6 => intro c st h; have : (Turn.strm 0 Strm.a) = .strm c st := h; cases this; exact ⟨by decide, settled_base⟩
  case refine_14 => intro c st h; have : (Turn.strm 0 Strm.a) = .strm c st := h; cases this; exact ⟨by decide, settled_base⟩
  case refine_22 => intro c st h; have : Turn.seqr 3 = .strm c st := h; cases this
  all_goals decide +kernel

/-- `base` with its core changed. -/
def withCore (f : Core → Core) : State := { base with cores := [(0, f (base.coreAt 0))] }

/-- `base` with window 0 of 128 KiB; s4 names the last word of its first 64 KiB. -/
def straddling : State :=
  { withCore (fun c => { c with s := [(4, 65532)] }) with ctxs := [(0, { sr := [(257, 0x20000), (259, 0xF)] })] }

theorem witness_AtomicsReadAndStore_traps :
    base.cur = .strm 0 .a ∧ Still base 0 ∧ (base.rdS 5).toNat % 4 ≠ 0 ∧ straddling.cur = .strm 0 .a ∧ Still straddling 0 ∧
    (straddling.rdS 4).toNat % 4 = 0 ∧
    straddling.translate? straddling.req (straddling.rdS 4).toNat 8 { r := true, w := true } = .ok 65532 ∧
    straddling.winBad straddling.req.ctx (straddling.rdS 4).toNat = false ∧ 65532 / 65536 ≠ (65532 + 7) / 65536 := by
  refine ⟨by decide +kernel, still_base, by decide +kernel, by decide +kernel, ⟨?_, ?_, ?_, ?_, ?_⟩, ?_⟩ <;> decide +kernel

/-- Queues at their limits: one place left in `qs0`, `qs1` and `qz1`, one entry in `qx1` and `qy0`. -/
def queued : State :=
  withCore fun c => { c with q := { qs := [(0, List.replicate 15 1), (1, List.replicate 15 1)], qx := [(1, [5])], qz1 := List.replicate 15 2, qy0 := [7] } }

/-- `base` with a waiting store of its core. -/
def storing : State := { base with pend := [{ agent := 0, kind := 1, num := 0, ctx := 0, ia := 0, data := [1], ord := 0 }] }

theorem witness_QueueLoopAndFenceWordsComplete :
    queued.cur = .strm 0 .a ∧ ((queued.coreAt 0).q.qs.get [] 1).length < 16 ∧ (queued.coreAt 0).q.qz1.length < 16 ∧
    (queued.coreAt 0).q.qx.get [] 1 = 5 :: [] ∧ (queued.coreAt 0).q.qy0 = 7 :: [] ∧
    (7 : Nat) < 8 ∧ Settled base base.req.ag ∧ (∃ o ∈ storing.pend, o.agent = storing.req.ag) := by
  refine ⟨?_, ?_, ?_, ?_, ?_, by decide, settled_base, ?_⟩ <;> decide +kernel

theorem witness_QueueLoopAndFenceWordsComplete_drain : ∀ i, (base.eslot base.req.ag i).st ≠ .flight := by
  have : base.req.ag = 0 := by decide +kernel
  have he : (base.coreAt 0).eng = [] := by decide +kernel
  intro i
  simp [State.eslot, this, he, Sparse.get]

/-- `base` with engine slot 2 at generation 3 in the given state, and its handle in s4; s7 holds 2^32. -/
def handled (st : SlotSt) (cmd : Option Cmd) : State :=
  withCore fun c => { c with eng := [(2, { gen := 3, st := st, cmd := cmd })], s := [(4, 194), (5, 130), (7, 0x100000000)] }

theorem witness_HandlesTellAndCancelEndsTheirCommand :
    (handled .flight none).cur = .strm 0 .a ∧ ((handled .flight none).rdS 5).toNat < 2 ^ 32 ∧ ¬ current (handled .flight none) 0 5 ∧
    ¬ current base 0 0 ∧ ((handled .flight none).rdS 4).toNat < 2 ^ 32 ∧ current (handled .flight none) 0 4 ∧
    (namedSlot (handled .completed none) 0 4).cmd = none ∧ (namedSlot (handled .cancelled none) 0 4).st ≠ .flight ∧
    current (handled .flight (some { kind := 0, scope := 0, src := [] })) 0 4 ∧
    (namedSlot (handled .flight (some { kind := 0, scope := 0, src := [] })) 0 4).cmd = some { kind := 0, scope := 0, src := [] } ∧
    Cmd.dstSpace { kind := 0, scope := 0, src := [] } ≠ 0 := by
  unfold current
  decide +kernel

/-- A command to write two rows of 16 bytes of memory at 0x100. -/
def toMemory : Cmd := { kind := 0, scope := 0, src := [], dst := [0x100, 0x88, 0x800000008, 0, 0x2000400000000, 0, 32], fd := 8, win := (base.ctxAt 0).sr }

theorem witness_HandlesTellAndCancelEndsTheirCommand_memory :
    current (handled .flight (some toMemory)) 0 4 ∧ (namedSlot (handled .flight (some toMemory)) 0 4).cmd = some toMemory ∧
    toMemory.dstSpace = 0 ∧ writesPlainMemory (handled .flight (some toMemory)) 0 2 toMemory := by
  refine ⟨by unfold current; decide +kernel, by decide +kernel, by decide +kernel, ?_⟩
  let s := handled .flight (some toMemory)
  let l : List (Nat × Nat) := [(256, 4), (260, 4), (264, 4), (268, 4), (288, 4), (292, 4), (296, 4), (300, 4)]
  have hs : toMemory.spots (s.coreAt 0) = l := by decide +kernel
  have ht : ∀ w ∈ l, s.translate? (s.engReq 0 2 toMemory) w.1 w.2 { w := true } = .ok w.1 := by decide +kernel
  have hp : ∀ w ∈ l, plainB s { s.req with ctx := s.coreCtx 0 } w.1 w.2 { w := true } w.1 page w.1 = true := by decide +kernel
  have hw : ∀ w ∈ l, ∀ w' ∈ l, ∀ x ∈ tableWords s w'.1, x + 8 ≤ w.1 ∨ w.1 + w.2 ≤ x := by decide +kernel
  intro w h
  rw [hs] at h
  refine ⟨w.1, page, w.1, ht w h, (plain_of (hp w h) (by decide +kernel)).toMapped, fun w' h' ia' e x hx => ?_⟩
  rw [hs] at h'
  have e' := ht w' h'
  rw [e] at e'
  cases e'
  exact hw w h w' h' x hx

/-- `base` with a value of 2^32 in s7. -/
def wide : State := withCore fun c => { c with s := [(7, 0x100000000)] }

theorem witness_HandlesTellAndCancelEndsTheirCommand_wide : wide.cur = .strm 0 .a ∧ 2 ^ 32 ≤ (wide.rdS 7).toNat ∧ Still wide 0 := by
  refine ⟨?_, ?_, ⟨?_, ?_, ?_, ?_, ?_⟩⟩ <;> decide +kernel

/-- `base` with a `waitw` in progress at dtime 30, since 0, with the limit given. -/
def waiting (limit : Nat) : State := { withCore (fun c => { c with waitw := some ⟨0, limit, 0, 1, 2, 3, some 0⟩ }) with dtime := 30 }

theorem witness_WaitsEndWhenTheirConditionHolds :
    base.cur = .strm 0 .a ∧ (base.rdS 6).toNat % 8 = 0 ∧ Plain base base.req (base.rdS 6).toNat 8 { r := true } 4088 page 4088 ∧
    Settled base 0 ∧ leNat (base.mem.bytes 4088 8) = 0 ∧
    (∀ r ∈ waits, (∃ b, r.2 (BitVec.ofNat 64 (leNat (base.mem.bytes 4088 8))) (base.rdS b)) ∨
      ∃ k, Plain base base.req (base.rdS 0).toNat 8 { r := true } 0 page k ∧ r.2 (BitVec.ofNat 64 (leNat (base.mem.bytes k 8))) (base.rdS 5)) ∧
    Plain (waiting 30) (waiting 30).req ((waiting 30).rdS 0).toNat 8 { r := true } 0 page 0 ∧ Settled (waiting 30) 0 ∧
    ¬ (BitVec.ofNat 64 (leNat ((waiting 30).mem.bytes 0 8)) = (waiting 30).rdS 0) ∧
    ((waiting 30).coreAt 0).waitw = some ⟨0, 30, 0, 1, 2, 3, some 0⟩ ∧ 30 ≤ (waiting 30).dtime - 0 ∧ (base.coreAt 0).waitw = none ∧
    (∀ limit ∈ [0, 30, 31], awaits (waiting limit) 0 0) ∧ (waiting 31).dtime - 0 < 31 ∧ awaits base 0 0 ∧
    Still base 0 ∧ (base.rdS 5).toNat % 8 ≠ 0 := by
  have hr : (base.rdS 6).toNat = 4088 := by decide +kernel
  refine ⟨by decide +kernel, by decide +kernel, ?_, settled_base, by decide +kernel, ?_, plain_of (by decide +kernel) (by decide +kernel),
    ⟨?_, ?_, ?_, ?_, ?_, ?_⟩, ?_, ?_, ?_, ?_, fun l hl w hw => ?_, ?_, fun w hw => ?_, still_base, ?_⟩
  case refine_13 => cases hw; rfl
  case refine_15 => cases hw
  · rw [hr]; exact plain_base _ _ _ (by decide) (by decide)
  · intro r h
    simp only [waits, List.mem_cons, List.not_mem_nil, or_false] at h
    rcases h with rfl | rfl | rfl | rfl
    · exact .inl ⟨0, by decide +kernel⟩
    · exact .inl ⟨5, by decide +kernel⟩
    · exact .inl ⟨0, by decide +kernel⟩
    · exact .inl ⟨5, by decide +kernel⟩
  all_goals decide +kernel

/-- `base` for a task with two stash banks, none mapped. -/
def stashing : State :=
  withCore fun c => { c with task := some { lrec := [(12, 0x4000000000000)] }, s := [(4, 131072), (7, 0)] }

theorem witness_ReservationsMapTheStash :
    base.cur = .strm 0 .a ∧ (base.rdS 0).toNat = 0 ∧ (base.coreAt 0).stLine = [] ∧
    stashing.cur = .strm 0 .a ∧ (stashing.rdS 4).toNat ≠ 0 ∧ (stashing.rdS 7).toNat % 131072 = 0 ∧ (stashing.rdS 4).toNat % 131072 = 0 ∧
    (stashing.coreAt 0).stash.length + (stashing.rdS 4).toNat / 131072 + ((stashing.coreAt 0).heldBytes + 131071) / 131072 ≤
      declaredBanks (stashing.coreAt 0) ∧
    ((stashing.coreAt 0).stash.any fun w => meets w.va 131072 (stashing.rdS 7).toNat (stashing.rdS 4).toNat) = false := by
  decide +kernel

/-- `stashing` with window 0 of 128 KiB. -/
def stashingWide : State := { stashing with ctxs := [(0, { sr := [(257, 0x20000), (259, 0xF)] })] }

theorem witness_ReservationsMapTheStash_mapped :
    (∃ ia, stashingWide.translate? stashingWide.req (stashingWide.rdS 7).toNat (stashingWide.rdS 4).toNat { r := true } = .ok ia) ∧
    stashingWide.winBad stashingWide.req.ctx (stashingWide.rdS 7).toNat = false ∧
    (stashingWide.coreAt 0).stash.length + (stashingWide.rdS 4).toNat / 131072 + ((stashingWide.coreAt 0).heldBytes + 131071) / 131072 ≤
      declaredBanks (stashingWide.coreAt 0) :=
  ⟨⟨0, by decide +kernel⟩, by decide +kernel, by decide +kernel⟩

/-- `base` whose page 0 is the one with the given first word of its entry, and with the polder blocks given. -/
def paged (e0 : Word) (n : Nat) : State :=
  { withCore (fun c => { c with s := [(4, 0), (5, 128), (6, n)] }) with
    mem := (base.mem.setBytes 0x20000 (leBytes 8 e0.toNat)), blocks := [(0, 1)] }

/-- A polder page of context 0 (bits 63 and 57), and a page of context 0 with bit 54. -/
def polderE : Word := 0xB200000000000000
def pinnedE : Word := 0x8040000000000000

theorem onePage_of {s : State} {c va n : Nat} {p : Perm} {ia : Nat} {e : Entry} (h : (0 < n ∧ va % 4096 + n ≤ 4096 ∧ ia % 4096 = va % 4096) ∧
    s.translate? s.req va n p = .ok ia ∧ s.winBad s.req.ctx va = false ∧ s.entry? ia = some e ∧ e.v = true ∧ e.ctx = s.req.ctx ∧
    s.pend = []) (hs : Settled s c) : OnePage s c va n p ia e :=
  ⟨h.1, h.2.1, h.2.2.1, h.2.2.2.1, h.2.2.2.2.1, h.2.2.2.2.2.1, hs, h.2.2.2.2.2.2⟩

theorem witness_DiscardsAndPageOperationsComplete :
    (paged polderE 0).cur = .strm 0 .a ∧
    OnePage (paged polderE 0) 0 ((paged polderE 0).rdS 4).toNat ((paged polderE 0).rdS 5).toNat { w := true } 0 ⟨0x20000, polderE, 0⟩ ∧
    ((paged polderE 0).rdS 4).toNat % 128 = 0 ∧ ((paged polderE 0).rdS 5).toNat % 128 = 0 ∧
    Entry.absent ⟨0x20000, polderE, 0⟩ = false ∧ Entry.pol ⟨0x20000, polderE, 0⟩ = true ∧ (paged polderE 0).blocks.get 0 (0 / 65536) ≠ 0 ∧
    (∀ x, (paged polderE 0).stashed x = []) ∧
    (∃ i, i < 512 ∧ (paged polderE 0).polDisc.get false (0 / 65536 * 512 + i) = false ∧
      (0 / 65536 * 512 + i < 0 / 128 ∨ (0 + ((paged polderE 0).rdS 5).toNat) / 128 ≤ 0 / 65536 * 512 + i)) := by
  refine ⟨?_, onePage_of ?_ ⟨?_, ?_, ?_, ?_, ?_, ?_⟩, ?_, ?_, ?_, ?_, ?_, noStash _ ?_, ⟨511, ?_⟩⟩ <;> decide +kernel

theorem witness_DiscardsAndPageOperationsComplete_pages : ∀ n ∈ [0, 1, 11], ∀ e0 ∈ [(0x8000000000000000 : Word), pinnedE],
    (paged e0 n).cur = .strm 0 .a ∧ ((paged e0 n).rdS 6).toNat = n ∧
    OnePage (paged e0 n) 0 ((paged e0 n).rdS 4).toNat 1 { w := true } 0 ⟨0x20000, e0, 0⟩ ∧
    (homesAt (paged e0 n) ⟨0x20000, e0, 0⟩ 0 n ↔ n = 0) ∧ (paged e0 n).noRoom ⟨0x20000, e0, 0⟩ 0 n = false ∧
    OnePage (paged e0 n) 0 ((paged e0 n).rdS 4).toNat ((paged e0 n).rdS 5).toNat { r := true } 0 ⟨0x20000, e0, 0⟩ ∧
    Entry.isPolder ⟨0x20000, e0, 0⟩ = false ∧ Entry.cc ⟨0x20000, e0, 0⟩ = false ∧ (Entry.pin ⟨0x20000, e0, 0⟩ = true ↔ e0 = pinnedE) := by
  intro n hn e0 he
  simp only [List.mem_cons, List.not_mem_nil, or_false] at hn he
  rcases hn with rfl | rfl | rfl <;> rcases he with rfl | rfl <;>
    refine ⟨?_, ?_, onePage_of ?_ ⟨?_, ?_, ?_, ?_, ?_, ?_⟩, ?_, ?_, onePage_of ?_ ⟨?_, ?_, ?_, ?_, ?_, ?_⟩, ?_, ?_, ?_⟩ <;>
    first | decide +kernel | (unfold homesAt; decide +kernel)

/-- `paged` with a polder page whose block die 1, full of another context's, has no room for. -/
def crowded : State := { paged polderE 1 with blocks := (0, 1) :: (List.range 6144).map fun i => (100 + i, 2) }

theorem witness_DiscardsAndPageOperationsComplete_full :
    OnePage crowded 0 (crowded.rdS 4).toNat 1 { w := true } 0 ⟨0x20000, polderE, 0⟩ ∧ (crowded.rdS 6).toNat = 1 ∧
    ¬ homesAt crowded ⟨0x20000, polderE, 0⟩ 0 1 ∧ crowded.noRoom ⟨0x20000, polderE, 0⟩ 0 1 = true := by
  refine ⟨onePage_of ?_ ⟨?_, ?_, ?_, ?_, ?_, ?_⟩, ?_, ?_, ?_⟩ <;> first | decide +kernel | (unfold homesAt; decide +kernel)

/-- A page with `cc` of context 0 (bit 55). -/
def coherentE : Word := 0x8080000000000000

theorem witness_DiscardsAndPageOperationsComplete_kept : ∀ e0 ∈ [polderE, coherentE],
    OnePage (paged e0 0) 0 ((paged e0 0).rdS 4).toNat ((paged e0 0).rdS 5).toNat { r := true } 0 ⟨0x20000, e0, 0⟩ ∧
    (Entry.isPolder ⟨0x20000, e0, 0⟩ = true ∨ Entry.cc ⟨0x20000, e0, 0⟩ = true) := by
  intro e0 he
  simp only [List.mem_cons, List.not_mem_nil, or_false] at he
  rcases he with rfl | rfl <;> refine ⟨onePage_of ?_ ⟨?_, ?_, ?_, ?_, ?_, ?_⟩, ?_⟩ <;> decide +kernel

/-- `CopyReady` as far as it can be evaluated. -/
def copyB (s : State) (kind x y sc d a b slot : Nat) (single : Bool) : Bool :=
  let cmd := copyCmd s kind x y sc d a b
  decide (x ≠ 0 → s.core.spadCheck (s.rdS a).toNat 96 8 = none) && decide (y ≠ 0 → s.core.spadCheck (s.rdS b).toNat 96 8 = none) &&
  decide (rBad cmd.src false (decide (kind = 1)) single sc = false) &&
  decide (rSpace cmd.src = 1 → rFmt cmd.src = cmd.fs ∧ sBad s.core (rEnd cmd.src (cFmtOf cmd.fs)) cmd.fs = false ∧
    sFault s.core (rEnd cmd.src (cFmtOf cmd.fs)) cmd.fs = none) &&
  decide (single = false → rBad cmd.dst true (decide (kind = 2)) false sc = false) &&
  decide (pairOk kind (rSpace cmd.src) (if single then 5 else rSpace cmd.dst) = true) &&
  decide (single = false → rSpace cmd.dst = 1 → rFmt cmd.dst = cmd.fd) &&
  decide (cmd.dst = [] ∨ rSpace cmd.dst = 1 → sBad s.core cmd.dstEnd cmd.fd = false ∧ sFault s.core cmd.dstEnd cmd.fd = none) &&
  decide (rAcq cmd.src = true ∨ rRel cmd.flags = true ∨ sc = 0) &&
  decide (cFmtOf cmd.fs = .sig ∨ cFmtOf cmd.fd = .sig → cFmtOf cmd.fs = cFmtOf cmd.fd) &&
  decide (single = false → rSpace cmd.dst = 4 → cmd.fs = 7) &&
  decide (kind = 3 → isCont cmd.fs = false ∧ isCont cmd.fd = false ∧ (cFmtOf cmd.fs).scaled = false ∧
    (cFmtOf cmd.fd).scaled = false ∧ rFill cmd.src = 0 ∧ rSize cmd.src 0 % 2 = 0 ∧ 8 ≤ cmd.fs ∧ cmd.fs ≤ 15 ∧
    8 ≤ cmd.fd ∧ cmd.fd ≤ 15 ∧ s.core.spadCheck (rFval cmd.src) (8 * (rSize cmd.src 0 / 2)) 8 = none) &&
  decide (kind = 1 → s.core.spadCheck (rList cmd.src) (4 * rSize cmd.src 1) 4 = none) &&
  decide (kind = 2 → s.core.spadCheck (rList cmd.dst) (4 * rSize cmd.dst 1) 4 = none) &&
  decide (single = false → rCount cmd.src = rCount cmd.dst ∧ rSize cmd.src 0 = rSize cmd.dst 0) &&
  decide (rSpace cmd.src = 1 → cmd.dst = [] ∨ rSpace cmd.dst = 1 →
    sOverlap (rEnd cmd.src (cFmtOf cmd.fs)) cmd.dstEnd (cFmtOf cmd.fs) (cFmtOf cmd.fd) = false) &&
  decide (rSpace cmd.src = 0 → kind ≠ 1 → ∀ p ∈ rTouch cmd.src false,
    (s.translate? s.req p.1 p.2 { r := true }).toBool = true ∧ s.winBad s.req.ctx p.1 = false) &&
  decide (single = false → rSpace cmd.dst = 0 → kind ≠ 2 → ∀ p ∈ rTouch cmd.dst true,
    (s.translate? s.req p.1 p.2 { w := true }).toBool = true ∧ s.winBad s.req.ctx p.1 = false) &&
  decide (kind = 4 → s.noNarrow (bf (s.rdS d) 63 62) (bf (s.rdS d) 61 56) = false ∧ descOk (s.rdS d) = true) &&
  decide (s.core.freeSlot? = some slot) && decide (s.core.inRegion = true ∨ s.core.held = []) && decide (∀ o ∈ s.pend, o.agent ≠ s.coreNo)

theorem ok_of {α β : Type} {x : Except α β} (h : x.toBool = true) : ∃ y, x = .ok y := by
  cases x with
  | ok y => exact ⟨y, rfl⟩
  | error e => cases h

theorem copyReady_of {s : State} {kind x y sc d a b slot : Nat} {single : Bool} (h : copyB s kind x y sc d a b slot single = true)
    (hs : single = (decide (y = 0) && decide (b = 0))) : CopyReady s kind x y sc d a b slot (copyCmd s kind x y sc d a b) single := by
  simp only [copyB, Bool.and_eq_true, decide_eq_true_eq] at h
  obtain ⟨⟨⟨⟨⟨⟨⟨⟨⟨⟨⟨⟨⟨⟨⟨⟨⟨⟨⟨⟨⟨h1, h2⟩, h3⟩, h4⟩, h5⟩, h6⟩, h7⟩, h8⟩, h9⟩, h10⟩, h11⟩, h12⟩, h13⟩, h14⟩, h15⟩, h16⟩, h17⟩, h18⟩, h19⟩, h20⟩, h21⟩, h22⟩ := h
  exact ⟨rfl, hs, h1, h2, h3, h4, h5, h6, h7, h8, h9, h10, h11, h12, h13, h14, h15, h16,
    fun e1 e2 p hp => ⟨ok_of (h17 e1 e2 p hp).1, (h17 e1 e2 p hp).2⟩, fun e1 e2 e3 p hp => ⟨ok_of (h18 e1 e2 e3 p hp).1, (h18 e1 e2 e3 p hp).2⟩,
    h19, h20, h21, h22⟩

/-- Two layout records, in s8 to s19 and s20 to s31: `base` for a task with 64 KiB of scratchpad. -/
def records (src dst : List Word) (d : Word) : State :=
  withCore fun c => { c with
    task := some { lrec := [(12, 0x10000)] }
    s := (4, d) :: ((src.zipIdx 8 ++ dst.zipIdx 20).map fun x => (x.2, x.1)).filter fun x => x.2 ≠ 0 }

/-- 16 FP32 values of memory at 0; of bank 0 of the scratchpad; two rows of 8 of memory, with a list at 0x100; BF16 rows for a tile. -/
def inMemory : List Word := [0, 8, 16, 0, 0x1000000000]
def inBank : List Word := [0x0100000000000000, 8, 0, 0, 0x1000000000]
def rowsInMemory : List Word := [0, 0x88, 0x800000008, 0, 0x2000800000000, 0, 32, 0, 0, 0, 0x10000000000]
def rowsInBank : List Word := [0x0100000000000000, 0x88, 0, 0, 0x2000800000000, 0]
def halfRows : List Word := [0, 0x89, 0x800000008, 0, 0x2000800000000, 0, 32]
def inTile : List Word := [0x0200000000000000, 0x89, 0, 0, 0x2000800000000]

/-- A region of the core bound to unit 2 in a cache-coherent page, and the search command at 0 of the scratchpad. -/
def searching : State :=
  { withCore fun c => { c with
      task := some { lrec := [(12, 0x10000)] }
      regs := [(0, { v := true, gen := 1, bind := 0x2000000000001 })], s := [(4, 2)]
      spad := Sparse.setBytes [] 0 (leBytes 24 1 ++ leBytes 8 0x40000000400) } with
    mem := base.mem.setBytes 0x20000 (leBytes 8 0x8080000000000000) }

theorem witness_CopiesAndSearchesAreIssued :
    (∀ r ∈ copies, ∃ s d a b y x sc slot cmd single, s.cur = .strm 0 .a ∧ CopyReady s r.2 x y sc d a b slot cmd single) ∧
    CopyReady (records inMemory [] 0) 0 0 0 0 9 8 0 0 (copyCmd (records inMemory [] 0) 0 0 0 0 9 8 0) true := by
  refine ⟨fun r h => ?_, copyReady_of (by decide +kernel) rfl⟩
  simp only [copies, List.mem_cons, List.not_mem_nil, or_false] at h
  rcases h with rfl | rfl | rfl | rfl | rfl
  · exact ⟨records inMemory inBank 0, 9, 8, 20, 0, 0, 0, 0, _, false, by decide +kernel, copyReady_of (by decide +kernel) rfl⟩
  · exact ⟨records rowsInMemory rowsInBank 0, 9, 8, 20, 0, 0, 0, 0, _, false, by decide +kernel, copyReady_of (by decide +kernel) rfl⟩
  · exact ⟨records rowsInBank rowsInMemory 0, 9, 8, 20, 0, 0, 0, 0, _, false, by decide +kernel, copyReady_of (by decide +kernel) rfl⟩
  · exact ⟨records inMemory (inMemory.set 0 256) 0, 9, 8, 20, 0, 0, 0, 0, _, false, by decide +kernel, copyReady_of (by decide +kernel) rfl⟩
  · exact ⟨records halfRows inTile 0x0900000000000000, 4, 8, 20, 0, 0, 0, 0, _, false, by decide +kernel, copyReady_of (by decide +kernel) rfl⟩

theorem witness_CopiesAndSearchesAreIssued_search :
    let m := searchCommand searching 0 0
    let w (i : Nat) : Word := m.getD i 0
    let r : Region := { v := true, gen := 1, bind := 0x2000000000001 }
    searching.cur = .strm 0 .a ∧ Settled searching 0 ∧ (searching.coreAt 0).spadCheck (searching.rdS 0).toNat 64 64 = none ∧
    bf (w 1) 63 56 = 0 ∧ bf (w 2) 63 56 = 0 ∧ bf (w 2) 31 24 = 0 ∧ bf (w 3) 31 0 = 1024 ∧
    (searching.coreAt 0).regionOf? 0 (searching.coreCtx 0) (bf (w 0) 31 0) = some r ∧ bindV r.bind = true ∧
    (searching.rdS 4).toNat = bindUnit r.bind ∧ searching.storeOk r.bind = true ∧
    (searching.coreAt 0).spadCheck (bf (w 3) 63 32) (8 + 8 * bf (w 3) 31 0) 8 = none ∧ (searching.coreAt 0).freeSlot? = some 0 := by
  refine ⟨?_, ⟨?_, ?_, ?_, ?_, ?_, ?_⟩, ?_⟩ <;> decide +kernel

/-- `base` for a supervisor's task. -/
def supervising : State := withCore fun c => { c with task := some { lrec := [(4, 0x100000)] } }

theorem still_supervising : Still supervising 0 ∧ Settled supervising 0 := by
  refine ⟨?_, ?_⟩ <;> constructor <;> decide +kernel

theorem witness_SpecialRegistersAreReadAndWritten :
    base.cur = .strm 0 .a ∧ (∀ n ∈ [1, 2, 3, 4, 16, 24, 31, 64, 87], readable n ∧ mayUse base 0 n ∧ (base.ctxAt 0).bad.get false n = false) ∧
    supervising.cur = .strm 0 .a ∧ (∀ n ∈ [96, 101, 130, 319, 394], storedRegister n = true) ∧
    (∀ n ∈ [96, 101, 104, 120, 121, 128, 131, 137, 193, 194, 198, 199, 319, 323, 384, 385, 386, 387, 388, 389, 391, 393, 394, 397, 400, 415],
      readable n ∧ mayUse supervising 0 n ∧ (supervising.ctxAt 0).bad.get false n = false) ∧
    (∀ n ∈ [5, 15, 17, 511], srDefined n = false) ∧ Still base 0 ∧
    (∀ n ∈ [96, 120, 415], srSupervisor n = true) ∧ (∀ t, (base.coreAt 0).task = some t → t.sup = false) ∧ srReadOnly 96 = false ∧
    (∀ n ∈ [129, 131, 135, 384, 415], srSupervisor n = true ∧ srReadOnly n = true ∧ fenced n ∧ mayUse supervising 0 n) ∧
    (∀ n ∈ [0, 31, 120, 199, 323], srReadOnly n = true ∧ ¬ fenced n) ∧ Still supervising 0 := by
  refine ⟨by decide +kernel, ?_, by decide +kernel, by decide +kernel, ?_, by decide +kernel, still_base, by decide +kernel, ?_, by decide +kernel,
    fun n hn => ?_, by unfold fenced; decide +kernel, still_supervising.1⟩
  · intro n hn
    simp only [List.mem_cons, List.not_mem_nil, or_false] at hn
    rcases hn with rfl | rfl | rfl | rfl | rfl | rfl | rfl | rfl | rfl <;>
      exact ⟨by unfold readable; decide +kernel, fun h => by revert h; decide +kernel, by decide +kernel⟩
  · intro n hn
    simp only [List.mem_cons, List.not_mem_nil, or_false] at hn
    rcases hn with rfl | rfl | rfl | rfl | rfl | rfl | rfl | rfl | rfl | rfl | rfl | rfl | rfl | rfl | rfl | rfl | rfl | rfl | rfl | rfl | rfl | rfl |
      rfl | rfl | rfl | rfl <;>
      exact ⟨by unfold readable; decide +kernel, fun _ => ⟨_, rfl, by decide +kernel⟩, by decide +kernel⟩
  · intro t h
    cases h
    decide +kernel
  · have h : ∀ n ∈ [129, 131, 135, 384, 415], srSupervisor n = true ∧ srReadOnly n = true ∧ fenced n := by unfold fenced; decide +kernel
    exact ⟨(h n hn).1, (h n hn).2.1, (h n hn).2.2, fun _ => ⟨_, rfl, by decide +kernel⟩⟩

/-- `supervising` at time 50, with windows of event classes 0 and 5 of 0 and 1 µs, `ftsel` at page 0, and `tqsel` at the queue given, which is
context 0's for 0 and context 1's for 255. -/
def governed (time q : Nat) : State :=
  { supervising with
    ctxs := [(0, { sr := [(101, 0x100000000), (257, 0x10000), (259, 0xF), (395, BitVec.ofNat 64 q)] })], dtime := time
    mg := [(0x1080, 0x10000), (0x1AF8, 0x4000000000000)] }

theorem witness_SpecialRegistersAreReadAndWritten_governed :
    (∀ time ∈ [999, 1000], (governed time 0).cur = .strm 0 .a ∧ classWindow (governed time 0) 0 0 = 0 ∧
      classWindow (governed time 0) 0 5 = 1000 ∧ ((governed time 0).coreAt 0).evwin.get 0 5 = 0) ∧
    ((governed 0 0).entry? (bf ((governed 0 0).sr ((governed 0 0).coreCtx 0) 195) 47 16 * 65536) = some page ∧ page.v = true ∧
      page.ctx = (governed 0 0).coreCtx 0) ∧
    (let s := governed 0 0
     let s := { s with ctxs := [(0, { sr := [(195, 0x10000)] })] }
     s.entry? (bf (s.sr (s.coreCtx 0) 195) 47 16 * 65536) = some ⟨0x20010, 0, 0⟩ ∧ Entry.v ⟨0x20010, 0, 0⟩ = false ∧ Still s 0) ∧
    (∀ q ∈ [0, 255], queueOwned (governed 0 q) 0 ↔ q = 0) ∧ ((governed 0 0).ctxAt ((governed 0 0).coreCtx 0)).bad.get false 396 = false := by
  refine ⟨by decide +kernel, by decide +kernel, ⟨by decide +kernel, by decide +kernel, ⟨?_, ?_, ?_, ?_, ?_⟩⟩, by unfold queueOwned; decide +kernel,
    by decide +kernel⟩ <;> decide +kernel

theorem witness_SystemWordsRaiseTheirExceptions :
    base.cur = .strm 0 .a ∧ Still base 0 ∧ (63 : Nat) < 64 ∧ (7 : Nat) < 8 ∧ Settled base 0 :=
  ⟨by decide +kernel, still_base, by decide, by decide, settled_base⟩

/-- Core 1 is frozen, and `trsel` names it with an action; its task is in a replayable region where asked. -/
def returning (act : Nat) (how : Frz) (t : Task) : State :=
  { supervising with
    cores := supervising.cores ++ [(1, { task := some t, frozen := some how, rcdDue := true, strm := [(0, { st := .running })] })]
    ctxs := [(0, { sr := [(130, BitVec.ofNat 64 (act * 2 ^ 61 + 1)), (257, 0x10000), (259, 0xF)] })] }

/-- The same, its record delivered. -/
def delivered (act : Nat) (how : Frz) (t : Task) : State := (returning act how t).updCore 1 fun c => { c with rcdDue := false }

theorem selects_returning (act : Nat) (how : Frz) (t : Task) (h : bf (BitVec.ofNat 64 (act * 2 ^ 61 + 1)) 63 61 = act ∧
    bf (BitVec.ofNat 64 (act * 2 ^ 61 + 1)) 8 0 = 1 ∧ t.ctx = 0) : Selects (returning act how t) 0 1 act how t :=
  ⟨⟨_, rfl, by decide +kernel⟩, ⟨h.2.1, by decide, by decide⟩, h.1, ⟨rfl, h.2.2⟩, rfl,
    ⟨fun o ho => (by cases ho), rfl, rfl, rfl, rfl, fun o ho => (by cases ho)⟩⟩

theorem delivered_returning (act : Nat) (how : Frz) (t : Task) (h : bf (BitVec.ofNat 64 (act * 2 ^ 61 + 1)) 63 61 = act ∧
    bf (BitVec.ofNat 64 (act * 2 ^ 61 + 1)) 8 0 = 1 ∧ t.ctx = 0) : Delivered (delivered act how t) 0 1 act how t :=
  ⟨⟨⟨_, rfl, by decide +kernel⟩, ⟨h.2.1, by decide, by decide⟩, h.1, ⟨rfl, h.2.2⟩, rfl,
    ⟨fun o ho => (by cases ho), rfl, rfl, rfl, rfl, fun o ho => (by cases ho)⟩⟩, rfl⟩

theorem witness_ReturnFromException :
    (base.cur = .strm 0 .a ∧ Still base 0 ∧ ∀ u, (base.coreAt 0).task = some u → u.sup = false) ∧
    (∀ how, how = .strm 0 0x04 ∨ how = .strm 2 0x01 ∨ how = .after 0 0x13 ∨ how = .core 0x10 ∨ how = .save →
      (returning 0 how { lrec := [] }).cur = .strm 0 .a ∧ Selects (returning 0 how { lrec := [] }) 0 1 0 how { lrec := [] } ∧
      ((returning 0 how { lrec := [] }).coreAt 1).rcdDue = true ∧ bit ((returning 0 how { lrec := [] }).sr 0 128) 0 = false ∧
      Delivered (delivered 0 how { lrec := [] }) 0 1 0 how { lrec := [] } ∧ how ≠ .cmpl ∧ how ≠ .restore) ∧
    (Delivered (delivered 1 (.strm 0 0x04) { lrec := [] }) 0 1 1 (.strm 0 0x04) { lrec := [] } ∧ (0x04 : Nat) ≠ 0x0C) ∧
    (let t : Task := { lrec := [(4, 0x40000)], inRegion := true }
     Delivered (delivered 2 (.strm 0 0x04) t) 0 1 2 (.strm 0 0x04) t ∧ t.inRegion = true ∧ t.idem = true ∧
     (∀ o ∈ (delivered 2 (.strm 0 0x04) t).pend, o.agent ≠ 1) ∧ ((delivered 2 (.strm 0 0x04) t).coreAt 1).stLine = []) ∧
    (let s := delivered 3 (.strm 0 0x04) { lrec := [] }
     Delivered s 0 1 3 (.strm 0 0x04) { lrec := [] } ∧ (∀ o ∈ s.pend, o.agent ≠ 1) ∧ (s.coreAt 1).stLine = [] ∧ s.forksOf 1 = []) := by
  refine ⟨⟨by decide +kernel, still_base, fun u hu => (by cases hu; decide +kernel)⟩,
    fun how h => ⟨rfl, selects_returning _ _ _ (by decide +kernel), rfl,
      (by have h0 : (returning 0 how { lrec := [] }).sr 0 128 = 0 := rfl
          rw [h0]; decide), delivered_returning _ _ _ (by decide +kernel), ?_, ?_⟩,
    ⟨delivered_returning _ _ _ (by decide +kernel), by decide⟩,
    ⟨delivered_returning _ _ _ (by decide +kernel), ?_⟩, ⟨delivered_returning _ _ _ (by decide +kernel), ?_⟩⟩
  · rcases h with rfl | rfl | rfl | rfl | rfl <;> simp
  · rcases h with rfl | rfl | rfl | rfl | rfl <;> simp
  · decide +kernel
  · decide +kernel

/-- The task of `base` is the member of gang 0 given, of two members; it declares eight slots. -/
def ganged (arrived : List (Nat × Word)) (ended : List Word) (sync : Option Nat) : State :=
  { withCore fun c => { c with task := some { lrec := [(11, 0x80000000)], gang := some 0 }, barSync := sync } with
    gangs := [{ id := 0, members := [0, 1], arrived := arrived, ended := ended }] }

theorem barrier_ganged (arrived : List (Nat × Word)) (ended : List Word) (sync : Option Nat) (n sc : Nat) (hn : n < 8) (hs : 2 ≤ sc ∧ sc ≤ 4) :
    AtBarrier (ganged arrived ended sync) 0 n sc { id := 0, members := [0, 1], arrived := arrived, ended := ended } 0
      { lrec := [(11, 0x80000000)], gang := some 0 } :=
  ⟨⟨rfl, rfl, rfl⟩, by simp [ganged], ⟨hn, by simpa [Task.nbar, Task.w, Sparse.get, bf] using hn⟩, ⟨by simp [hs.1], hs.2⟩,
    ⟨fun o ho => (by cases ho), rfl, rfl, rfl, rfl, fun o ho => (by cases ho)⟩⟩

/-- A member of a task in its replayable region; a sequencer of context 0. -/
def inRegionState : State := withCore fun c => { c with task := some { lrec := [], inRegion := true } }

theorem witness_RegionsStreamsAndBarriersComplete :
    base.cur = .strm 0 .a ∧ (base.coreAt 0).held = [] ∧ (base.coreAt 0).inRegion = false ∧ (inRegionState.coreAt 0).inRegion = true ∧
    (inRegionState.coreAt 0).held = [] ∧ (∀ o ∈ inRegionState.pend, o.agent ≠ 0) ∧ onSequencer.cur = .seqr 3 ∧
    (∀ o ∈ onSequencer.pend, o.agent ≠ 512 + 3) ∧
    AtBarrier (ganged [(7, 1)] [] none) 0 7 2 { id := 0, members := [0, 1], arrived := [(7, 1)] } 0 { lrec := [(11, 0x80000000)], gang := some 0 } ∧
    (7, (0 : Word)) ∉ [(7, (1 : Word))] ∧ lastToArrive { id := 0, members := [0, 1], arrived := [(7, 1)] } 7 0 ∧
    AtBarrier (ganged [] [1] none) 0 0 4 { id := 0, members := [0, 1], ended := [1] } 0 { lrec := [(11, 0x80000000)], gang := some 0 } ∧
    lastToArrive { id := 0, members := [0, 1], ended := [1] } 0 0 ∧ ¬ lastToArrive { id := 0, members := [0, 1] } 0 0 ∧
    AtBarrier (ganged [] [] (some 7)) 0 7 3 { id := 0, members := [0, 1] } 0 { lrec := [(11, 0x80000000)], gang := some 0 } ∧
    ((ganged [] [] (some 7)).coreAt 0).barSync = some 7 ∧
    AtBarrier (ganged [(7, 0)] [] none) 0 7 2 { id := 0, members := [0, 1], arrived := [(7, 0)] } 0 { lrec := [(11, 0x80000000)], gang := some 0 } ∧
    (7, (0 : Word)) ∈ [(7, (0 : Word))] := by
  refine ⟨?_, ?_, ?_, ?_, ?_, ?_, ?_, ?_, barrier_ganged _ _ _ _ _ (by decide) (by decide), ?_, ?_, barrier_ganged _ _ _ _ _ (by decide) (by decide),
    ?_, ?_, barrier_ganged _ _ _ _ _ (by decide) (by decide), ?_, barrier_ganged _ _ _ _ _ (by decide) (by decide), ?_⟩ <;>
    first | (simp [lastToArrive]; done) | decide +kernel

/-- A launch record at 0x100, of queue 0, with L0 = n. -/
def launching (n : Nat) : State :=
  { withCore fun c => { c with s := [(4, 0x100)] } with
    mem := base.mem.setBytes 0x100 (leBytes 8 n), mg := [(0x1080, 0x10000), (0x1300, 0x8000000000000000)]
    ctxs := [(0, { sr := [(257, 0x10000), (259, 0xF), (384, 1)] })] }

/-- `launching` on a die whose monitor entries are all in use. -/
def fullDie : State :=
  { launching 4 with launches := [{ id := 0, lva := 0, lrec := [], deps := List.replicate 16385 ⟨0, 0, false⟩ }] }

theorem witness_LaunchesAreAccepted :
    (∀ n ∈ [4, 5],
      let s := launching n
      s.cur = .strm 0 .a ∧ (s.rdS 4).toNat % 256 = 0 ∧ Settled s 0 ∧ Plain s s.req (s.rdS 4).toNat 256 { r := true } 0x100 page 0x100 ∧
      (s.coreAt 0).launchRec = none ∧
      s.launchRoom (recordIn s 0x100) = true ∧ (recordIn s 0x100).get 0 23 = 0 ∧ bf ((recordIn s 0x100).get 0 4) 26 24 = 0 ∧
      ¬ fetches (recordIn s 0x100) ∧ (s.launchReason (recordIn s 0x100) (s.coreCtx 0) false false = 0 ↔ n = 4)) ∧
    (∀ n ∈ [4, 5],
      let s := (launching 7).updCore 0 fun c => { c with launchRec := some [(0, BitVec.ofNat 64 n)] }
      let r : Sparse Word := [(0, BitVec.ofNat 64 n)]
      s.cur = .strm 0 .a ∧ (s.rdS 4).toNat % 256 = 0 ∧ Settled s 0 ∧ (s.coreAt 0).launchRec = some r ∧ s.launchRoom r = true ∧
      r.get 0 23 = 0 ∧ bf (r.get 0 4) 26 24 = 0 ∧ s.pend = [] ∧ (s.launchReason r (s.coreCtx 0) false false = 0 ↔ n = 4)) ∧
    (let s := fullDie
     s.cur = .strm 0 .a ∧ (s.rdS 4).toNat % 256 = 0 ∧ Settled s 0 ∧ Plain s s.req (s.rdS 4).toNat 256 { r := true } 0x100 page 0x100 ∧
     (s.coreAt 0).launchRec = none ∧ s.launchRoom (recordIn s 0x100) = false) := by
  refine ⟨fun n hn => ?_, fun n hn => ?_, ?_⟩
  · simp only [List.mem_cons, List.not_mem_nil, or_false] at hn
    rcases hn with rfl | rfl <;>
      refine ⟨?_, ?_, ⟨?_, ?_, ?_, ?_, ?_, ?_⟩, plain_of ?_ ?_, ?_, ?_, ?_, ?_, ?_, ?_⟩ <;> first | decide +kernel | (unfold fetches; decide +kernel)
  · simp only [List.mem_cons, List.not_mem_nil, or_false] at hn
    rcases hn with rfl | rfl <;>
      refine ⟨?_, ?_, ⟨?_, ?_, ?_, ?_, ?_, ?_⟩, ?_, ?_, ?_, ?_, ?_, ?_⟩ <;> decide +kernel
  · have hq : bf ((recordIn fullDie 0x100).get 0 4) 11 4 = 0 := by decide +kernel
    have hm : fullDie.monitors 0 = 16385 := by
      simp only [State.monitors, fullDie, List.filter_cons, List.filter_nil, Option.isNone_none,
        Bool.and_true, Launch.queue]
      rw [if_pos (by decide)]
      simp only [List.map_cons, List.map_nil, List.length_replicate, List.sum_cons, List.sum_nil, Nat.add_zero]
    have hr : fullDie.launchRoom (recordIn fullDie 0x100) = false := by
      simp only [State.launchRoom, hq, Nat.zero_div, hm, Bool.and_eq_false_iff, decide_eq_false_iff_not]
      exact Or.inr (by omega)
    refine ⟨?_, ?_, ⟨?_, ?_, ?_, ?_, ?_, ?_⟩, plain_of ?_ ?_, ?_, hr⟩ <;> decide +kernel

/-- `base` in a context with sequencers 0 and 47, whose numbers stand in s0 and s4. -/
def sequencing (q : Nat) (running : Bool) (o i : Mbox) : State :=
  { withCore fun c => { c with s := [(4, 47)], outBox := [(q, o)], inBox := [(q, i)] } with
    ctxs := [(0, { sr := [(257, 0x10000), (259, 0xF), (387, 0x800000000001)] })], seqrs := [(q, { running := running })] }

theorem witness_ForksStartSequencers :
    (∀ q b, (q = 0 ∧ b = 0) ∨ (q = 47 ∧ b = 4) → ∀ r, namesSequencer (sequencing q r {} {}) 0 b q ∧ Settled (sequencing q r {} {}) 0 ∧
      (sequencing q r {} {}).cur = .strm 0 .a ∧ ((sequencing q r {} {}).rdS 0).toNat % 4 = 0 ∧
      ((sequencing q r {} {}).coreAt 0).task = some { lrec := [] } ∧ ((sequencing q r {} {}).seqrAt q).running = r ∧
      ((sequencing q r {} {}).seqrAt q).resetting = false ∧ (((sequencing q r {} {}).coreAt 0).inBox.get {} q).msg = none ∧
      (((sequencing q r {} {}).coreAt 0).inBox.get {} q).err = none) ∧ (7 : Nat) < 8 := by
  refine ⟨fun q b h r => ?_, by decide⟩
  rcases h with ⟨rfl, rfl⟩ | ⟨rfl, rfl⟩ <;> cases r <;>
    refine ⟨⟨?_, ?_, ?_⟩, ⟨?_, ?_, ?_, ?_, ?_, ?_⟩, ?_⟩ <;> decide +kernel

theorem witness_MailboxesCarryMessages :
    (let s := sequencing 47 false {} { msg := some [1, 2, 3, 4, 5, 6, 7, 8], ready := true }
     s.cur = .strm 0 .a ∧ namesSequencer s 0 4 47 ∧ Settled s 0 ∧ ((s.coreAt 0).outBox.get {} 47).msg = none ∧
     ((s.coreAt 0).inBox.get {} 47).msg = some [1, 2, 3, 4, 5, 6, 7, 8] ∧ ((s.coreAt 0).inBox.get {} 47).ready = true) ∧
    (let s := sequencing 47 false { msg := some [] } {}
     namesSequencer s 0 4 47 ∧ Settled s 0 ∧ ((s.coreAt 0).outBox.get {} 47).msg = some [] ∧ 47 ∉ s.forksOf 0 ∧
     ((s.coreAt 0).inBox.get {} 47).msg = none ∧ ((s.coreAt 0).inBox.get {} 47).err = none) ∧ (1 ≤ 56 ∧ (7 : Nat) < 8) := by
  refine ⟨⟨?_, ⟨?_, ?_, ?_⟩, ⟨?_, ?_, ?_, ?_, ?_, ?_⟩, ?_⟩, ⟨⟨?_, ?_, ?_⟩, ⟨?_, ?_, ?_, ?_, ?_, ?_⟩, ?_⟩, ?_⟩ <;> decide +kernel

/-- Sequencer 3 acts, forked by the task of core 0, whose mailboxes for it are as given. -/
def forkedBy (o i : Mbox) : State :=
  { withCore fun c => { c with outBox := [(3, o)], inBox := [(3, i)] } with cur := .seqr 3, seqrs := [(3, { running := true, owner := some 0 })] }

theorem witness_MailboxesCarryMessages_errors : ∀ code ∈ [(0x12 : Word), 0x18],
    let s := sequencing 47 false {} { err := some (code, 9) }
    s.cur = .strm 0 .a ∧ namesSequencer s 0 4 47 ∧ Still s 0 ∧ ((s.coreAt 0).inBox.get {} 47).msg = none ∧
    ((s.coreAt 0).inBox.get {} 47).err = some (code, 9) := by
  intro code h
  simp only [List.mem_cons, List.not_mem_nil, or_false] at h
  rcases h with rfl | rfl <;> refine ⟨?_, ⟨?_, ?_, ?_⟩, ⟨?_, ?_, ?_, ?_, ?_⟩, ?_⟩ <;> decide +kernel

theorem witness_MailboxesCarryMessages_sequencer :
    onSequencer.cur = .seqr 3 ∧ onSequencer.partner? 3 = none ∧ (∀ o ∈ (forkedBy {} {}).pend, o.agent ≠ 512 + 3) ∧
    (∃ c, (forkedBy {} {}).partner? 3 = some c ∧ (c.inBox.get {} 3).msg = none) ∧
    ∃ c, (forkedBy { msg := some [9], ready := true } {}).partner? 3 = some c ∧ (c.outBox.get {} 3).msg = some [9] ∧
      (c.outBox.get {} 3).ready = true := by
  refine ⟨by decide +kernel, by decide +kernel, by decide +kernel, ⟨_, rfl, by decide +kernel⟩, ⟨_, rfl, by decide +kernel⟩⟩

/-- Slot 7 of a table at 0x400, in use as number 5; descriptors at 0x800, tokens at 0xC00; a second page of the context, of polder.
s4 holds the slot's address, s5 and s6 two operands; `ws` are the slot's words. -/
def slotted (used : Bool) (a b : Word) (ws : List Word) : State :=
  { withCore fun c => { c with task := some { lrec := [(4, 0x100000)] }, s := [(4, 0x780), (5, a), (6, b)] } with
    ctxs := [(0, { sr := [(257, 0x20000), (259, 0xF), (320, 0x400), (321, 8), (322, 0x800), (386, 1)] })]
    slots := if used then [(5, { used := true, ia := 0x780 })] else []
    mem := ((base.mem.setBytes 0x780 (ws.flatMap fun w => leBytes 8 w.toNat)).setBytes 0x800
      (leBytes 8 0xC00 ++ leBytes 8 0x400000004 ++ leBytes 8 0xFFFF000000000000)).setBytes 0x20010 (leBytes 8 0xB200000000000000) }

theorem slotAt_of {s : State} {a : Nat} {k : Nat} (hp : plainB s s.req (s.rdS a).toNat 128 {} k page k = true)
    (hs : s.cores.all (fun c => decide (c.2.stLine = [])) = true)
    (h : (bf (s.sr (s.coreCtx 0) 320) 55 7 * 128 ≤ (s.rdS a).toNat ∧
      (s.rdS a).toNat < bf (s.sr (s.coreCtx 0) 320) 55 7 * 128 + 128 * bf (s.sr (s.coreCtx 0) 321) 15 0) ∧
      ((s.rdS a).toNat % 128 = 0 ∧ k % 128 = 0) ∧ (∀ w ∈ tableWords s k, w + 8 ≤ k ∨ k + 128 ≤ w) ∧ s.pend = [] ∧
      (s.coreAt 0).stash = [] ∧ (s.coreAt 0).held = [] ∧ (s.coreAt 0).inRegion = false ∧ s.remote = [] ∧ (s.coreAt 0).stLine = []) :
    SlotAt s 0 a k page k :=
  ⟨h.1, h.2.1, plain_of hp hs, by decide +kernel, h.2.2.1, ⟨fun o ho => (by rw [h.2.2.2.1] at ho; cases ho), h.2.2.2.2.2.2.2.2,
    h.2.2.2.2.1, h.2.2.2.2.2.1, h.2.2.2.2.2.2.1, fun o ho => (by rw [h.2.2.2.2.2.2.2.1] at ho; cases ho)⟩, h.2.2.2.1⟩

/-- The words of a slot with P = 2 and G = 3, epoch 7, descriptor 0, and the state given. -/
def words (st : Nat) : List Word := [0x200000003, 0x700000000, 0, 0, 0, 0, 0, 0, 0, 0, 0, 0, BitVec.ofNat 64 (st * 2 ^ 61)]

theorem witness_SlotWordsAreReadAndSlotsAreArmedAndRetired :
    (let s := slotted true 15 0 (words 1)
     s.cur = .strm 0 .a ∧ SlotAt s 0 4 0x780 page 0x780 ∧ inUse s 0 0x780 5 { used := true, ia := 0x780 } ∧ (s.rdS 5).toNat < 16) ∧
    (let s := slotted true 15 0 (words 3)
     SlotAt s 0 4 0x780 page 0x780 ∧ inUse s 0 0x780 5 { used := true, ia := 0x780 }) ∧
    (let s := slotted true 4 0 (words 1)
     framesStand s (s.devReq 0 (s.coreCtx 0)) 0x780 ∧ ringOff s (s.coreCtx 0) ∧ s.slots.get {} 5 = { used := true, ia := 0x780 }) ∧
    inUse { slotted true 3 0 (words 1) with slots := [(5, { used := true, ia := 0x780, evict := some true })] } 0 0x780 5
      { used := true, ia := 0x780, evict := some true } ∧
    base.cur = .strm 0 .a ∧ Still base 0 ∧ (∀ u, (base.coreAt 0).task = some u → u.sup = false) ∧
    (∀ op ∈ [1, 2, 3, 4], ∀ st ∈ [0, 1, 2, 3], mayArm (slotted true (BitVec.ofNat 64 op) 0 (words st)) 0 5 op ∧
      slotState (slotted true (BitVec.ofNat 64 op) 0 (words st)) 0x780 = st) := by
  refine ⟨⟨by decide +kernel, slotAt_of (by decide +kernel) (by decide +kernel) (by decide +kernel), ⟨by decide +kernel, by decide +kernel, by decide +kernel⟩, by decide +kernel⟩,
    ⟨slotAt_of (by decide +kernel) (by decide +kernel) (by decide +kernel), ⟨by decide +kernel, by decide +kernel, by decide +kernel⟩⟩,
    ⟨fun j hj ia ht => ?_, by unfold ringOff; decide +kernel, by decide +kernel⟩, ⟨by decide +kernel, by decide +kernel, by decide +kernel⟩,
    by decide +kernel, still_base, fun u hu => (by cases hu; decide +kernel), fun op ho st hs => ?_⟩
  · have h0 : bf (slotWordIn (slotted true 4 0 (words 1)) 0x780 5) 63 56 = 0 := by decide +kernel
    obtain rfl : j = 0 := by omega
    have h1 : (slotted true 4 0 (words 1)).translate? ((slotted true 4 0 (words 1)).devReq 0 ((slotted true 4 0 (words 1)).coreCtx 0))
      (bf (slotWordIn (slotted true 4 0 (words 1)) 0x780 5) 55 0 + 65536 * 0) 1 {} = .ok 0 := by decide +kernel
    rw [h1] at ht
    obtain rfl : 0 = ia := by simpa using ht
    have h2 : (slotted true 4 0 (words 1)).entry? 0 = some page := by decide +kernel
    refine ⟨by decide +kernel, fun x he => ?_⟩
    rw [h2] at he
    obtain rfl : page = x := by simpa using he
    decide +kernel
  simp only [List.mem_cons, List.not_mem_nil, or_false] at ho hs
  rcases ho with rfl | rfl | rfl | rfl <;> rcases hs with rfl | rfl | rfl | rfl <;>
    exact ⟨⟨⟨_, rfl, by decide +kernel⟩, by decide +kernel⟩, by decide +kernel⟩

theorem witness_CommitsAndTruncationsMoveTheSlot :
    (let s := slotted true 0x70000002A 3 (words 1)
     s.cur = .strm 0 .a ∧ SlotAt s 0 4 0x780 page 0x780 ∧ inUse s 0 0x780 5 { used := true, ia := 0x780 } ∧
     bf (s.rdS 0) 63 32 ≠ bf (slotWordIn s 0x780 1) 63 32 ∧ bf (s.rdS 5) 63 32 = bf (slotWordIn s 0x780 1) 63 32 ∧
     Plain s (deviceRequest s 0) (descriptorAddress s 0 (bf (slotWordIn s 0x780 1) 15 0)) 24 { r := true } 0x800 page 0x800 ∧
     bf (s.raw64 (0x800 + 16)) 63 48 = 0xFFFF ∧ bf (slotWordIn s 0x780 0) 31 0 < bf (s.raw64 (0x800 + 8)) 63 32 ∧
     Plain s s.req
       (bf (s.raw64 0x800) 55 0 + bf (slotWordIn s 0x780 0) 31 0 * bf (s.raw64 (0x800 + 8)) 31 0) 4 { w := true } 0xC0C page 0xC0C ∧
     s.guarded s.req.ctx 0xC0C 4 = false ∧
     page.tier < 2 ∧ (0xC0C + 4 ≤ 0x780 ∨ 0x780 + 128 ≤ 0xC0C) ∧ (∀ w ∈ tableWords s 0x780, w + 8 ≤ 0xC0C ∨ 0xC0C + 4 ≤ w) ∧
     (s.coreAt 0).trunc = none ∧ (s.rdS 6).toNat = bf (slotWordIn s 0x780 0) 31 0 ∧ bf (slotWordIn s 0x780 0) 63 32 ≤ (s.rdS 6).toNat ∧
     (s.rdS 0).toNat < bf (slotWordIn s 0x780 0) 63 32 ∧ bf (slotWordIn s 0x780 0) 31 0 < (s.rdS 5).toNat ∧ Still s 0) := by
  refine ⟨?_, slotAt_of ?_ ?_ ?_, ⟨?_, ?_, ?_⟩, ?_, ?_, plain_of ?_ ?_, ?_, ?_, plain_of ?_ ?_, ?_, ?_, ?_, ?_, ?_, ?_, ?_, ?_, ?_, ⟨?_, ?_, ?_, ?_, ?_⟩⟩ <;>
    decide +kernel

theorem number_of {s : State} (h : s.slots = []) (n : Nat) : (s.freeGnum? n).isSome = true := by
  simp only [State.freeGnum?, h, Sparse.get, Option.isSome_map, List.find?_isSome]
  exact ⟨0, by simp, by simp⟩

theorem witness_SlotsAreCreated :
    let s := slotted false 0 0 [0x200000003, 0x700000000 + 0xFFFF0000, 0, 0, 0, 0x10000, 0, 0, 9, 0, 0, 0, 0]
    s.cur = .strm 0 .a ∧ SlotAt s 0 4 0x780 page 0x780 ∧ mayArm s 0 5 0 ∧
    s.slots.find? (fun y => y.2.used && decide (y.2.ia = 0x780)) = none ∧ Creatable s 0 0x780 := by
  refine ⟨?_, slotAt_of ?_ ?_ ?_, ⟨⟨_, rfl, ?_⟩, ?_⟩, ?_, ?_, ?_, ?_, ?_, ?_, ⟨0x800, page, 0x800, plain_of ?_ ?_, ?_⟩, fun i hi => ?_, ?_, number_of rfl⟩
  rotate_left 15
  · have : bf (slotWordIn (slotted false 0 0 [0x200000003, 0x700000000 + 0xFFFF0000, 0, 0, 0, 0x10000, 0, 0, 9, 0, 0, 0, 0]) 0x780 5) 63 56 = 0 := by
      decide +kernel
    obtain rfl : i = 0 := by omega
    refine ⟨0x10000, ⟨0x20010, 0xB200000000000000, 0⟩, ?_⟩
    decide +kernel
  all_goals decide +kernel

/-- An X stream acts, of a task that declares 60 vector registers, 96 predicates and 128 banks; `qv0` has an entry. -/
def driving (st : Strm) (f : Core → Core) : State :=
  { withCore fun c => f { c with
      task := some { lrec := [(11, 0x600803C)] }, strm := [(st.code, { st := .running })], forked := decide (st ≠ .x)
      q := { qv := [(0, [{ lanes := [], ready := true }])] } } with cur := .strm 0 st }

/-- `SlotReady` as far as it can be evaluated. -/
def slotB (s : State) (g : XGuard) (ds : List Nat) (ops : List VOp) (ps : List Nat) : Bool :=
  decide (∀ d ∈ ds, d < (s.core.task.getD {}).nvreg) &&
  ops.all (fun o => decide (Sys2Proof.Machine.VOp.beyond (s.core.task.getD {}).nvreg o = false)) &&
  decide (∀ p ∈ ps, p < (s.core.task.getD {}).npred) &&
  decide (g.gpred = 127 ∨ g.gpred < (s.core.task.getD {}).npred) &&
  decide (∀ j ∈ headsOf ops, ∀ k ∈ clustersOf s.strmNo, (s.core.q.head? j k).isSome = true)

theorem slotReady_of {s : State} {g : XGuard} {ds : List Nat} {ops : List VOp} {ps : List Nat} (h : slotB s g ds ops ps = true)
    (hs : ∃ c st, s.cur = .strm c st ∧ st ≠ .a ∧ st ≠ .z) : SlotReady s g ds ops ps := by
  simp only [slotB, Bool.and_eq_true, decide_eq_true_eq, List.all_eq_true] at h
  obtain ⟨⟨⟨⟨h1, h2⟩, h3⟩, h4⟩, h5⟩ := h
  exact ⟨hs, h1, h2, h3, h4, h5⟩

theorem drives (st : Strm) (f : Core → Core) (h : st ≠ .a ∧ st ≠ .z) :
    ∃ c s', (driving st f).cur = .strm c s' ∧ s' ≠ .a ∧ s' ≠ .z := ⟨0, st, rfl, h.1, h.2⟩

theorem witness_FloatingOperationsWriteTheirLanes :
    SlotReady (driving .x id) .none [59] [.vec 60] [] ∧ SlotReady (driving .x id) ⟨1, 95⟩ [59] [.vec 60, .vec 59] [] ∧
    SlotReady (driving (.xc 3) id) ⟨0, 0⟩ [0] [.k 31, .const 63] [] :=
  ⟨slotReady_of (by decide +kernel) (drives _ _ (by decide)), slotReady_of (by decide +kernel) (drives _ _ (by decide)),
    slotReady_of (by decide +kernel) (drives _ _ (by decide))⟩

theorem witness_IntegerOperationsWriteTheirLanes :
    SlotReady (driving .x id) ⟨0, 95⟩ [59] [.vec 59] [] ∧ SlotReady (driving (.xc 0) id) .none [0] [.vec 60, .lit 63] [] :=
  ⟨slotReady_of (by decide +kernel) (drives _ _ (by decide)), slotReady_of (by decide +kernel) (drives _ _ (by decide))⟩

theorem witness_ComparesAndPredicatesWriteTheirLanes :
    SlotReady (driving .x id) .none [] [.vec 60, .k 0] [95] ∧ encodable (.vec 60) ∧ encodable (.lit 63) ∧
    SlotReady (driving .x id) ⟨0, 95⟩ [] [.lit 63, .vec 0] [0] ∧ floatConditions[7]? ≠ none ∧ integerConditions[9]? ≠ none ∧
    isNaN fp32 ((driving .x fun c => { c with v := [(1, [(7, 0x7FC00000)])] }).opLane litFp (.vec 1) 7) ∧
    SlotReady (driving .x id) ⟨1, 0⟩ [] [] [95, 95, 0] ∧ SlotReady (driving (.xc 2) id) .none [] [] [0, 95] ∧
    SlotReady (driving .x id) .none [] [] [95] := by
  refine ⟨slotReady_of ?_ (drives _ _ ?_), fun n h => (by cases h), fun n h => (by cases h; decide), slotReady_of ?_ (drives _ _ ?_),
    by simp [floatConditions], by simp [integerConditions], by unfold isNaN; decide +kernel, slotReady_of ?_ (drives _ _ ?_),
    slotReady_of ?_ (drives _ _ ?_), slotReady_of ?_ (drives _ _ ?_)⟩ <;> decide +kernel

/-- 1.0, 1.5, the smallest subnormal, infinity, a NaN; 3.0 and -3.0 cancel; a source subnormal, a value below E2M1's smallest and one
beyond its largest. -/
theorem witness_ElementsAreRoundedOnce :
    fp32 ∈ [fp32, bf16, fp16] ∧ e2m1 ∈ [bf16, fp16, e4m3, e5m2, e2m3, e3m2, e2m1] ∧ isNaN fp32 0x7FC00000 ∧ isInf fp32 0xFF800000 ∧
    (¬ isNaN fp32 0x3F800000 ∧ ¬ isInf fp32 0x3F800000) ∧ (negative fp32 0xFF800000 ≠ (negative fp32 0xFF800000 != true)) ∧
    number fp32 0x40400000 + number fp32 0xC0400000 = 0 ∧ number fp32 0x3F800000 * number fp32 0x3FC00000 ≠ 0 ∧ number fp32 0x80000000 = 0 ∧
    (number fp32 1 ≠ 0 ∧ |number fp32 1| < 2 ^ (-126 : ℤ)) ∧
    ((2 : ℚ) ^ (-126 : ℤ) ≤ |number fp32 0x3E000000| ∧ |number fp32 0x3E000000| < 2 ^ (1 - (e2m1.bias : ℤ) - e2m1.mant)) ∧
    (2 ^ (1 - (e2m1.bias : ℤ) - e2m1.mant) ≤ |number fp32 0x41000000| ∧ magnitude e2m1 e2m1.maxBits < |rounded e2m1 1 0 (number fp32 0x41000000)|) := by
  have h8 : number fp32 0x41000000 = 8 := by norm_num [number, negative, magnitude, fp32, Nat.testBit_eq_decide_div_mod_eq]
  have hl : Int.log 2 (8 : ℚ) = 3 := by
    rw [show (8 : ℚ) = ((2 : ℕ) : ℚ) ^ (3 : ℤ) by norm_num, Int.log_zpow (by norm_num)]
  refine ⟨by simp, by simp, by unfold isNaN; decide, by unfold isInf; decide, by unfold isNaN isInf; decide, by decide, ?_, ?_, ?_, ?_, ?_, ?_, ?_⟩
  · norm_num [number, negative, magnitude, fp32, Nat.testBit_eq_decide_div_mod_eq]
  · norm_num [number, negative, magnitude, fp32, Nat.testBit_eq_decide_div_mod_eq]
  · norm_num [number, negative, magnitude, fp32, Nat.testBit_eq_decide_div_mod_eq]
  · norm_num [number, negative, magnitude, fp32, Nat.testBit_eq_decide_div_mod_eq]
  · norm_num [number, negative, magnitude, fp32, e2m1, Nat.testBit_eq_decide_div_mod_eq]
  · norm_num [h8, e2m1]
  · rw [h8]
    have hq : quantum e2m1 8 = 4 := by norm_num [quantum, e2m1, hl]
    simp only [rounded, hq]
    norm_num [towardZero, magnitude, e2m1]

theorem witness_FunctionsQuantisationsAndTreesGiveTheirValues :
    -- a block of 8, a subnormal and -0.125
    (let xs := [0x41000000, 1, 0xBE000000]
     (∀ x ∈ xs, ¬ isNaN fp32 x ∧ ¬ isInf fp32 x) ∧ flushed 0x41000000 ≠ 0 ∧ ∀ x ∈ xs, |flushed x| ≤ |flushed 0x41000000|) ∧
    (isNaN fp32 0xFFC00001 ∧ isInf fp32 0xFF800000 ∧ negative fp32 0xFF800000 = true ∧ negative fp32 0x7F800000 = false) ∧
    (flushed 1 = 0 ∧ number fp32 1 ≠ 0 ∧ number fp32 0xBE000000 < 0 ∧ 0 < number fp32 0x41000000 ∧ number fp32 0x41000000 ≠ 1) ∧
    number fp32 0x3F800000 = 1 ∧ (number fp32 0 = number fp32 0x80000000 ∧ negative fp32 0 ≠ negative fp32 0x80000000) ∧
    [0x3F800000, 1, 2, 0xFF800000].length = 2 ^ 2 := by
  have h1 : number fp32 1 = 2 ^ (-149 : ℤ) := by norm_num [number, negative, magnitude, fp32, Nat.testBit_eq_decide_div_mod_eq]
  have h8 : number fp32 0x41000000 = 8 := by norm_num [number, negative, magnitude, fp32, Nat.testBit_eq_decide_div_mod_eq]
  have he : number fp32 0xBE000000 = -(1 / 8) := by norm_num [number, negative, magnitude, fp32, Nat.testBit_eq_decide_div_mod_eq]
  have f1 : flushed 1 = 0 := by
    rw [flushed, h1, if_pos]
    rw [abs_of_pos (by positivity)]
    exact zpow_lt_zpow_right₀ (by norm_num) (by norm_num)
  have f8 : flushed 0x41000000 = 8 := by
    rw [flushed, h8, if_neg]
    norm_num
  have fe : flushed 0xBE000000 = -(1 / 8) := by
    rw [flushed, he, if_neg]
    norm_num
  refine ⟨⟨by unfold isNaN isInf; decide, by rw [f8]; norm_num, fun x hx => ?_⟩, ⟨by unfold isNaN; decide, by unfold isInf; decide, by decide, by decide⟩,
    ⟨f1, by rw [h1]; positivity, by rw [he]; norm_num, by rw [h8]; norm_num, by rw [h8]; norm_num⟩,
    by norm_num [number, negative, magnitude, fp32, Nat.testBit_eq_decide_div_mod_eq],
    ⟨by norm_num [number, negative, magnitude, fp32, Nat.testBit_eq_decide_div_mod_eq], by decide⟩, rfl⟩
  simp only [List.mem_cons, List.not_mem_nil, or_false] at hx
  rcases hx with rfl | rfl | rfl
  · exact le_rfl
  · rw [f1, f8]; norm_num
  · rw [fe, f8]; norm_num

/-- 5.5 in a block whose scale is 2 (R74), as MXFP4 and as MXINT8; under a TSF8 scale of 1; a quotient beyond MXFP8-E5M2. -/
theorem witness_FunctionsQuantisationsAndTreesGiveTheirValues_elements :
    (flushed 0x40B00000 / 2 ^ ((128 : ℤ) - 127) = 11 / 4 ∧ flushed 0x40B00000 / 2 ^ ((128 : ℤ) - 133) = 176 ∧
      (2 : ℚ) ^ (1 - (e2m1.bias : ℤ) - e2m1.mant) ≤ |11 / 4|) ∧
    (flushed 0x40B00000 / number fp32 0x3F800000 = 11 / 2 ∧ (0x3F800000 < 0x7F800000 ∧ (0x3F800000 : Nat) ≠ 0)) ∧
    (2 ^ (1 - (e5m2.bias : ℤ) - e5m2.mant) ≤ |(131072 : ℚ)| ∧ magnitude e5m2 e5m2.maxBits < |rounded e5m2 0 0 131072|) := by
  have h : number fp32 0x40B00000 = 11 / 2 := by norm_num [number, negative, magnitude, fp32, Nat.testBit_eq_decide_div_mod_eq]
  have f : flushed 0x40B00000 = 11 / 2 := by
    rw [flushed, h, if_neg]
    norm_num
  have hl : Int.log 2 (131072 : ℚ) = 17 := by
    rw [show (131072 : ℚ) = ((2 : ℕ) : ℚ) ^ (17 : ℤ) by norm_num, Int.log_zpow (by norm_num)]
  have hq : quantum e5m2 131072 = 32768 := by norm_num [quantum, e5m2, hl]
  refine ⟨⟨by rw [f]; norm_num, by rw [f]; norm_num, by norm_num [e2m1]⟩,
    ⟨by rw [f]; norm_num [number, negative, magnitude, fp32, Nat.testBit_eq_decide_div_mod_eq], by decide, by decide⟩, by norm_num [e5m2], ?_⟩
  simp only [rounded, hq]
  norm_num [towardZero, magnitude, e5m2]

theorem witness_MovesAndBitFieldsWriteTheirLanes :
    SlotReady (driving .x id) .none [59] [.vec 60, .vec 0] [] ∧ SlotReady (driving (.xc 1) id) ⟨0, 95⟩ [0] [.vec 59] [] ∧
    SlotReady (driving .x id) .none [0] [.vec 1, .lit 5] [63] ∧ SlotReady (driving .x id) .none [0] [.vec 1] [63] := by
  refine ⟨slotReady_of ?_ (drives _ _ ?_), slotReady_of ?_ (drives _ _ ?_), slotReady_of ?_ (drives _ _ ?_),
    slotReady_of ?_ (drives _ _ ?_)⟩ <;> decide +kernel

theorem witness_ConversionsWriteTheirLanes :
    SlotReady (driving .x id) .none [59] [.vec 60] [] ∧ SlotReady (driving (.xc 3) id) .none [0] [.vec 1, .vec 2] [] ∧
    SlotReady (driving .x id) ⟨1, 95⟩ [59, 58] [.k 31] [] ∧ (59 : Nat) ≠ 58 := by
  refine ⟨slotReady_of ?_ (drives _ _ ?_), slotReady_of ?_ (drives _ _ ?_), slotReady_of ?_ (drives _ _ ?_), by decide⟩ <;> decide +kernel

theorem witness_ReductionsWriteTheirLanes :
    SlotReady (driving .x id) .none [59] [.vec 59] [] ∧ (driving .x id).core.forked = false ∧ (1 : Nat) < 2 ∧
    SlotReady (driving (.xc 3) id) ⟨0, 95⟩ [0] [.vec 60] [] := by
  refine ⟨slotReady_of ?_ (drives _ _ ?_), ?_, ?_, slotReady_of ?_ (drives _ _ ?_)⟩ <;> decide +kernel

/-- A state whose X stream's task has 1,024 bytes of scratchpad. -/
def withPad (st : Strm) : State := driving st fun c => { c with task := some { lrec := [(11, 0x600803C), (12, 1024)] } }

theorem witness_LocalAccessesAndSignaturesComplete :
    SlotReady (withPad .x) .none [59] [.lit 0, .lit 31] [] ∧ localAllowed (withPad .x) .none false (localSize 2) (.lit 0) (.lit 31) ∧
    localAllowed (withPad .x) .none true (localSize 2) (.lit 0) (.lit 0) ∧ SlotReady (withPad .x) .none [59] [.lit 0, .lit 0] [] ∧
    SlotReady (driving .x id) ⟨1, 95⟩ [] [] [] ∧ SlotReady (driving .x id) noGuard [] [.vec 60] [] ∧ (driving .x id).core.q.qz0.length < 16 ∧
    SlotReady (driving .x id) noGuard [59] [.vec 60] [] := by
  refine ⟨slotReady_of ?_ (drives _ _ ?_), ⟨?_, ?_⟩, ⟨?_, ?_⟩, slotReady_of ?_ (drives _ _ ?_), slotReady_of ?_ (drives _ _ ?_),
    slotReady_of ?_ (drives _ _ ?_), ?_, slotReady_of ?_ (drives _ _ ?_)⟩
  case refine_3 =>
    have h : (List.range 1024).all (fun l => decide ((withPad .x).core.spadCheck (localAddress (withPad .x) false (localSize 2) (.lit 0) (.lit 31) l)
      (localSize 2) (localSize 2) = none)) = true := by decide +kernel
    simp only [List.all_eq_true, List.mem_range, decide_eq_true_eq] at h
    have hs : (withPad .x).span = (0, 1024) := by decide +kernel
    exact fun l hl => h l (by have := hl.2.1; rw [hs] at this; simpa using this)
  case refine_5 =>
    have h : (List.range 1024).all (fun l => decide ((withPad .x).core.spadCheck (localAddress (withPad .x) true (localSize 2) (.lit 0) (.lit 0) l)
      (localSize 2) (localSize 2) = none)) = true := by decide +kernel
    simp only [List.all_eq_true, List.mem_range, decide_eq_true_eq] at h
    have hs : (withPad .x).span = (0, 1024) := by decide +kernel
    exact fun l hl => h l (by have := hl.2.1; rw [hs] at this; simpa using this)
  all_goals decide +kernel

theorem witness_MatrixWordsClaimAndQueue :
    (let s := driving .x fun c => { c with mx := { held := 0xFFFF0000000000000000000000000000, tst := [(15, .full)] }, k := [(2, 112), (3, 32767)] }
     drivesX s ∧ ¬ queueFull s ∧ s.core.forked = false ∧ held s (kNumber s 0 2) 16 ∧ kNumber s 0 3 ≤ 32767 ∧ s.core.mx.tileSt 15 = .full ∧
     59 < (s.core.task.getD {}).nvreg ∧ held s (kNumber s s.xCluster 2) 2 ∧ s.core.mx.tileSt 0 ≠ .full ∧ s.reduced = false ∧
     s.core.mx.heldCount + 16 ≤ (s.core.task.getD {}).naccb ∧ freeBanks s 16 0 ∧ (∀ x, x < 0 → ¬ freeBanks s 16 x)) ∧
    (let s := driving (.xc 3) fun c => { c with mx := { mq := List.replicate 16 (.tfree 0) } }
     drivesX s ∧ queueFull s) ∧
    (let s := driving .x fun c => { c with mx := { wait := [3] } }
     drivesX s ∧ queueFull s) := by
  refine ⟨⟨⟨0, .x, rfl, by decide, by decide⟩, by unfold queueFull; decide +kernel, ?_, ?_, ?_, ?_, ?_, ?_, ?_, ?_, ?_, ?_, fun x hx => (by omega)⟩, ⟨⟨0, .xc 3, rfl, by decide, by decide⟩, .inl ?_⟩,
    ⟨0, .x, rfl, by decide, by decide⟩, .inr ?_⟩
  all_goals first | decide +kernel | (unfold held; decide +kernel) | (unfold freeBanks; decide +kernel)

theorem witness_MatrixWordsClaimAndQueue_tiles :
    (let s := driving .x fun c => { c with task := some { lrec := [(11, 0x600803C), (12, 9216)] }, k := [(3, 8192)] }
     (∃ c st, s.cur = .strm c st ∧ st ≠ .a ∧ st ≠ .z) ∧ s.core.spadCheck (kNumber s s.xCluster 2) 8192 128 = none ∧
     s.core.spadCheck (kNumber s s.xCluster 3) 1024 128 = none ∧ s.core.ecc.spad = [] ∧ s.core.mx.tileSt 15 = .empty) ∧
    (let s := driving (.xc 1) fun c => { c with mx := { held := 0xFFFFFFFFFFFFFFFFFFFFFFFFFFFF, tst := [(0, .full)] } }
     s.core.mx.tileSt 0 ≠ .empty ∧ s.core.mx.heldCount + 16 ≤ (s.core.task.getD {}).naccb ∧ freeBanks s 16 112) ∧
    (let s := driving .x fun c => { c with mx := { held := 0x80808080808080808080808080808080 } }
     s.core.mx.heldCount + 16 ≤ (s.core.task.getD {}).naccb ∧ ∀ b, ¬ freeBanks s 16 b) := by
  refine ⟨⟨drives _ _ (by decide), ?_⟩, ⟨?_, ?_, ?_⟩, ?_, fun b hb => ?_⟩
  rotate_right
  · obtain ⟨h1, h2, h3⟩ := hb
    have h : ∀ j, j < 8 → (driving .x fun c => { c with mx := { held := 0x80808080808080808080808080808080 } }).core.mx.held.getLsbD (16 * j + 7) = true := by
      decide +kernel
    have h4 := h3 7 (by decide)
    have h5 := h (b / 16) (by omega)
    rw [show 16 * (b / 16) + 7 = b + 7 by omega] at h5
    rw [h5] at h4
    cases h4
  all_goals first | decide +kernel | (unfold freeBanks; decide +kernel)

theorem witness_ScalarSlotWritesItsRegister :
    (let s := driving .x fun c => { c with q := { qs := [(1, [4, 5])], qx := [(0, List.replicate 15 0)] } }
     ScalarReady s ⟨1, 95⟩ 31 ∧ (∀ c ∈ clustersOf s.strmNo, s.core.q.hs.get 0 (4 * 1 + c) < (s.core.q.qs.get [] 1).length) ∧ s.strmNo = .x ∧
     (∀ c, c < 4 → s.core.q.hs.get 0 (4 * 1 + c) = 0) ∧ (s.core.q.qx.get [] 0).length < 16) ∧
    ScalarReady (driving (.xc 3) id) .none 0 := by
  refine ⟨⟨⟨slotReady_of ?_ (drives _ _ ?_), ?_, ?_⟩, ?_⟩, ⟨slotReady_of ?_ (drives _ _ ?_), ?_, ?_⟩⟩
  case refine_4 => intro l h; cases h
  case refine_9 => intro l h; cases h
  all_goals decide +kernel

theorem witness_ControlWordsMoveTheStream :
    (let s := driving .x fun c => { c with lc := [(7, 1)], loops := [(1, List.replicate 3 ⟨0, 255, 0, false, 0, [], 1, 0⟩)] }
     s.cur = .strm 0 .x ∧ (Strm.x ≠ .a ∧ Strm.x ≠ .z) ∧ s.loopsNow.length < 4 ∧ s.pastBody (s.pc.toNat + 8 * 255) = false ∧
     s.core.lc.get 0 7 ≠ 0 ∧ s.core.lc.get 0 0 = 0 ∧ (0 < 255 ∧ 255 < 2 ^ 32)) ∧
    (let s := driving .x id
     s.pastBody (s.pc.toNat + 8) = false ∧ s.nextIsControl = false ∧ s.loopsNow = [] ∧ s.core.forked = false) := by
  decide +kernel

theorem witness_ControlWordsMoveTheStream_forked :
    (let s := driving (.xc 3) fun c => { c with strm := (List.range 4).map fun i => (2 + i, { st := .running, wait := if i = 3 then none else some .join }) }
     s.loopsNow = [] ∧ s.core.forked = true ∧ ∀ i, i < 4 → i ≠ s.xCluster → (s.core.strmAt (.xc i)).wait = some .join) ∧
    (let s := driving (.xc 3) id
     s.loopsNow = [] ∧ s.core.forked = true ∧ ∃ i, i < 4 ∧ i ≠ s.xCluster ∧ (s.core.strmAt (.xc i)).wait ≠ some .join) ∧
    (let s := driving .x fun c => { c with sb := 0x81 }
     noneWaits s ∧ syncMet s.core.sb 0x80 true ∧ syncMet s.core.sb 0x7E false ∧ ¬ syncMet s.core.sb 0xFF true ∧ ¬ syncMet s.core.sb 0x81 false) ∧
    noneWaits (driving (.xc 3) id) ∧
    (let s := driving (.xc 3) fun c => { c with sb := 1, strm := (4, { st := .running, wait := some (.sync 0x81 true true) }) :: c.strm }
     s.core.forked = true ∧ (2 < 4 ∧ Strm.xc 3 ≠ .xc 2) ∧ syncWaits s.core 2 0x81 true true ∧ syncMet (syncBits s.core.sb 0x80 0x7E) 0x81 true ∧
     (∀ j n h u, j < 4 → j ≠ 2 → Strm.xc 3 ≠ .xc j → ¬ syncWaits s.core j n h u) ∧ s.core.loops.get [] (Strm.xc 2).code = []) := by
  refine ⟨?_, ⟨?_, ?_, ⟨0, ?_⟩⟩, ⟨fun h => (by cases h), ?_⟩, fun h i m high take hi hn ⟨hs, _⟩ => ?_,
    ⟨?_, ?_, ?_, ?_, fun j n h u hj hn hs ⟨hr, _⟩ => ?_, ?_⟩⟩
  case refine_6 =>
    have h : ∀ i, i < 4 → i ≠ 3 → ((driving (.xc 3) id).core.strmAt (.xc i)).st ≠ .running := by decide +kernel
    exact h i hi (fun e => hn (by rw [e]; rfl)) hs
  case refine_11 =>
    have h : ∀ i, i < 4 → i ≠ 3 → i ≠ 2 → ((driving (.xc 3) fun c => { c with sb := 1, strm := (4, { st := .running, wait := some (.sync 0x81 true true) }) :: c.strm }).core.strmAt (.xc i)).st ≠ .running := by
      decide +kernel
    exact h j hj (fun e => hs (by rw [e])) hn hr
  all_goals first | decide +kernel | (unfold syncMet; decide +kernel) | (unfold syncWaits; decide +kernel)

/-- The last eight rows of array 3 are the active region of the Z-stream that acts; its handle is 1. -/
def region : Region := { v := true, gen := 1, arr := 3, first := 1023 }

def arrayed (r : Region) (f : Core → Core) : State :=
  { withCore fun c => f { c with
      task := some { lrec := [(11, 0x800000000), (12, 0x10000)] }, strm := [(6, { st := .running })]
      regs := [(0, r)], z := { act := [(3, 1)], y := [(0, 1)] } } with cur := .strm 0 .z }

theorem active_of {s : State} {r : Region} (h : s.core.z.act.get 0 3 = 1 ∧ s.core.regionOf? s.coreNo (s.coreCtx s.coreNo) 1 = some r ∧
    r.len < 1024 ∧ s.core.badRow = []) (hs : ∃ c, s.cur = .strm c .z) : ArrayActive s 3 1 r :=
  ⟨hs, ⟨h.1, by decide⟩, h.2.1, h.2.2.1, h.2.2.2⟩

theorem witness_ArrayComparesTagTheRows :
    (let s := arrayed region id
     (∃ c, s.cur = .strm c .z) ∧ s.core.regionOf? s.coreNo (s.coreCtx s.coreNo) (s.core.z.y.get 0 0).toNat = some region ∧
     (s.core.z.used.map Prod.snd).sum + regionRows region ≤ (s.core.task.getD {}).nrows ∧ ArrayActive s 3 1 region) ∧
    (let s := arrayed region fun c => { c with z := { c.z with used := [(1, 8)] } }
     (∃ u ∈ s.core.z.used, u.1 = (s.core.z.y.get 0 0).toNat)) ∧
    (let s := arrayed { region with first := 0, len := 1023 } id; ArrayActive s 3 1 { region with first := 0, len := 1023 }) := by
  refine ⟨⟨⟨0, rfl⟩, ?_, ?_, active_of ?_ ⟨0, rfl⟩⟩, ?_, active_of ?_ ⟨0, rfl⟩⟩ <;> decide +kernel

theorem witness_FieldOperationsActOnTheRows :
    (let s := arrayed region fun c => { c with z := { c.z with latch := some (0, 160) } }
     ArrayActive s 3 1 region ∧ 0 + 319 < 320 ∧ 160 + 159 < 320 ∧ s.core.z.latch = some (0, 159 + 1) ∧
     ¬ (0 < 160 + (159 + 1) ∧ 160 < 0 + (159 + 1))) ∧
    (let s := arrayed region fun c => { c with z := { c.z with latch := some (0, 64) } }
     ArrayActive s 3 1 region ∧ 0 < 64 ∧ 128 + 3 * 64 ≤ 320 ∧ s.core.z.latch = some (0, 64) ∧ ¬ (0 < 128 + 2 * 64 ∧ 128 < 0 + 64)) ∧
    (let s := arrayed region fun c => { c with z := { c.z with latch := some (0, 320) } }
     ArrayActive s 3 1 region ∧ 0 + 319 < 320 ∧ s.core.z.latch = some (0, 319 + 1)) := by
  refine ⟨⟨active_of ?_ ⟨0, rfl⟩, ?_⟩, ⟨active_of ?_ ⟨0, rfl⟩, ?_⟩, ⟨active_of ?_ ⟨0, rfl⟩, ?_⟩⟩ <;> decide +kernel

/-- The parameters of a `zsel` in y8 to y15: budget 1,024, output at 0x100, the list given. -/
def selecting (list : Lane) (rcnt : Nat) : State :=
  arrayed { region with rcnt := rcnt } fun c => { c with z := { c.z with y := [(12, 1024), (13, 0x100), (14, list)] } }

theorem selectable_of {s : State} {a : Nat} (h : (yNat s (a + 1) / 2 ^ 24 = 0 ∧ yNat s (a + 2) / 2 ^ 24 = 0 ∧ yNat s (a + 3) / 2 ^ 24 = 0 ∧
      yNat s (a + 7) = 0) ∧ yNat s (a + 4) ≤ 1024 ∧ (yNat s (a + 5) % 4 = 0 ∧ s.core.spadCheck (yNat s (a + 5))
        (4 * (1 + yNat s (a + 1) / 2 ^ 8 % 256 + yNat s (a + 1) / 2 ^ 16 % 256 + yNat s (a + 4))) 4 = none) ∧
    (yNat s (a + 6) ≠ 2 ^ 32 - 1 → yNat s (a + 6) % 8 = 0 ∧ s.core.spadCheck (yNat s (a + 6)) 8 8 = none ∧
      leNat (s.core.sbytes (yNat s (a + 6) + 4) 4) ≤ 1024 ∧
      s.core.spadCheck (yNat s (a + 6)) (8 + 8 * leNat (s.core.sbytes (yNat s (a + 6) + 4) 4)) 8 = none)) : Selectable s a :=
  ⟨h.1, h.2.1, h.2.2.1, h.2.2.2⟩

theorem witness_ScoresAgesAndSelectionAreWritten :
    (ArrayActive (selecting 0x2000 0) 3 1 region ∧ Selectable (selecting 0x2000 0) 8 ∧
      leNat ((selecting 0x2000 0).core.sbytes (yNat (selecting 0x2000 0) (8 + 6)) 4) = region.rcnt) ∧
    (Selectable (selecting 0xFFFFFFFF 0) 8 ∧ yNat (selecting 0xFFFFFFFF 0) (8 + 6) = 2 ^ 32 - 1) ∧
    (ArrayActive (selecting 0x2000 1) 3 1 { region with rcnt := 1 } ∧ Selectable (selecting 0x2000 1) 8 ∧
      yNat (selecting 0x2000 1) (8 + 6) ≠ 2 ^ 32 - 1 ∧ leNat ((selecting 0x2000 1).core.sbytes (yNat (selecting 0x2000 1) (8 + 6)) 4) ≠ 1) := by
  refine ⟨⟨active_of ?_ ⟨0, rfl⟩, selectable_of ?_, ?_⟩, ⟨selectable_of ?_, ?_⟩, active_of ?_ ⟨0, rfl⟩, selectable_of ?_, ?_⟩ <;> decide +kernel

/-- Rows 8184 to 8191 of array 3: all valid, or with row 7 of the region free. -/
def rowsState (r : Region) (full : Bool) (sp : List Spill) : State :=
  { arrayed r fun c => { c with
      rows := (List.range (if full then 8 else 7)).map fun i => (32760 + i, BitVec.ofNat 320 (2 ^ 318))
      z := { c.z with tags := [(24, 255)] } } with spills := sp }

theorem isVictim_first {s : State} {r : Region} {on : Nat → Bool} (hr : regionRows r = 8) (h0 : spillable s r on 0)
    (h : ∀ j, j < 8 → j ≠ 0 → fieldOf (rowOf s r j) 313 4 < fieldOf (rowOf s r 0) 313 4 ∨
      (fieldOf (rowOf s r j) 313 4 = fieldOf (rowOf s r 0) 313 4 ∧ (fieldOf (rowOf s r 0) 256 24 < fieldOf (rowOf s r j) 256 24 ∨
        (fieldOf (rowOf s r 0) 256 24 = fieldOf (rowOf s r j) 256 24 ∧ 0 < j)))) : isVictim s r on 0 :=
  ⟨h0, fun j hj hn => h j (hr ▸ hj.1) hn⟩

theorem witness_RowsAreInsertedDeletedAndSpilled :
    (let s := rowsState region false []
     ArrayActive s 3 1 region ∧ 7 < regionRows region ∧ freeRow (rowOf s region 7) = true ∧ (∀ j, j < 7 → freeRow (rowOf s region j) = false)) ∧
    (let s := rowsState region true []
     ArrayActive s 3 1 region ∧ (∀ i, i < regionRows region → freeRow (rowOf s region i) = false ∧ (rowOf s region i).getLsbD 319 = false) ∧
     region.bind.getLsbD 0 = false) ∧
    (∀ e, acknowledged (rowsState region true []) region fun i => tagOf (rowsState region true []) 3 e i) ∧
    (let r := { region with bind := 1 }
     let s := rowsState r true []
     ArrayActive s 3 1 r ∧ (∀ j, j < regionRows r → freeRow (rowOf s r j) = false ∧ (rowOf s r j).getLsbD 319 = false) ∧
     r.bind.getLsbD 0 = true ∧ isVictim s r (fun _ => true) 0 ∧ isVictim s r (fun j => tagOf s 3 0 j) 0 ∧
     ∀ i, ¬ spillable s r (fun j => tagOf s 3 1 j) i) := by
  refine ⟨⟨active_of ?_ ⟨0, rfl⟩, ?_⟩, ⟨active_of ?_ ⟨0, rfl⟩, ?_⟩, fun e i hi h1 h2 p hp => (by cases hp), ⟨active_of ?_ ⟨0, rfl⟩, ?_, ?_,
    isVictim_first ?_ ?_ ?_, isVictim_first ?_ ?_ ?_, fun i hi => ?_⟩⟩
  case refine_14 =>
    have h : ∀ i, i < 8 → tagOf (rowsState { region with bind := 1 } true []) 3 1 i = false := by decide +kernel
    exact Bool.noConfusion ((h i hi.1).symm.trans hi.2.1)
  all_goals first | decide +kernel | (unfold spillable; decide +kernel)

theorem witness_KeysScalarsAndBranchesComplete :
    (arrayed region id).cur = .strm 0 .z ∧
    (let s := arrayed region fun c => { c with q := { qz0 := [3], qz1 := [9], qy0 := List.replicate 15 1 } }
     s.core.q.qz0 = 3 :: [] ∧ s.core.q.qy0.length < 16 ∧ s.core.q.qz1 = 9 :: []) := by
  decide +kernel

theorem atWork_of {s : State} {c : Nat} (h : s.halted = false ∧ (s.coreAt c).task.isSome = true ∧ (s.coreAt c).frozen = none) : AtWork s c :=
  ⟨h.1, h.2.1, h.2.2⟩

/-- A core with the matrix commands and the state of tile 15 given. -/
def matrixState (q : List MCmd) (t : TileSt) : State := withCore fun c => { c with mx := { mq := q, tst := [(15, t)] } }

theorem witness_MatrixEventsTakeEffect :
    (∀ q ∈ [[], [MCmd.mma 0 9 1 15 112 0 true 127], [.tfree 15], [.accrd 4 12 59 126 4], [.acczero 112 16]], ∀ t ∈ [TileSt.loading 0 (some 8192), .full],
      AtWork (matrixState q t) 0 ∧ ((matrixState q t).coreAt 0).mx.wait = [] ∧ ((matrixState q t).coreAt 0).mx.tileSt 15 = t ∧
      ((matrixState q t).coreAt 0).mx.mq = q) := by
  intro q hq t ht
  simp only [List.mem_cons, List.not_mem_nil, or_false] at hq ht
  rcases hq with rfl | rfl | rfl | rfl | rfl <;> rcases ht with rfl | rfl <;>
    exact ⟨atWork_of (by decide +kernel), by decide +kernel, by decide +kernel, by decide +kernel⟩

/-- A core whose engine slot 63 holds a command. -/
def engine (cmd : Cmd) : State :=
  withCore fun c => { c with
    task := some { lrec := [(12, 0x10000)] }, eng := [(63, { gen := 1, st := .flight, cmd := some cmd })]
    mx := { held := 0xFFFF0000000000000000000000000000, mq := List.replicate 15 (.tfree 0), wait := [63], tst := [(8, .filling 63)] } }

theorem witness_EngineEventsTakeEffect :
    (let s := withCore fun c => { c with q := { qv := [(3, [{ ready := true }, { ready := false }, { ready := false }])] } }
     AtWork s 0 ∧ (s.coreAt 0).q.qv.get [] 3 = [{ ready := true }] ++ { ready := false } :: [{ ready := false }]) ∧
    (∀ kind ∈ [0, 1, 2, 3], let cmd : Cmd := { kind := kind, scope := 0, src := inMemory, dst := inBank, landed := true }
      AtWork (engine cmd) 0 ∧ ((engine cmd).eslot 0 63).cmd = some cmd ∧ rRel cmd.flags = false ∧ cmd.bad = false) ∧
    (∀ dst ∈ [inBank, inTile.set 1 8, [0x0400000000000000]], let cmd : Cmd := { kind := 0, scope := 0, src := inBank, dst := dst, begun := true }
      AtWork (engine cmd) 0 ∧ ((engine cmd).eslot 0 63).cmd = some cmd ∧ rRel cmd.flags = false ∧ rSpace cmd.src = 1 ∧ cmd.dstSpace ≠ 0 ∧
      rAcq cmd.src = false ∧ rChk cmd.flags = false ∧ ((engine cmd).coreAt 0).earlierDraw cmd.no = false ∧
      ((engine cmd).coreAt 0).queued 63 cmd.no = false) ∧
    (∀ t ∈ [8, 9], let cmd : Cmd := { kind := 4, scope := 0, src := inBank, dst := inTile.set 0 (BitVec.ofNat 64 (2 ^ 57 + t)) }
      AtWork (engine cmd) 0 ∧ ((engine cmd).eslot 0 63).cmd = some cmd ∧ cmd.dstSpace = 2 ∧ rRel cmd.flags = false ∧
      (((engine cmd).coreAt 0).mx.tileSt (rBase cmd.dst) = if t = 8 then .filling 63 else .empty)) ∧
    (∀ b, let cmd : Cmd := { kind := 4, scope := 0, src := inBank, dst := inTile, landed := true, bad := b, desc := 0x0900007000000000 }
     AtWork (engine cmd) 0 ∧ ((engine cmd).eslot 0 63).cmd = some cmd ∧ rRel cmd.flags = false ∧
     ((engine cmd).coreAt 0).mx.wait = [63] ∧ ((engine cmd).coreAt 0).mx.mq.length < 16) := by
  refine ⟨⟨atWork_of (by decide +kernel), by decide +kernel⟩, fun k hk => ?_, fun d hd => ?_, fun t ht => ?_,
    fun b => (by cases b <;> exact ⟨atWork_of (by decide +kernel), by decide +kernel⟩)⟩
  · simp only [List.mem_cons, List.not_mem_nil, or_false] at hk
    rcases hk with rfl | rfl | rfl | rfl <;> exact ⟨atWork_of (by decide +kernel), by decide +kernel⟩
  · simp only [List.mem_cons, List.not_mem_nil, or_false] at hd
    rcases hd with rfl | rfl | rfl <;> exact ⟨atWork_of (by decide +kernel), by decide +kernel⟩
  · simp only [List.mem_cons, List.not_mem_nil, or_false] at ht
    rcases ht with rfl | rfl <;> exact ⟨atWork_of (by decide +kernel), by decide +kernel⟩

theorem witness_EngineEventsTakeEffect_searches :
    (let cmd : Cmd := { kind := 5, scope := 0, src := [0x100000001, 0, 0, 1024], su := 47 }
     let s := { engine cmd with debt := [(11, 7)] }
     AtWork s 0 ∧ (s.eslot 0 63).cmd = some cmd ∧ s.scanReady 0 cmd = true ∧ (s.seqrAt cmd.su).resetting = false ∧ s.debt.get 0 (cmd.su / 4) < 8) ∧
    (let cmd : Cmd := { kind := 5, scope := 0, src := [1, 0, 0, 1024], su := 47, found := some [(256, 3)] }
     AtWork (engine cmd) 0 ∧ ((engine cmd).eslot 0 63).cmd = some cmd ∧ ((engine cmd).coreAt 0).stLine = []) ∧
    (let p : Spill := ⟨0, 127, 1, 0, 1, 4032, 0, 47, 0⟩
     let s := { base with spills := [p] }
     s.spills.find? (fun p => decide (p.core = 0) && decide (p.ent = 127)) = some p ∧ (s.seqrAt p.su).resetting = false ∧
     Mapped s p.ctx p.ia 64 page 4032 ∧ noSlots s p.ctx) := by
  refine ⟨⟨atWork_of (by decide +kernel), by decide +kernel⟩, ⟨atWork_of (by decide +kernel), by decide +kernel⟩, by decide +kernel, by decide +kernel,
    ((plain_of (q := base.req) (va := 4032) (p := {}) (by decide +kernel) (by decide +kernel)).toMapped), by unfold noSlots; decide +kernel⟩

/-- `base` with a command in engine slot 63 of its core and a scratchpad. -/
def mover (spad : Sparse Byte) (cmd : Cmd) : State :=
  withCore fun c => { c with
    task := some { lrec := [(12, 0x10000)] }, eng := [(63, { gen := 1, st := .flight, cmd := some cmd })], spad := spad }

/-- `InPage` as far as it can be evaluated, for a page of `base`'s memory whose addresses are their own keys. -/
def inPageB (s : State) (q : Req) (r : Layout) (list : Option (Nat → Int)) (w : Nat) (p : Perm) : Bool :=
  (List.range (rCount r)).all fun e =>
    let a := elementAddress r list w e
    plainB s { q with ag := 0 } a w p a page a && decide (page.page a = 0) &&
    (List.range (rCount r)).all fun d => (tableWords s (elementAddress r list w d)).all fun x => decide (x + 8 ≤ a ∨ a + w ≤ x)

theorem inPage_of {s : State} {q : Req} {r : Layout} {list : Option (Nat → Int)} {w : Nat} {p : Perm} (h : inPageB s q r list w p = true)
    (hs : s.cores.all (fun c => decide (c.2.stLine = [])) = true) :
    InPage s q r list w p (elementAddress r list w) (elementAddress r list w) page := by
  simp only [inPageB, List.all_eq_true, List.mem_range, Bool.and_eq_true, decide_eq_true_eq] at h
  refine ⟨fun e he _ => ?_, fun e d he hd => (h e he).1.2.trans (h d hd).1.2.symm, fun e d he hd x hx => (h e he).2 d hd x hx⟩
  have hp := plain_of (h e he).1.1 hs
  exact ⟨hp.toMapped, hp.xlate, hp.window⟩

/-- `Moving` as far as it can be evaluated. -/
theorem moving_of {s : State} {c slot : Nat} {cmd : Cmd} {w : Nat} {f : EFmt} (hf : cFmtOf cmd.fs = .plain f ∧ f.width = 8 * w ∧ 0 < w)
    (h : s.halted = false ∧ (s.coreAt c).task.isSome = true ∧ (s.coreAt c).frozen = none ∧
      ((s.eslot c slot).cmd = some cmd ∧ cmd.landed = false ∧ cmd.begun = false) ∧
      (rRank cmd.src ≤ 5 ∧ rRank cmd.dst ≤ 5 ∧ cmd.dst ≠ [] ∧ rCount cmd.src = rCount cmd.dst ∧ rSize cmd.src 0 = rSize cmd.dst 0) ∧
      (rAcq cmd.src = false ∧ rRel cmd.dst = false ∧ rChk cmd.dst = false) ∧
      (s.coreAt c).ecc.spad = [] ∧ (s.coreAt c).held = [] ∧ s.pend = []) (hs : noSlots s (s.coreCtx c)) : Moving s c slot cmd w :=
  ⟨⟨h.1, h.2.1, h.2.2.1⟩, h.2.2.2.1, ⟨f, hf⟩, h.2.2.2.2.1, h.2.2.2.2.2.1, h.2.2.2.2.2.2.1, h.2.2.2.2.2.2.2.1, h.2.2.2.2.2.2.2.2, hs⟩

/-- The index list 9 (beyond the extent of 8), 3 of a gather and 3, 3 of a scatter, at 0x100 of the scratchpad. -/
def gatherList : Sparse Byte := Sparse.setBytes [] 0x100 (leBytes 8 0x300000009)
def scatterList : Sparse Byte := Sparse.setBytes [] 0x100 (leBytes 8 0x300000003)

def reading (kind : Nat) : Cmd :=
  if kind = 0 then { kind := 0, scope := 0, win := (base.ctxAt 0).sr, src := inMemory, dst := inBank, fs := 8, fd := 8 }
  else { kind := 1, scope := 0, win := (base.ctxAt 0).sr, src := rowsInMemory, dst := rowsInBank, fs := 8, fd := 8 }

def writing (kind : Nat) : Cmd :=
  if kind = 0 then { kind := 0, scope := 0, win := (base.ctxAt 0).sr, src := inBank, dst := inMemory, fs := 8, fd := 8 }
  else { kind := 2, scope := 0, win := (base.ctxAt 0).sr, src := rowsInBank, dst := rowsInMemory, fs := 8, fd := 8 }

/-- `rcopy` of 16 elements of a format from memory at 0 to memory at 0x400 in a format. -/
def rotating (f g : Nat) : Cmd :=
  { kind := 3, scope := 0, win := (base.ctxAt 0).sr, src := inMemory.set 1 (BitVec.ofNat 64 f), dst := (inMemory.set 0 0x400).set 1 (BitVec.ofNat 64 g), fs := f, fd := g }

theorem witness_CopiesMoveTheirElements_reads :
    (let s := mover [] (reading 0)
     Moving s 0 63 (reading 0) 4 ∧ InPage s (s.engReq 0 63 (reading 0)) inMemory none 4 { r := true } (elementAddress inMemory none 4)
       (elementAddress inMemory none 4) page ∧
     ∀ e, e < 16 → ∀ d, d < 16 → e ≠ d → elementPlace inBank 4 e + 4 ≤ elementPlace inBank 4 d ∨ elementPlace inBank 4 d + 4 ≤ elementPlace inBank 4 e) ∧
    (let s := mover gatherList (reading 1)
     let list := some (listEntry (s.coreAt 0) rowsInMemory)
     Moving s 0 63 (reading 1) 4 ∧ InPage s (s.engReq 0 63 (reading 1)) rowsInMemory list 4 { r := true } (elementAddress rowsInMemory list 4)
       (elementAddress rowsInMemory list 4) page ∧ rFill rowsInMemory = 0 ∧ ¬ inside rowsInMemory list 0 ∧ inside rowsInMemory list 8 ∧
     ∀ e, e < 16 → ∀ d, d < 16 → e ≠ d →
       elementPlace rowsInBank 4 e + 4 ≤ elementPlace rowsInBank 4 d ∨ elementPlace rowsInBank 4 d + 4 ≤ elementPlace rowsInBank 4 e) := by
  refine ⟨⟨moving_of (f := .flt fp32) ?_ ?_ ?_, inPage_of ?_ ?_, ?_⟩, ⟨moving_of (f := .flt fp32) ?_ ?_ ?_, inPage_of ?_ ?_, ?_, ?_, ?_, ?_⟩⟩
  case refine_3 => unfold noSlots; decide +kernel
  case refine_9 => unfold noSlots; decide +kernel
  case refine_13 => unfold inside; decide +kernel
  case refine_14 => unfold inside; decide +kernel
  all_goals decide +kernel

theorem witness_CopiesMoveTheirElements_writes :
    (let s := mover [] (writing 0)
     Moving s 0 63 (writing 0) 4 ∧ InPage s (s.engReq 0 63 (writing 0)) inMemory none 4 { w := true } (elementAddress inMemory none 4)
       (elementAddress inMemory none 4) page ∧
     ∀ e, e < 16 → ∀ d, d < 16 → e ≠ d →
       elementAddress inMemory none 4 e + 4 ≤ elementAddress inMemory none 4 d ∨ elementAddress inMemory none 4 d + 4 ≤ elementAddress inMemory none 4 e) ∧
    (let s := mover scatterList (writing 2)
     let list := some (listEntry (s.coreAt 0) rowsInMemory)
     let a := elementAddress rowsInMemory list 4
     Moving s 0 63 (writing 2) 4 ∧ InPage s (s.engReq 0 63 (writing 2)) rowsInMemory list 4 { w := true } a a page ∧
     (writing 2).kind = 2 ∧ inside rowsInMemory list 0 ∧ inside rowsInMemory list 8 ∧ a 0 = a 8 ∧
     ∀ e, e < 16 → ∀ d, d < 16 → e ≠ d → a e + 4 ≤ a d ∨ a d + 4 ≤ a e ∨ (a e = a d ∧ rIdx rowsInMemory e 1 ≠ rIdx rowsInMemory d 1)) := by
  refine ⟨⟨moving_of (f := .flt fp32) ?_ ?_ ?_, inPage_of ?_ ?_, ?_⟩, ⟨moving_of (f := .flt fp32) ?_ ?_ ?_, inPage_of ?_ ?_, ?_, ?_, ?_, ?_, ?_⟩⟩
  case refine_3 => unfold noSlots; decide +kernel
  case refine_9 => unfold noSlots; decide +kernel
  case refine_13 => unfold inside; decide +kernel
  case refine_14 => unfold inside; decide +kernel
  all_goals decide +kernel

theorem witness_CopiesMoveTheirElements_rotations :
    ∀ F ∈ [(8, fp32, 4), (9, bf16, 2), (10, fp16, 2)], ∀ G ∈ [(8, fp32, 4), (9, bf16, 2), (10, fp16, 2)],
      let cmd := rotating F.1 G.1
      let s := mover [] cmd
      let a := elementAddress cmd.src none F.2.2
      let b := elementAddress cmd.dst none G.2.2
      Moving s 0 63 cmd F.2.2 ∧ (∀ e, e < 16 → inside cmd.src none e ∧ inside cmd.dst none e) ∧ (s.coreAt 0).earlierDraw cmd.no = false ∧
      InPage s (s.engReq 0 63 cmd) cmd.src none F.2.2 { r := true } a a page ∧
      InPage s (s.engReq 0 63 cmd) cmd.dst none G.2.2 { w := true } b b page ∧
      ∀ e, e < 16 → ∀ d, d < 16 → e ≠ d → b e + G.2.2 ≤ b d ∨ b d + G.2.2 ≤ b e := by
  intro F hF G hG
  simp only [List.mem_cons, List.not_mem_nil, or_false] at hF hG
  rcases hF with rfl | rfl | rfl <;> rcases hG with rfl | rfl | rfl <;>
    exact ⟨moving_of (f := .flt _) ⟨rfl, by decide +kernel, by decide⟩ (by decide +kernel) (by unfold noSlots; decide +kernel),
      by unfold inside; decide +kernel, by decide +kernel, inPage_of (by decide +kernel) (by decide +kernel),
      inPage_of (by decide +kernel) (by decide +kernel), by decide +kernel⟩

theorem witness_MemoryEventsAndAccessesTakeEffect :
    (let s := { base with pend := [⟨1, 1, 1, 0, 0, [1], 0, 1, 1⟩, ⟨0, 1, 0, 0, 4095, [7], 0, 2, 1⟩, ⟨0, 1, 0, 0, 0, [], 3, 3, 1⟩] }
     s.live ∧ s.pend[1]? = some ⟨0, 1, 0, 0, 4095, [7], 0, 2, 1⟩ ∧ mayPerform (s.pend.take 1) ⟨0, 1, 0, 0, 4095, [7], 0, 2, 1⟩ = true ∧
     Mapped s 0 4095 1 page 4095 ∧ noSlots s 0) ∧
    (let s := { base with pend := [⟨0, 1, 0, 0, 0, [], 3, 3, 1⟩] }
     s.pend[0]? = some ⟨0, 1, 0, 0, 0, [], 3, 3, 1⟩ ∧ mayPerform (s.pend.take 0) ⟨0, 1, 0, 0, 0, [], 3, 3, 1⟩ = true) ∧
    (base.irqDue = [] ∧ ({ idleNote base with remote := base.remote.eraseIdx 0 } : State).deviceOwes = false ∧
      (({ base with irqDue := [(0, 3)] } : State).irqDue = [(0, 3)] ∧
        ({ idleNote { base with irqDue := [(0, 3)] } with remote := [] } : State).deviceOwes = false)) ∧
    (∀ d, let s := withCore fun c => { c with stLine := [(1024, some ⟨128, d⟩)] }
     s.live ∧ (s.coreAt 0).stLine.get none 1024 = some ⟨128, d⟩ ∧ 128 % 128 = 0 ∧ Homed s 0 128 128 page 128 ∧ (s.coreAt 0).ecc.spad = []) := by
  refine ⟨⟨by unfold State.live; decide +kernel, by decide +kernel, by decide +kernel,
    (plain_of (q := { base.req with ag := 4096 }) (va := 4095) (p := {}) (by decide +kernel) (by decide +kernel)).toMapped, by unfold noSlots; decide +kernel⟩,
    by decide +kernel, by decide +kernel, fun d => ?_⟩
  cases d <;> refine ⟨by unfold State.live; decide +kernel, by decide +kernel, by decide, ?_, by decide +kernel⟩ <;> constructor <;> decide +kernel

/-- `base` with a frame table of its own of one entry, whose words are given, at time 20 ms. -/
def entryState (e0 e1 : Word) : State :=
  { base with
    mem := Sparse.setBytes [(0x10002, 0x80), (0x10007, 0x80)] 0x800000 (leBytes 8 e0.toNat ++ leBytes 8 e1.toNat), dtime := 20000000 }

theorem witness_MemoryEventsAndAccessesTakeEffect_walks :
    (∀ e0 ∈ [(0x8000780000000000 : Word), 0x8000000000000000], let s := entryState e0 0; let e : Entry := ⟨0x800000, e0, 0⟩
      s.live ∧ s.peerWin? 0 0 = none ∧ s.entry? 0 = some e ∧ s.walkBad? 0 = none ∧ e.absent = false ∧ e.ctx = 0 ∧
      s.pages = [(0, e)]) ∧
    (let s := entryState 0 0; let e : Entry := ⟨0x800000, 0, 0⟩
     s.peerWin? 0 0 = none ∧ s.entry? 0 = some e ∧ e.absent = true ∧ (∀ p ∈ s.episodes, p.page ≠ e.page 0) ∧
     (⟨0, 0, 1, 1, 0, false⟩ : Episode).page = e.page 0) ∧
    (∀ e0 tier frame, (e0 = 0x8000000000000000 ∧ tier = 2 ∧ frame = 0) ∨ (e0 = 0x9000600000000000 ∧ tier = 0 ∧ frame = 4096) →
      let s := { entryState e0 0 with cores := [] }; let e : Entry := ⟨0x800000, e0, 0⟩
      s.entry? 0 = some e ∧ s.movable e tier (frame * 65536) = true ∧ s.wantsMove 0 e tier s.fresh = true ∧ s.pend = [] ∧ bit e.e0 53 = false ∧
      s.badIn (physKey e.tier e.frame) e.size = false ∧ s.episodes = [] ∧ ownKey s e 0 ∧ ∀ h, s.hinted e.ctx (e.page 0) e.size h = false) ∧
    (let s := entryState 0x8800000000000000 0; let e : Entry := ⟨0x800000, 0x8800000000000000, 0⟩
     s.entry? 0 = some e ∧ s.wantsMove 0 e 1 s.fresh = false ∧ s.sweeps = 0 ∧ 1000000 * (s.sweeps + 1) ≤ s.dtime) ∧
    ({ base with dtime := 999999 } : State).dtime < 1000000 * (({ base with dtime := 999999 } : State).sweeps + 1) := by
  refine ⟨fun e0 he => ?_, by decide +kernel, fun e0 tier frame h => ?_, by decide +kernel, by decide +kernel⟩
  · simp only [List.mem_cons, List.not_mem_nil, or_false] at he
    rcases he with rfl | rfl <;> exact ⟨by unfold State.live; decide +kernel, by decide +kernel⟩
  · rcases h with ⟨rfl, rfl, rfl⟩ | ⟨rfl, rfl, rfl⟩ <;>
      exact ⟨by decide +kernel, by decide +kernel, by decide +kernel, by decide +kernel, by decide +kernel, by decide +kernel,
        by decide +kernel, fun i _ => .inl rfl, fun h => rfl⟩

theorem witness_MemoryEventsAndAccessesTakeEffect_rest :
    (∀ x ∈ [(0x100000000, 4096, 0, 2, 2), (0x200000000, 4097, 2049, 0, 0)],
      let s := { withCore fun c => { c with task := some { lva := 0x100, lrec := [(30, x.1)], launch := 7 } } with ranges := [(379, x.2)] }
      s.live ∧ (∃ t, (s.coreAt 0).task = some t ∧ t.ctx = 0 ∧ t.lva = 0x100 ∧ t.w (26 + 2 * 2) ≠ 0 ∧
        rangeContradicts (bf (t.w (26 + 2 * 2)) 35 32) (s.ranges.get (0, 0, 0, 0) (16 * (3 * t.launch + 2) + 11)))) ∧
    (∀ k, (base.ranges.get (0, 0, 0, 0) k).1 < 4096) ∧
    (let s := { base with qepoch := 5, dtime := 40000, pend := [⟨0, 1, 0, 0, 0, [], 3, 3, 4⟩], quar := [⟨0, 0, false, 0⟩, ⟨1, 65536, false, 3⟩, ⟨1, 0, false, 1⟩] }
     s.quar = [⟨0, 0, false, 0⟩] ++ ⟨1, 65536, false, 3⟩ :: [⟨1, 0, false, 1⟩] ∧ (∀ x ∈ [(⟨0, 0, false, 0⟩ : Quar)], x.tier ≠ 1) ∧
     0 < s.qepoch ∧ (∀ p ∈ s.pend, 0 < p.epoch) ∧ s.qdone = 3) ∧
    ({ base with debt := [(11, 8)] } : State).debt.get 0 11 = 8 := by
  refine ⟨fun x hx => ?_, fun k => (by decide : 0 < 4096), by decide +kernel, by decide +kernel⟩
  simp only [List.mem_cons, List.not_mem_nil, or_false] at hx
  rcases hx with rfl | rfl <;>
    exact ⟨by unfold State.live; decide +kernel, _, rfl, by decide +kernel, by decide +kernel, by decide +kernel,
      by unfold rangeContradicts; decide +kernel⟩

/-- `base` whose context 0 names port 7 in `pcfg`, at dtime 50. -/
def outside : State :=
  { base with ctxs := [(0, { sr := [(257, 0x10000), (259, 0xF), (389, 0x80)] })], dtime := 50, tier := 2 }

theorem witness_OutsideRequestsComplete :
    (outside.halted = false ∧ (isFunction outside 0 ∧ isFunction { outside with numVfs := 63 } 63) ∧ 3968 + 128 ≤ 2 ^ 36 ∧ onePiece outside (outside.bar2 0 3968) 128 ∧ onePiece { outside with pend := [⟨0, 1, 0, 0, 0, [], 3, 3, 4⟩] } 4088 8 ∧ noSlots outside 0 ∧
      Plain outside (outside.hostReq 0) (outside.bar2 0 3968) 128 { r := true } 3968 page 3968 ∧
      Plain outside (outside.hostReq 0) (outside.bar2 0 4095) 1 { w := true } 4095 page 4095) ∧
    (bit (outside.sr 0 389) 7 = true ∧ onePiece outside 4095 1 ∧ onePiece outside 4088 8 ∧
      Plain outside (outside.peerReq 7 0) 4095 1 { r := true } 4095 page 4095 ∧
      Plain outside (outside.peerReq 7 0) 4095 1 { w := true } 4095 page 4095 ∧
      Plain outside (outside.peerReq 7 0) 4092 4 { r := true, w := true } 4092 page 4092 ∧
      Plain outside (outside.peerReq 7 0) 4088 8 { r := true, w := true } 4088 page 4088) ∧
    bit (outside.sr 0 389) 6 = false ∧ bit (outside.sr 0 390) 63 = false := by
  refine ⟨⟨by decide +kernel, by unfold isFunction; decide +kernel, by decide, by unfold onePiece; decide +kernel, by unfold onePiece; decide +kernel, by unfold noSlots; decide +kernel, ?_,
    plain_of (by decide +kernel) (by decide +kernel)⟩, ⟨by decide +kernel, by unfold onePiece; decide +kernel, by unfold onePiece; decide +kernel,
    plain_of (by decide +kernel) (by decide +kernel), plain_of (by decide +kernel) (by decide +kernel),
    plain_of (by decide +kernel) (by decide +kernel), plain_of (by decide +kernel) (by decide +kernel)⟩, by decide +kernel, by decide +kernel⟩
  exact plain_of (by decide +kernel) (by decide +kernel)

/-- A device whose host uses it: key slot 63 named by no page, a pool of late frames, and a polder page at address 0 with a place in it;
its frame table lies apart. -/
def hosted : State :=
  { entryState 0xB200000000000000 0 with
    ctxs := [(0, { sr := [(257, 0x10000), (259, 0xF)], lf := [(0, [0x30000, 0x40000])] })]
    kslots := [(0, ⟨true, 0, 0⟩), (63, ⟨true, 1, 5⟩)]
    mg := [(0x1080, 0x10000), (0x1018, 9), (0x1400, 0x8000A00000000000)] }

theorem witness_HostWritesReachRegistersAndFrameTables :
    (∀ off ∈ [0, 8, 0x60], fnMask off ≠ 0 ∧ off < 0x1000) ∧
    (∀ off ∈ [0x1000, 0x1050, 0x1B00, 0x1C78, 0x3000, 0x3008], 0x1000 ≤ off ∧ mgMask off ≠ 0 ∧ off ≠ 0x1098 ∧ mgBad off 0x10000 = false) ∧
    isFunction hosted 0 ∧
    hosted.reduced = false ∧ hosted.keyUses 63 = 0 ∧ ((hosted.ctxAt hosted.ctxSel).lf.get [] 0).length < 65535 ∧ hosted.inQuarantine (poolTier 0) (3 % 2 ^ 36 * 65536) (poolSize 0) = false ∧
    ({ hosted with quar := [⟨0, 196608, false, 0⟩] } : State).inQuarantine (poolTier 0) (3 % 2 ^ 36 * 65536) (poolSize 0) = true ∧
    (let e : Entry := ⟨0x800000, 0xB200000000000000, 0⟩
     hosted.entry? 0 = some e ∧ e.v = true ∧ e.isPolder = true ∧ e.ctx = hosted.ctxSel ∧ hosted.poolFor e false = some 0 ∧
     (hosted.ctxAt e.ctx).lf.get [] 0 = 0x30000 :: [0x40000] ∧ hosted.pend = []) ∧
    hosted.pendOf 255 = 0 ∧
    ((List.range 64).map fun i => if 64 * (32 / 64) + i = 32 then 0 else bf (hosted.mgr (0x1300 + 8 * (64 * (32 / 64) + i))) 47 41).sum +
      bf (BitVec.ofNat 64 0x8000A00000000000) 47 41 ≤ 80 := by
  refine ⟨by decide, by decide +kernel, by unfold isFunction; decide +kernel, ?_, ?_, ?_, ?_, ?_, ?_, ?_, ?_⟩ <;> decide +kernel

theorem witness_HostWritesReachRegistersAndFrameTables_entries :
    ∀ w0 ∈ [(0x9000000000000000 : Word), 0xC000000000000000, 0x3200000000000000, 0],
      let s := if w0 = 0x9000000000000000 then { hosted with mem := (entryState 0x8000000000000000 0).mem } else { hosted with mem := (entryState 0 0).mem }
      let e : Entry := if w0 = 0x9000000000000000 then ⟨0x800000, 0x8000000000000000, 0⟩ else ⟨0x800000, 0, 0⟩
      s.slotFor 0 (bit w0 62) = some e ∧ ¬ breaksTable s e ⟨e.addr, (keepDevice e w0 0).1, (keepDevice e w0 0).2⟩ ∧ s.pend = [] ∧
      s.quarLen e.tier < 65536 := by
  intro w0 h
  simp only [List.mem_cons, List.not_mem_nil, or_false] at h
  rcases h with rfl | rfl | rfl | rfl <;> unfold breaksTable <;> decide +kernel

/-- Every constraint broken by one entry: `ord` 3, a polder page of HBM, `cc` without a pin, override 12, a reserved bit of either
word, a key slot that is not loaded (of a valid entry and of another), a polder page whose `pol` is cleared with `v`, a frame in quarantine. -/
theorem witness_HostWritesReachRegistersAndFrameTables_rejected :
    (∀ w ∈ [((0x0C00000000000000 : Word), (0 : Word)), (0x0200000000000000, 0), (0x0080000000000000, 0), (0x0000000C00000000, 0),
        (1, 0), (0, 0x200000), (0x801F000000000000, 0), (0x001F000000000000, 0), (0x8000000000000000, 0)],
      let s := { hosted with mem := (entryState 0 0).mem, quar := [⟨0, 0, false, 0⟩] }
      s.slotFor 0 false = some ⟨0x800000, 0, 0⟩ ∧ bit w.1 62 = false ∧
        breaksTable s ⟨0x800000, 0, 0⟩ ⟨0x800000, (keepDevice ⟨0x800000, 0, 0⟩ w.1 w.2).1, (keepDevice ⟨0x800000, 0, 0⟩ w.1 w.2).2⟩) ∧
    (let e : Entry := ⟨0x800000, 0xB200000000000000, 0⟩
     hosted.slotFor 0 false = some e ∧ breaksTable hosted e ⟨0x800000, (keepDevice e 0 0).1, (keepDevice e 0 0).2⟩) := by
  refine ⟨fun w hw => ?_, by decide +kernel, by unfold breaksTable; decide +kernel⟩
  simp only [List.mem_cons, List.not_mem_nil, or_false] at hw
  rcases hw with rfl | rfl | rfl | rfl | rfl | rfl | rfl | rfl | rfl <;>
    exact ⟨by decide +kernel, by decide +kernel, by unfold breaksTable; decide +kernel⟩

/-- Context 0 with no task: its memory is one big pinned page at 0, a compute copy's where `cc` is set; its special registers are the
windows' and those given. -/
def steered (cc : Bool) (l : List (Nat × Word)) : State :=
  { base with cores := [], ctxs := [(0, { sr := [(257, 0x200000), (259, 0xF)] ++ l })]
              mem := [(0x10002, 2), (0x10007, 0x80), (0x20006, if cc then 0xC0 else 0x40), (0x20007, 0xC0)], mg := [(0x1080, 0x10000), (0x1AF8, 0x8000000000000000)] }

theorem witness_ControlRegisterWritesTakeEffect :
    (steered false []).live ∧ (steered false []).slotsUsed 0 = 0 ∧
    bit (BitVec.ofNat 64 1) 0 = true ∧
    (steered false []).areaOk 0 (bf (BitVec.ofNat 64 1) 55 19 * 2 ^ 19) (bf (BitVec.ofNat 64 1) 55 19 * 2 ^ 19 + 331776) 82 = true ∧
    (steered false [(133, 0)]).othersLive { ctx := 0 } = false ∧
    (steered false []).areaOk 0 (bf (BitVec.ofNat 64 1) 55 21 * 2 ^ 21)
      (bf (BitVec.ofNat 64 1) 55 21 * 2 ^ 21 + 320 * (steered false []).saveStride 0) (320 * (steered false []).saveStride 0 / 4096 + 1) = true ∧
    bit ((steered false []).queueWord (bf (BitVec.ofNat 64 255) 7 0)) 63 = true ∧
    bf ((steered false []).queueWord (bf (BitVec.ofNat 64 255) 7 0)) 55 50 = 0 ∧
    (steered false [(192, 0x80000000000)]).dikeOk 0 (bf (BitVec.ofNat 64 2048) 11 0) (bf ((steered false [(192, 0x80000000000)]).sr 0 192) 43 32) = true := by
  refine ⟨by unfold State.live; decide +kernel, ?_, ?_, ?_, ?_, ?_, ?_, ?_, ?_⟩ <;> decide +kernel

theorem witness_ControlRegisterWritesTakeEffect_entries :
    (let s := entryState 0x8000000000000000 0; let e : Entry := ⟨0x800000, 0x8000000000000000, 0⟩
     s.ftEntry? 0 = some e ∧ s.pend = [] ∧ 10 < 16 ∧ 10 % 4 ≠ 3 ∧ Nat.testBit 10 2 = false ∧ e.isPolder = false) ∧
    (let s := entryState 0xB200000000000000 0; let e : Entry := ⟨0x800000, 0xB200000000000000, 0⟩
     s.ftEntry? 0 = some e ∧ s.pend = [] ∧ 14 < 16 ∧ 14 % 4 ≠ 3 ∧ Nat.testBit 14 2 = true ∧ e.tier = 3) ∧
    (let s := withCore fun c => { c with task := some { lrec := [(12, 3145728)] } }
     ∃ t, (s.coreAt 0).task = some t ∧ 131072 * (23 % 24) < t.spadBytes ∧ 131072 * (24 % 24) < t.spadBytes) ∧
    (fmtOk 1 = true ∧ isCont 1 = false ∧ (cFmtOf 1).scaled = false) := by
  refine ⟨?_, ?_, ⟨_, rfl, ?_, ?_⟩, ?_⟩ <;> decide +kernel

theorem witness_ControlRegisterWritesTakeEffect_preemption :
    ((steered false []).coreAt (bf (BitVec.ofNat 64 319) 8 0)).task = none ∧ 319 < bf (BitVec.ofNat 64 511) 8 0 ∧
    (let s := withCore fun c => { c with task := some { lrec := [], inRegion := true } }
     let c := bf (BitVec.ofNat 64 0) 8 0
     ∃ t, (s.coreAt c).task = some t ∧ c < 320 ∧ t.ctx = 0 ∧ t.gang = none ∧ t.inRegion = true ∧ (s.coreAt c).frozen = none ∧
       ((s.coreAt c).strmAt .a).st = .running ∧ (∀ o ∈ s.pend, o.agent ≠ c) ∧ (s.coreAt c).stLine = []) := by
  refine ⟨?_, ?_, ⟨_, rfl, ?_⟩⟩ <;> decide +kernel

/-- `steered` with a core's region 127 at generation 65535, and what `rgbind` holds. -/
def bound (b : Word) : State :=
  { steered true [(394, b)] with cores := [(0, { regs := [(127, ⟨true, 0, 3, 8, 0, 65535, 0, 0⟩)] })] }

theorem witness_ControlRegisterWritesTakeEffect_regions :
    (∀ v ∈ [2 ^ 61 + 1023 * 2 ^ 48, 3 * 2 ^ 59 + 1023 * 2 ^ 48],
      let s := steered false [(384, 1), (385, 8192)]
      let c := bf (BitVec.ofNat 64 v) 40 32
      let n := bf (BitVec.ofNat 64 v) 57 48 + 1
      bf (BitVec.ofNat 64 v) 61 59 ≤ 4 ∧ c < 320 ∧ bit (s.sr 0 384) (c / 8) = true ∧ s.rowsHeld 0 + 8 * n ≤ bf (s.sr 0 385) 23 0 ∧
      (s.coreAt c).freeRuns (bf (BitVec.ofNat 64 v) 61 59) n ≠ [] ∧ (s.coreAt c).freeEntries ≠ [] ∧
      ∀ e, ((s.coreAt c).region e).gen < 65536) ∧
    (let h := bf (BitVec.ofNat 64 (127 * 2 ^ 16 + 65535)) 31 0
     bf (BitVec.ofNat 64 (127 * 2 ^ 16 + 65535)) 61 59 ≤ 4 ∧ ((bound 0).coreAt (hCore h)).regionOf? (hCore h) 0 h = some ⟨true, 0, 3, 8, 0, 65535, 0, 0⟩ ∧ bindV ((bound 0).sr 0 394) = false) ∧
    ∃ x : Fin 12,
      let b := BitVec.ofNat 64 (1 + 6 * 2 ^ 54 + 4 * x.val * 2 ^ 48)
      let e : Entry := ⟨0x20000, 0xC0C0000000000000, 0⟩
      bindV ((bound b).sr 0 394) = true ∧ 6 ≤ bindCap ((bound b).sr 0 394) ∧ bindUnit ((bound b).sr 0 394) ≤ 47 ∧
      (bound b).storeOk ((bound b).sr 0 394) = true ∧ (bound b).entry? (bindBase ((bound b).sr 0 394)) = some e ∧ e.ctx = 0 ∧
      (Config.hbmStack (e.frame + bindBase ((bound b).sr 0 394) % e.size)).val = bindUnit ((bound b).sr 0 394) / 4 := by
  refine ⟨fun v hv => ?_, by decide +kernel, Config.hbmStack 0, ?_⟩
  · simp only [List.mem_cons, List.not_mem_nil, or_false] at hv
    have hr : ∀ e, (((steered false [(384, 1), (385, 8192)]).coreAt 0).region e).gen < 65536 := fun e => (by decide : (0 : Nat) < 65536)
    rcases hv with rfl | rfl <;> exact ⟨by decide +kernel, by decide +kernel, by decide +kernel, by decide +kernel, by decide +kernel, by decide +kernel, hr⟩
  · generalize hx : Config.hbmStack 0 = x
    have key : ∀ x : Fin 12,
        let b := BitVec.ofNat 64 (1 + 6 * 2 ^ 54 + 4 * x.val * 2 ^ 48)
        let e : Entry := ⟨0x20000, 0xC0C0000000000000, 0⟩
        bindV ((bound b).sr 0 394) = true ∧ 6 ≤ bindCap ((bound b).sr 0 394) ∧ bindUnit ((bound b).sr 0 394) ≤ 47 ∧
        (bound b).storeOk ((bound b).sr 0 394) = true ∧ (bound b).entry? (bindBase ((bound b).sr 0 394)) = some e ∧ e.ctx = 0 ∧
        e.frame + bindBase ((bound b).sr 0 394) % e.size = 0 ∧ x.val = bindUnit ((bound b).sr 0 394) / 4 := by
      decide +kernel
    obtain ⟨h1, h2, h3, h4, h5, h6, h7, h8⟩ := key x
    refine ⟨h1, h2, h3, h4, h5, h6, ?_⟩
    rw [h7, hx]
    exact h8

/-- A launch on queue 255 of one task, or two where `two`, that is ready or not. -/
def launchOf (ready two : Bool) : Launch :=
  { id := 1, lva := 0x100, lrec := [(0, 64), (3, if two then 1 else 0), (4, 0xFF0), (5, if two then 1 else 0)], sat := true,
    ready := if ready then some 3 else none }

/-- The same launch of two tasks as an affinity group, whose next task is n. -/
def affine (n seg : Nat) : Launch := { launchOf true true with lrec := [(3, 0x200000000001), (4, 0xFF0), (5, 1)], next := n, seg := seg }

theorem witness_SubmissionsBecomeTasks :
    (let s := { base with launches := [{ id := 0, lva := 0, lrec := [] }] ++ launchOf false false :: [{ id := 2, lva := 0, lrec := [] }] }
     s.live ∧ mayBeReady s (launchOf false false) ∧ mayBeReady { s with dtime := 7 } { launchOf false false with lrec := [(4, 0x80FF0), (13, 7)] }) ∧
    (∀ l ∈ [launchOf true false, launchOf true true, affine 0 0, affine 1 39, affine 1 38],
      Dispatchable { base with ctxs := [(0, { sr := [(384, 0x8000000000)] })], launches := [l] } 3 l ∧
      (l.next < recTasks l.lrec ∧ recTasks l.lrec ≤ 2)) ∧
    (recTasks (launchOf true false).lrec = 1 ∧ recTasks (launchOf true true).lrec = 2 ∧ recAffin (affine 0 0).lrec = 1 ∧
      0 % recGroup (affine 0 0).lrec = 0 ∧ 1 % recGroup (affine 1 39).lrec ≠ 0) := by
  refine ⟨⟨by unfold State.live; decide +kernel, by unfold mayBeReady; decide +kernel, by unfold mayBeReady; decide +kernel⟩,
    fun l hl => ?_, by decide +kernel⟩
  simp only [List.mem_cons, List.not_mem_nil, or_false] at hl
  rcases hl with rfl | rfl | rfl | rfl | rfl <;>
  exact ⟨⟨⟨by decide, by unfold State.live; decide +kernel, by decide +kernel⟩, by decide +kernel, by decide +kernel, by decide +kernel,
    by decide +kernel, fun d => .inl rfl, ⟨319, by decide, by unfold coreFits; decide +kernel⟩⟩, by decide +kernel⟩

/-- A submission ring of 16 entries at 0x800 whose last entry names the record at 0x100; queue 0 is context 0's. -/
def ringed (tail : Word) : State :=
  { base with
    ctxs := [(0, { sr := [(257, 0x10000), (259, 0xF), (384, 1)] })]
    fns := [(0, { reg := [(0, 0x800), (8, 4), (0x10, tail), (0x18, 15)] })]
    mg := [(0x1080, 0x10000), (0x1300, 0x8000000000000000)]
    mem := base.mem.setBytes 0x100 [64] |>.setBytes 0x9E0 (leBytes 8 0x100) }

theorem witness_SubmissionsBecomeTasks_ring :
    (∀ tail ∈ [0, 15], Submittable (ringed tail) 0 0x100 (recordIn (ringed tail) 0x100) 0x9F0) ∧
    (((ringed 0).fr 0 0x18).toNat % 2 ^ 4 ≠ ((ringed 0).fr 0 0x10).toNat % 2 ^ 4 ∧
     ((ringed 15).fr 0 0x18).toNat % 2 ^ 4 ≠ 16 % 2 ^ 4 ∧ (((ringed 15).fr 0 0x18).toNat % 2 ^ 4 + 1) % 2 ^ 4 = 16 % 2 ^ 4) := by
  refine ⟨fun tail h => ?_, by decide +kernel⟩
  simp only [List.mem_cons, List.not_mem_nil, or_false] at h
  rcases h with rfl | rfl <;>
  exact ⟨by unfold State.live; decide +kernel, by unfold isFunction; decide +kernel, by decide +kernel,
    ⟨⟨0x9E0, page, 0x9E0, plain_of (by decide +kernel) (by decide +kernel), by decide +kernel⟩,
     ⟨0x9F0, page, plain_of (by decide +kernel) (by decide +kernel)⟩⟩,
    ⟨by decide, 0x100, page, 0x100, plain_of (by decide +kernel) (by decide +kernel), rfl⟩,
    by decide +kernel, by decide +kernel, by decide +kernel, by decide +kernel, by unfold fetches; decide +kernel⟩

/-- `base`'s task with its streams ended, and the banks and blocked time given. -/
def ended (held : BitVec 128) (dead : Nat) : State :=
  withCore fun c => { c with strm := [(0, { st := .ended })], mx := { held := held }, dead := dead, lastEnd := 6, q := { qy0 := [1] } }

theorem witness_TasksEndOrDeadlock :
    (∀ held ∈ [(0 : BitVec 128), 1], ∀ dead ∈ [4095, 4096], (ended held dead).live ∧ (ended held dead).canEnd 0 = true ∧
      ((ended held dead).coreAt 0).mx.held = held ∧ ((ended held dead).coreAt 0).lastEnd < 7 ∧ ((ended held dead).coreAt 0).dead = dead ∧
      Settled (ended held dead) 0 ∧ Still (ended held dead) 0) ∧
    ∃ t, ((ended 0 0).coreAt 0).task = some t ∧ t.w 22 = 0 ∧ t.gang = none := by
  refine ⟨fun held hh dead hd => ?_, ⟨_, rfl, by decide +kernel⟩⟩
  simp only [List.mem_cons, List.not_mem_nil, or_false] at hh hd
  rcases hh with rfl | rfl <;> rcases hd with rfl | rfl <;>
  exact ⟨by unfold State.live; decide +kernel, by decide +kernel, by decide +kernel, by decide +kernel, by decide +kernel,
    by constructor <;> decide +kernel, by constructor <;> decide +kernel⟩

/-- A core whose trap record is due; the trap area is at 0, in the big page of `steered`. -/
def trapping (area : Word) : State :=
  { steered false [(128, area), (129, 255)] with cores := [(0, { task := some { lrec := [] }, frozen := some (.core 0x0B), rcdDue := true })] }

theorem witness_TrapsAreDelivered :
    (∀ area ∈ [(0 : Word), 1], (trapping area).live ∧ ((trapping area).coreAt 0).rcdDue = true ∧
      bit ((trapping area).sr 0 128) 0 = (decide (area = 1))) ∧
    TrapArea (trapping 1) 0 0 0 (322 * 1024 + 8 * 255) (320 * 1024) := by
  refine ⟨fun a h => ?_, ⟨by decide +kernel, ?_, by decide⟩⟩
  · simp only [List.mem_cons, List.not_mem_nil, or_false] at h
    rcases h with rfl | rfl <;> exact ⟨by unfold State.live; decide +kernel, by decide +kernel⟩
  · let e : Entry := ⟨0x20000, 0xC040000000000000, 0⟩
    exact ⟨0, 322 * 1024 + 8 * 255, 320 * 1024, e, e, e, plain_of (by decide +kernel) (by decide +kernel),
      plain_of (by decide +kernel) (by decide +kernel), plain_of (by decide +kernel) (by decide +kernel), by decide +kernel⟩

/-- A member of gang 9 that waits at barrier slot 7. -/
def gangWait : State :=
  { withCore fun c => { c with task := some { lrec := [], gang := some 9 }, strm := [(0, { st := .running, wait := some (.flight 7) })] } with
    gangs := [{ id := 9, members := [0] }] }

theorem witness_WaitsAndPeriodsEnd :
    (gangWait.live ∧ (∃ t, (gangWait.coreAt 0).task = some t ∧ t.gang = some 9 ∧
      gangWait.gangs.find? (fun x => decide (x.id = 9)) = some { id := 9, members := [0] } ∧ (7, t.wid) ∉ ([] : List (Nat × Word)) ∧
      (gangWait.coreAt 0).frozen = none ∧ ((gangWait.coreAt 0).strmAt .a).wait = some (.flight 7))) ∧
    (let s := { waiting 30 with cur := .dev (.waitwWake 0) }
     AtWork s 0 ∧ (s.coreAt 0).waitw = some ⟨0, 30, 0, 1, 2, 3, some 0⟩ ∧ 30 ≠ 0 ∧ 30 ≤ s.dtime - 0 ∧
     (let a : State := { s with cur := .strm 0 .a }
      (a.rdS 2).toNat % 8 = 0 ∧ Plain a a.req (a.rdS 2).toNat 8 { r := true } 0 page 0 ∧ Settled a 0 ∧ awaits a 0 0 ∧
      ¬ waitHolds 0 (BitVec.ofNat 64 (leNat (s.mem.bytes 0 8))) (a.rdS 3))) ∧
    (∀ w ∈ [(⟨0, 9, 0, 1, 0, 0, some 0⟩ : Waitw), ⟨0, 0, 1, 1, 0, 5, some 0⟩, ⟨0, 0, 2, 1, 0, 0, some 0⟩, ⟨0, 0, 3, 1, 0, 5, some 0⟩],
      let s := withCore fun c => { c with waitw := some w, s := [(0, 0), (5, 0xFFFFFFFFFFFFFFFF)] }
      let a : State := { s with cur := .strm 0 .a }
      AtWork s 0 ∧ (s.coreAt 0).waitw = some w ∧ (a.rdS w.a).toNat % 8 = 0 ∧ Plain a a.req (a.rdS w.a).toNat 8 { r := true } 0 page 0 ∧
      Settled a 0 ∧ awaits a 0 0 ∧ (w.cc = 1 ∨ w.cc = 3 → waitHolds w.cc (BitVec.ofNat 64 (leNat (s.mem.bytes 0 8))) (a.rdS w.b)) ∧
      (w.cc = 2 → waitHolds w.cc (BitVec.ofNat 64 (leNat (s.mem.bytes 0 8))) (a.rdS w.b))) ∧
    (∀ time ∈ [999, 1000], let s := { base with ctxs := [(0, { sr := [(257, 0x10000), (259, 0xF), (101, 0x100000000)] })], dtime := time }
      AtWork s 0 ∧ (s.evCfg 0 5).2.1 = 1000 ∧ (s.coreAt 0).evwin.get 0 5 = 0) ∧
    (∀ wd ∈ [999999, 1000000], let s := base.setSeqr 47 { base.seqrAt 47 with running := true, wd := wd }
      (s.seqrAt 47).resetting = false ∧ s.pend = [] ∧ s.wdLimit 47 = 1000000 ∧ (s.seqrAt 47).wd = wd) := by
  refine ⟨⟨by unfold State.live; decide +kernel, _, rfl, by decide +kernel⟩, ⟨atWork_of (by decide +kernel), by decide +kernel, by decide,
    by decide +kernel, by decide +kernel, plain_of (by decide +kernel) (by decide +kernel), by constructor <;> decide +kernel,
    fun w h => (by cases h; rfl), by unfold waitHolds; decide +kernel⟩, fun w hw => ?_,
    fun t ht => ?_, by decide +kernel⟩
  · simp only [List.mem_cons, List.not_mem_nil, or_false] at hw
    rcases hw with rfl | rfl | rfl | rfl <;>
    exact ⟨atWork_of (by decide +kernel), by decide +kernel, by decide +kernel, plain_of (by decide +kernel) (by decide +kernel),
      by constructor <;> decide +kernel, fun w h => (by cases h; rfl), by unfold waitHolds; decide +kernel, by unfold waitHolds; decide +kernel⟩
  · simp only [List.mem_cons, List.not_mem_nil, or_false] at ht
    rcases ht with rfl | rfl <;> exact ⟨atWork_of (by decide +kernel), by decide +kernel⟩

theorem witness_DeviceEventsTakeEffect :
    (∀ v ∈ [0, 1, 2, 3], let s : State := { mg := [(0x3018, BitVec.ofNat 64 v)] }
      bf (s.mgr 0x3018) 1 0 = v ∧ s.pend = [] ∧ s.slots = [] ∧ (s.halted = false ↔ v < 2) ∧ ∀ c, (s.coreAt c).stLine = []) ∧
    ({} : State).reduced = false ∧ 1200 ≤ 1700 ∧
    (let s : State := { mg := [(0x1098, 1)], dtime := 2000000007 }
     bit (s.mgr 0x1098) 0 = true ∧ ((s.dtime : Int) + -7) % 1000000000 = 0) ∧
    (isFunction { numVfs := 1 } 1 ∧ ({} : State).slots = []) ∧
    (let s : State := { mg := [(0x1090, 10)], dtime := 100000, lastReq := 0 }
     s.tier < deepestTier s) ∧
    (let s : State := { mg := [(0x1098, 1)], dtime := 2000000007 }
     ((s.dtime : Int) + 999999993) % 1000000000 = 0) ∧ bit (({} : State).mgr 0x1098) 0 = false := by
  refine ⟨fun v hv => ?_, by decide +kernel, by decide, by decide +kernel, ⟨by unfold isFunction; decide, rfl⟩, ?_, by decide +kernel, by decide +kernel⟩
  rotate_left
  · intro s
    simp only [deepestTier]
    rw [if_neg (by decide +kernel), if_neg (by decide +kernel), if_pos (by decide +kernel)]
    decide
  simp only [List.mem_cons, List.not_mem_nil, or_false] at hv
  rcases hv with rfl | rfl | rfl | rfl <;> exact ⟨by decide +kernel, rfl, rfl, by decide +kernel, fun _ => rfl⟩

/-- `slotted` with the device's record of the slot and its words given: a token ring of two frames at 0x200, whose frame 1 has 60 tokens
and a commit count of 5; queue 0 is context 0's, and the launch record stands at 0x100. -/
def slotWith (d : SlotDev) (ws : List Word) : State :=
  { slotted true 0 0 ws with
    slots := [(5, d)]
    ctxs := [(0, { sr := [(257, 0x20000), (259, 0xF), (320, 0x400), (321, 8), (322, 0x800), (384, 1), (386, 1)] })]
    mg := [(0x1080, 0x10000), (0x1300, 0x8000000000000000)]
    dtime := 5000
    mem := (((slotted true 0 0 ws).mem.setBytes 0x100 [64]).setBytes 0x300 (leBytes 8 0xFFFFFFFF00000005 ++ leBytes 8 0x23C)) }

/-- The slot's words: P = 2, G = 3, epoch 7; its time 4000 with lead 2000 and a period of 600; frames 1 and 2 posted and done. -/
def slotWords (st : Nat) : List Word :=
  [0x200000003, 0x700000000, 6999, 0x7D000000258, 0x100, 0, 0, 0x1000000000000200, 0x100000002, 0x100000000, 4000, 0, BitVec.ofNat 64 (st * 2 ^ 61)]

/-- The device's record of the slot, with the given work. -/
def devOf (ws : List SlWork) (evict : Option Bool) : SlotDev := { used := true, idx := 7, ia := 0x780, work := ws, evict := evict }

/-- A token of position 3 to write, and nothing to write. -/
def oneToken : SlWork := ⟨11, some 1, [(3, 77)], none⟩
def noToken : SlWork := ⟨12, none, [], none⟩

theorem slotOf_of {s : State} {d : SlotDev} (hp : plainB s (s.devReq 0 0) 0x780 128 {} 0x780 page 0x780 = true)
    (hc : s.cores.all (fun c => decide (c.2.stLine = [])) = true)
    (h : s.halted = false ∧ s.slotAt? 0 7 = some (5, d) ∧ s.slots.get {} 5 = d ∧ d.ctx = 0 ∧ d.ia = 0x780 ∧
      (∀ w ∈ tableWords s 0x780, w + 8 ≤ 0x780 ∨ 0x780 + 128 ≤ w) ∧ s.pend = [] ∧ (s.fr 0 0x28).toNat % 16 < 4) :
    SlotOf s 0 7 5 d page 0x780 := by
  obtain ⟨h1, h2, h3, h4, h5, h6, h7, h8⟩ := h
  refine ⟨h1, ⟨h2, h3, h4⟩, ?_, ⟨by rw [h5], by decide +kernel⟩, ?_, h7, h8⟩
  · rw [h5]; exact (plain_of hp hc).toMapped
  · rw [h5]; exact h6

theorem slot_works : ∀ x ∈ [([], 2, none), ([], 1, none), ([noToken], 1, none), ([oneToken, noToken], 1, none), ([], 1, some true)],
    SlotOf (slotWith (devOf x.1 x.2.2) (slotWords x.2.1)) 0 7 5 (devOf x.1 x.2.2) page 0x780 := by
  intro x h
  simp only [List.mem_cons, List.not_mem_nil, or_false] at h
  rcases h with rfl | rfl | rfl | rfl | rfl <;> exact slotOf_of (by decide +kernel) (by decide +kernel) (by decide +kernel)

theorem witness_SlotTimersAndEventsTakeEffect :
    (let s := slotWith (devOf [] none) (slotWords 2)
     slotState s 0x780 = 2 ∧ (slotWordIn s 0x780 2).toNat ≤ s.dtime + bf (slotWordIn s 0x780 3) 63 32 ∧ s.launches = [] ∧
     Plain s { slotRequest s 0 with kind := 1, agent := 5 } (bf (slotWordIn s 0x780 4) 55 0) 256 { r := true } 0x100 page 0x100 ∧
     s.launchRoom (timedRecord s 0x780 0x100) = true ∧ s.launchReason (timedRecord s 0x780 0x100) 0 false true = 0 ∧
     (timedRecord s 0x780 0x100).get 0 23 = 0 ∧ bf ((timedRecord s 0x780 0x100).get 0 4) 26 24 = 0 ∧ ¬ fetches (timedRecord s 0x780 0x100)) ∧
    (let s := slotWith (devOf [] none) (slotWords 1)
     s.slotsHit (0x780 + 64) 4 = [(5, devOf [] none)] ∧ s.winBad 0 (finAddress s 0 7) = false ∧
     s.bar2 (s.fnOf 0) 0 ≤ finAddress s 0 7 ∧ finAddress s 0 7 + 4 ≤ s.bar2 (s.fnOf 0) 0 + 2 ^ 36 ∧
     s.translate? (s.hostReqFor 0) (finAddress s 0 7) 4 { w := true } = .ok (0x780 + 64)) := by
  refine ⟨⟨?_, ?_, ?_, plain_of ?_ ?_, ?_, ?_, ?_, ?_, by unfold fetches; decide +kernel⟩, ?_, ?_, ?_, ?_, ?_⟩ <;> decide +kernel

theorem witness_SlotTimersAndEventsTakeEffect_sluice :
    (let s := slotWith (devOf [noToken] none) (slotWords 1)
     bf (slotWordIn s 0x780 8) 63 32 ≠ bf (slotWordIn s 0x780 8) 31 0 ∧ (∀ w ∈ [noToken], w.frame = none) ∧
     Plain s (slotRequest s 0) (bf (slotWordIn s 0x780 7) 55 0 + 256 * (bf (slotWordIn s 0x780 8) 63 32 % 2 ^ bf (slotWordIn s 0x780 7) 63 60)) 256
       { r := true } 0x300 page 0x300 ∧
     Plain s (slotRequest s 0) (sequenceAddress s 0 0x780) 24 { r := true } 0x800 page 0x800 ∧
     (∀ w ∈ tableWords s 0x800, w + 8 ≤ 0x780 ∨ 0x780 + 128 ≤ w) ∧ bf (s.raw64 0x300) 63 32 = 0xFFFFFFFF ∧ bf (s.raw64 0x308) 63 10 = 0 ∧ bit (s.raw64 0x308) 8 = false ∧ bf (s.raw64 0x308) 7 0 ≤ 60) ∧
    (let s := slotWith (devOf [oneToken, noToken] none) (slotWords 1)
     oneToken.cut = none ∧ oneToken.toks = [(3, 77)] ∧ noToken.cut = none ∧ noToken.toks = [] ∧
     Plain s (slotRequest s 0) (sequenceAddress s 0 0x780) 24 { r := true } 0x800 page 0x800 ∧ bf (s.raw64 0x810) 63 48 = 0xFFFF ∧
     Plain s (slotRequest s 0) (bf (s.raw64 0x800) 55 0 + 3 * bf (s.raw64 0x808) 31 0) 4 { w := true } 0xC0C page 0xC0C ∧ page.tier < 2 ∧ s.guarded 0 0xC0C 4 = false ∧
     (0xC0C + 4 ≤ 0x780 ∨ 0x780 + 128 ≤ 0xC0C) ∧ ∀ x ∈ tableWords s 0x780, x + 8 ≤ 0xC0C ∨ 0xC0C + 4 ≤ x) ∧
    (let s := slotWith (devOf [] none) (slotWords 2)
     slotState s 0x780 ∈ [1, 2] ∧ bf (slotWordIn s 0x780 9) 63 32 ≠ 0 ∧
     (slotWordIn s 0x780 10).toNat + 1000 * bf (slotWordIn s 0x780 9) 63 32 ≤ s.dtime ∧ (devOf [] none).evict = none ∧
     framesStand s (slotRequest s 0) 0x780) ∧
    (devOf [] (some true)).evict = some true := by
  refine ⟨⟨?_, ?_, plain_of ?_ ?_, plain_of ?_ ?_, ?_⟩, ⟨?_, ?_, ?_, ?_, plain_of ?_ ?_, ?_, plain_of ?_ ?_, ?_⟩,
    ⟨?_, ?_, ?_, ?_, fun j hj ia ht => ?_⟩, ?_⟩
  rotate_right
  rotate_right
  · have h0 : bf (slotWordIn (slotWith (devOf [] none) (slotWords 2)) 0x780 5) 63 56 = 0 := by decide +kernel
    obtain rfl : j = 0 := by omega
    have h1 : (slotWith (devOf [] none) (slotWords 2)).translate? (slotRequest (slotWith (devOf [] none) (slotWords 2)) 0)
      (bf (slotWordIn (slotWith (devOf [] none) (slotWords 2)) 0x780 5) 55 0 + 65536 * 0) 1 {} = .ok 0 := by decide +kernel
    rw [h1] at ht
    obtain rfl : 0 = ia := by simpa using ht
    have h2 : (slotWith (devOf [] none) (slotWords 2)).entry? 0 = some page := by decide +kernel
    refine ⟨by decide +kernel, fun x he => ?_⟩
    rw [h2] at he
    obtain rfl : page = x := by simpa using he
    decide +kernel
  all_goals decide +kernel

/-- `base` with a turn next, of the stream of core 0 given, whose first words are given. -/
def turning (st : Strm) (w : Nat) : State :=
  { withCore (fun c => { c with strm := [(st.code, { st := .running })] }) with
    agenda := [.strm 0 st], mem := base.mem.setBytes 0 (leBytes 8 w) }

theorem turnOf_of {s : State} {c : Nat} {st : Strm} (h : s.cur = .strm c st ∧ s.halted = false ∧ (s.coreAt c).canRun st = true ∧
    (s.coreAt c).dueFault? st = none ∧ (s.coreAt c).awaitsAccrd st = false ∧ s.unmarked = true) : TurnOf s c st :=
  ⟨h.1, h.2.1, h.2.2.1, h.2.2.2.1, h.2.2.2.2.1, h.2.2.2.2.2⟩

theorem witness_StepRunsTheDecodedInstruction :
    (∀ w ∈ [0x24400029, 0xFFFFFFFF], let s := (turning .a w).takeTurn
      TurnOf s 0 .a ∧ Fetches s 4 0 page 0 ∧ wordAt s 0 4 = w ∧ Still s 0) ∧
    (∀ w ∈ [0x10227C00, 0], let s := (turning .z w).takeTurn
      TurnOf s 0 .z ∧ Fetches s 4 0 page 0 ∧ wordAt s 0 4 = w ∧ Still s 0) ∧
    (∀ w ∈ [0x7F00000011818140, 0x7F00000820111149, 0xFF00000000000000], let s := (turning .x w).takeTurn
      TurnOf s 0 .x ∧ Fetches s 8 0 page 0 ∧ wordAt s 0 8 = w ∧ Still s 0) ∧
    (let s := { onSequencer with agenda := [.seqr 3] }.takeTurn
     s.cur = .seqr 3 ∧ s.live ∧ (s.seqrAt 3).running = true ∧ (s.seqrAt 3).resetting = false ∧ s.unmarked = true ∧ Fetches s 4 0 page 0 ∧
     ∀ o ∈ s.pend, o.agent ≠ 512 + 3) ∧
    (let s := { base with agenda := [.dev .quiescenceEpoch] }.takeTurn
     s.cur = .dev .quiescenceEpoch ∧ isEvent .quiescenceEpoch = true) ∧
    decodeA 0xFFFFFFFF = .error .opcode ∧ (decodeA 0x24400029).toBool = true ∧ (decodeZ 0x10227C00).toBool = true ∧
    (decodeZ 0).toBool = false ∧ (decodeX 0x7F00000820111149).toBool = true ∧ (decodeX 0xFF00000000000000).toBool = false := by
  refine ⟨fun w hw => ?_, fun w hw => ?_, fun w hw => ?_,
    ⟨by decide +kernel, by unfold State.live; decide +kernel, by decide +kernel, by decide +kernel, by decide +kernel,
      plain_of (by decide +kernel) (by decide +kernel), by decide +kernel⟩, ⟨by decide +kernel, by decide +kernel⟩, ?_, ?_, ?_, ?_, ?_, ?_⟩
  · simp only [List.mem_cons, List.not_mem_nil, or_false] at hw
    rcases hw with rfl | rfl <;>
      exact ⟨turnOf_of (by decide +kernel), plain_of (by decide +kernel) (by decide +kernel), by decide +kernel, by constructor <;> decide +kernel⟩
  · simp only [List.mem_cons, List.not_mem_nil, or_false] at hw
    rcases hw with rfl | rfl <;>
      exact ⟨turnOf_of (by decide +kernel), plain_of (by decide +kernel) (by decide +kernel), by decide +kernel, by constructor <;> decide +kernel⟩
  · simp only [List.mem_cons, List.not_mem_nil, or_false] at hw
    rcases hw with rfl | rfl | rfl <;>
      exact ⟨turnOf_of (by decide +kernel), plain_of (by decide +kernel) (by decide +kernel), by decide +kernel, by constructor <;> decide +kernel⟩
  all_goals decide +kernel

/-- `base`'s frame tables with a page of 2 MiB at 0x200000, whose frame stands there too, and the save area of context 0 in it; memory from
there on, the cores and the saved tasks are as given. -/
def saveState (cores : Sparse Core) (saved : List Saved) (m : Sparse Byte) : State :=
  { base with
    ctxs := [(0, { sr := [(132, 0x200001), (133, 1), (257, 0x400000), (259, 0xF), (384, 1)] })]
    mem := (base.mem ++ [(0x20207, 0xC0), (0x2020C, 2)]) ++ m, cores := cores, saved := saved }

def bigPage : Entry := ⟨0x20200, 0xC000000000000000, 0x200000000⟩

theorem saveState_raw64 (cores : Sparse Core) (saved : List Saved) (m : Sparse Byte) (hm : ∀ e ∈ m, 0x200000 ≤ e.1) (k : Nat)
    (hk : k + 8 ≤ 0x200000) : (saveState cores saved m).raw64 k = (saveState [] [] []).raw64 k := by
  simp only [State.raw64, Sparse.bytes]
  congr 2
  refine List.map_congr_left fun i hi => ?_
  have hi : i < 8 := List.mem_range.1 hi
  show Sparse.get 0 (_ ++ m) (k + i) = Sparse.get 0 (_ ++ []) (k + i)
  rw [Laws.get_append_left _ _ _ _ fun e he => by have := hm e he; omega, List.append_nil]

theorem saveState_entry (cores : Sparse Core) (saved : List Saved) (m : Sparse Byte) (hm : ∀ e ∈ m, 0x200000 ≤ e.1) (ia : Nat)
    (h : 0x200000 ≤ ia ∧ ia < 0x400000) : (saveState cores saved m).entry? ia = some bigPage ∧ tableWords (saveState cores saved m) ia =
      [0x10000, 0x20200, 0x20208, 0x20000 + 16 * (ia / 2 ^ 16 % 8192), 0x20000 + 16 * (ia / 2 ^ 16 % 8192) + 8] := by
  have e1 : ia / 2 ^ 29 % 2 ^ 19 = 0 := by omega
  have e2 : ia / 2 ^ 21 % 256 = 1 := by omega
  have hg : (saveState cores saved m).mgr 0x1080 = 0x10000 := by show State.mgr base _ = _; decide +kernel
  have r (k : Nat) (hk : k + 8 ≤ 0x200000) := saveState_raw64 cores saved m hm k hk
  have w1 : (saveState cores saved m).raw64 (physKey 0 0x10000) = 0x8000000000020000 := (r _ (by decide)).trans (by decide +kernel)
  have w2 : (saveState cores saved m).raw64 (physKey 0 0x20200) = 0xC000000000000000 := (r _ (by decide)).trans (by decide +kernel)
  have w3 : (saveState cores saved m).raw64 (physKey 0 0x20208) = 0x200000000 := (r _ (by decide)).trans (by decide +kernel)
  have hb : bf (0x10000 : Word) 47 12 * 4096 = 0x10000 := by decide +kernel
  have hc : bf (0x8000000000020000 : Word) 47 12 * 4096 = 0x20000 := by decide +kernel
  refine ⟨?_, ?_⟩
  · simp only [State.entry?, e1, e2, hg, hb, Nat.mul_zero, Nat.add_zero, w1, hc, Nat.reduceMul, Nat.reduceAdd, w2, w3]
    rw [if_neg (by decide +kernel), if_pos (by decide +kernel)]
    rfl
  · simp only [tableWords, e1, e2, hg, hb, Nat.mul_zero, Nat.add_zero, w1, hc, Nat.reduceMul, Nat.reduceAdd]
    simp [physKey]

theorem saveState_plain (cores : Sparse Core) (saved : List Saved) (m : Sparse Byte) (hm : ∀ e ∈ m, 0x200000 ≤ e.1)
    (hs : cores.all (fun c => decide (c.2.stLine = [])) = true) (p : Perm) (o n : Nat) (hn : 0 < n) (h : o % 4096 + n ≤ 4096)
    (ho : o + n ≤ 0x200000) :
    Plain (saveState cores saved m) { (saveState cores saved m).devReq 0 0 with kind := 1 } (0x200000 + o) n p (0x200000 + o) bigPage
      (0x200000 + o) := by
  have hb : ∀ n, n ∈ List.range 4 → bit ((saveState [] [] []).sr 0 (403 + 4 * n)) 63 = false := by decide +kernel
  have hq : ∀ x, (saveState cores saved m).peerWin? 0 x = none := fun x => by
    simp only [State.peerWin?, List.find?_eq_none]
    exact fun n hn => by
      have : bit ((saveState cores saved m).sr 0 (403 + 4 * n)) 63 = false := hb n hn
      simp [this]
  have he := (saveState_entry cores saved m hm (0x200000 + o) (by omega)).1
  have hw : windowOf ((saveState [] [] []).devReq 0 0).win 0 = ⟨0, 0x400000, 0, true, true, true, true⟩ := by decide +kernel
  have hf : findWindow ((saveState [] [] []).devReq 0 0).win (0x200000 + o) (List.range 16) = some ⟨0, 0x400000, 0, true, true, true, true⟩ := by
    have hr : List.range 16 = 0 :: (List.range 15).map (· + 1) := by decide
    rw [hr, findWindow, hw]
    exact if_pos ⟨rfl, Nat.zero_le _, by show 0x200000 + o < 0x400000; omega⟩
  have ht : (saveState cores saved m).translate? { (saveState cores saved m).devReq 0 0 with kind := 1 } (0x200000 + o) n p =
      .ok (0x200000 + o) := by
    have hd : (saveState cores saved m).peerDenies 0 (0x200000 + o) n p = false := by
      simp [State.peerDenies, State.peerDenies1, hq]
    have hf' : findWindow ({ (saveState cores saved m).devReq 0 0 with kind := 1 } : Req).win (0x200000 + o) (List.range 16) =
      some ⟨0, 0x400000, 0, true, true, true, true⟩ := hf
    have hd' : (saveState cores saved m).peerDenies ({ (saveState cores saved m).devReq 0 0 with kind := 1 } : Req).ctx (0x200000 + o) n p =
      false := hd
    simp only [State.translate?, hf', Window.allows, Nat.zero_add, Nat.sub_zero, hd']
    rw [if_neg (by simp), if_neg (by omega), if_neg (by omega), if_neg (by simp; omega)]
  have hz : bigPage.size = 0x200000 := by decide +kernel
  have hc : bigPage.frame + (0x200000 + o) % bigPage.size = 0x200000 + o := by
    rw [show bigPage.frame = 0x200000 from by decide +kernel, hz]
    omega
  refine ⟨⟨⟨hn, by omega⟩, hq _, he, rfl, by decide +kernel, (by decide +kernel : bigPage.ctx = 0), by decide +kernel, ?_, ?_, ?_, ?_,
    fun i _ => .inl rfl, noStash _ hs⟩, ht, rfl, fun o ho => (by cases ho), by show 4096 < 8192; omega⟩
  · rw [hc, show tierSize bigPage.tier = 768 * 2 ^ 30 from by decide +kernel]; omega
  · show State.reduced base = false; decide +kernel
  · rw [hc, show bigPage.tier = 0 from by decide +kernel]; simp [physKey]
  · simp [State.badIn, show (saveState cores saved m).badWord = [] from rfl, Sparse.get]

theorem saveState_image (cores : Sparse Core) (saved : List Saved) (m : Sparse Byte) (hm : ∀ e ∈ m, 0x200000 ≤ e.1)
    (hs : cores.all (fun c => decide (c.2.stLine = [])) = true) (p : Perm) (n : Nat) (hn : n ≤ 0x200000) :
    ImageAt (saveState cores saved m) { (saveState cores saved m).devReq 0 0 with kind := 1 } 0x200000 n p (0x200000 + ·) := by
  refine ⟨fun o k h0 h1 h2 => ⟨_, _, saveState_plain cores saved m hm hs p o k h0 h1 (by omega), fun o' ho' x hx => ?_⟩,
    fun o j _ => by show 0x200000 + (o + j) = 0x200000 + o + j; omega, fun o o' _ _ h => by
      have h : 0x200000 + o = 0x200000 + o' := h
      omega⟩
  rw [(saveState_entry cores saved m hm (0x200000 + o) (by omega)).2] at hx
  simp only [List.mem_cons, List.not_mem_nil, or_false] at hx
  right
  show x + 8 ≤ 0x200000 + o'
  rcases hx with rfl | rfl | rfl | rfl | rfl <;> omega

/-- A privileged task of context 0 with 4 vector registers and 8 KiB of scratchpad. -/
def saver : Task := { lrec := [(4, 0x100000), (11, 4), (12, 0x2000)] }

/-- Core 0 with that task, and what has an uncorrectable error there. -/
def savedCore (e : Ecc) : Core := { base.coreAt 0 with task := some saver, ecc := e }

theorem saver_ctx : saver.ctx = 0 := by decide +kernel

theorem noSlots_save (cores : Sparse Core) (saved : List Saved) (m : Sparse Byte) : noSlots (saveState cores saved m) saver.ctx := by
  rw [saver_ctx]
  have h : bf ((saveState cores saved m).sr 0 321) 15 0 = 0 := by show bf ((saveState [] [] []).sr 0 321) 15 0 = 0; decide +kernel
  exact ⟨rfl, by simp only [State.slotTable?, h, if_true]⟩

theorem witness_TasksAreSavedAndRestored_saves :
    ∀ e : Ecc, let s := saveState [(0, savedCore e)] [] []
      Savable s 0 saver ∧
      (∀ p n, n ≤ 0x200000 → ImageAt s { s.devReq 0 0 with kind := 1 } 0x200000 n p (0x200000 + ·)) ∧
      Plain s { s.devReq 0 0 with kind := 1 } 0x200000 8 { w := true } 0x200000 bigPage 0x200000 := by
  intro e
  refine ⟨⟨?_, by decide, rfl, rfl, rfl, ?_, ?_, ⟨rfl, ?_, ?_, ?_, ?_⟩, ⟨fun o ho => (by cases ho), ?_, ?_, ?_, ?_, fun r hr => ?_⟩, ⟨rfl, ?_⟩, ?_⟩,
    fun p n hn => saveState_image _ _ _ (fun e he => (by cases he)) (by rfl) p n hn,
    saveState_plain _ _ _ (fun e he => (by cases he)) (by rfl) _ 0 8 (by decide) (by decide) (by decide)⟩
  case refine_1 => show State.halted base = false; decide +kernel
  case refine_3 => rw [saver_ctx]; show bit ((saveState [] [] []).sr 0 132) 0 = true; decide +kernel
  case refine_12 => cases hr
  case refine_14 => exact noSlots_save _ _ _
  all_goals rfl

theorem word_of_bytes (x : Word) : BitVec.ofNat 64 (leNat (leBytes 8 x.toNat)) = x := by
  have h := x.isLt
  refine BitVec.eq_of_toNat_eq ?_
  simp only [leBytes, leNat, BitVec.toNat_ofNat]
  omega

/-- The n bytes of a function, at the keys from lo on, listed. -/
def listed (lo n : Nat) (f : Nat → Byte) : Sparse Byte := (List.range n).map fun i => (lo + i, f i)

theorem listed_get (lo n : Nat) (f : Nat → Byte) (i : Nat) (h : i < n) : Sparse.get 0 (listed lo n f) (lo + i) = f i := by
  have key : ∀ (l : List Nat), i ∈ l → Sparse.get 0 (l.map fun i => (lo + i, f i)) (lo + i) = f i := by
    intro l
    induction l with
    | nil => exact fun h => (by cases h)
    | cons x l ih =>
      intro h
      simp only [List.map_cons, Sparse.get]
      split
      · rename_i e
        have : x = i := by omega
        rw [this]
      · rename_i e
        exact ih ((List.mem_cons.1 h).resolve_left fun hx => e (by rw [hx]))
  exact key _ (List.mem_range.2 h)

/-- A saved task of core 0, and its image: the commit word, the checksum and the sections. -/
def savedTask : Saved := ⟨0, saver, savedCore {}, 0⟩

def image : Sparse Byte :=
  (listed 0x200007 1 fun _ => 0x80) ++ listed 0x200018 8 (fun i => byteAt (leBytes 8 (Config.freeWord 0).toNat) i) ++
    listed 0x201000 (1672 * 1024) (fillByte 0)

theorem listed_keys {lo n : Nat} {f : Nat → Byte} {e : Nat × Byte} (h : e ∈ listed lo n f) : lo ≤ e.1 ∧ e.1 < lo + n := by
  simp only [listed, List.mem_map, List.mem_range] at h
  obtain ⟨i, hi, rfl⟩ := h
  exact ⟨by show lo ≤ lo + i; omega, by show lo + i < lo + n; omega⟩

theorem image_keys : ∀ e ∈ image, 0x200000 ≤ e.1 := by
  intro e h
  simp only [image, List.mem_append] at h
  rcases h with (h | h) | h <;> have := listed_keys h <;> omega

theorem tables_keys : ∀ e ∈ (base.mem ++ [(0x20207, 0xC0), (0x2020C, 2)] : Sparse Byte), e.1 < 0x200000 := by decide +kernel

theorem restorable_image (m : Sparse Byte) (hm : ∀ e ∈ m, 0x200000 ≤ e.1) :
    let s := saveState [] [savedTask] m
    ImageAt s { s.devReq 0 saver.ctx with kind := 1 }
      (bf (s.sr saver.ctx 132) 55 21 * 2 ^ 21 + 0 * (bf (s.sr saver.ctx 133) 7 0 * 2 ^ 21))
      (1652 * 1024 + 4096 * saver.nvreg + saver.spadPlaced) { r := true, w := true } (0x200000 + ·) := by
  have e : bf ((saveState [] [savedTask] m).sr 0 132) 55 21 * 2 ^ 21 = 0x200000 := by
    show bf ((saveState [] [] []).sr 0 132) 55 21 * 2 ^ 21 = 0x200000
    decide +kernel
  have e' : 1652 * 1024 + 4096 * saver.nvreg + saver.spadPlaced = 1676 * 1024 := by decide +kernel
  simp only [saver_ctx, Nat.zero_mul, Nat.add_zero, e, e']
  exact saveState_image [] [savedTask] m hm rfl { r := true, w := true } (1676 * 1024) (by decide)

theorem cands_of {s : State} (hl : s.launches = []) (hr : s.requeued = []) (hs : s.saved = [savedTask]) (hc : (s.coreAt 0).task = none) :
    s.cands 0 = [s.cand saver (.back [(saver, some 0, true)])] := by
  have hg : saver.gang = none := rfl
  have hq : bf (saver.w 4) 11 4 < 64 := by decide +kernel
  simp [State.cands, State.backCands, State.backTasks, hl, hr, hs, savedTask, hc, hg, State.cand, hq]

theorem restorable (m : Sparse Byte) (hm : ∀ e ∈ m, 0x200000 ≤ e.1) : Restorable (saveState [] [savedTask] m) 0 savedTask (0x200000 + ·) where
  service := ⟨by decide, by show State.halted base = false; decide +kernel, fun _ => ⟨rfl, by decide⟩⟩
  alone := cands_of rfl rfl rfl (by rfl)
  known := rfl
  body := rfl
  free := ⟨by decide, rfl, by
    show bit ((saveState [] [savedTask] m).sr saver.ctx 384) 0 = true
    rw [saver_ctx]
    show bit ((saveState [] [] []).sr 0 384) 0 = true
    decide +kernel⟩
  size := by
    show 1652 * 1024 + 4096 * saver.nvreg + saver.spadPlaced ≤ bf ((saveState [] [savedTask] m).sr saver.ctx 133) 7 0 * 2 ^ 21
    rw [saver_ctx]
    show _ ≤ bf ((saveState [] [] []).sr 0 133) 7 0 * 2 ^ 21
    decide +kernel
  reserved := by
    have h : (saveState [] [savedTask] m).reserved 0 (bf (saver.w 4) 11 4) = 0 := by
      show (saveState [] [savedTask] []).reserved 0 (bf (saver.w 4) 11 4) = 0
      decide +kernel
    have h' : (saveState [] [savedTask] m).freeOn 0 = 80 := by
      simp only [State.freeOn]
      exact congrArg List.length (List.filter_eq_self.2 fun a _ => rfl)
    show decide ((saveState [] [savedTask] m).reserved 0 (bf (saver.w 4) 11 4) + 1 ≤ (saveState [] [savedTask] m).freeOn 0) = true
    rw [h, h']
    rfl
  holds := fun d => .inl rfl
  image := restorable_image m hm
  quiet := rfl
  slots := noSlots_save _ _ _

theorem image_get (k : Nat) (h : 0x200000 ≤ k) : (saveState [] [savedTask] image).mem.get 0 k = Sparse.get 0 image k :=
  Laws.get_append 0 _ image k fun e he hk => by have := tables_keys e he; omega

theorem witness_TasksAreSavedAndRestored_restores :
    Restorable (saveState [] [savedTask] []) 0 savedTask (0x200000 + ·) ∧ ((saveState [] [savedTask] []).raw64 (0x200000 + 0)).toNat < 2 ^ 63 ∧
    (let s := saveState [] [savedTask] image
     let k := fun o => 0x200000 + o
     Restorable s 0 savedTask k ∧ 2 ^ 63 ≤ (s.raw64 (k 0)).toNat ∧ s.raw64 (k 8) = savedTask.task.wid ∧ s.raw64 (k 24) = Config.freeWord savedTask.fill ∧
     ∀ i, i < 1672 * 1024 → s.mem.get 0 (k (4096 + i)) = fillByte savedTask.fill i) := by
  have hlo (a k : Nat) (m : Sparse Byte) (f : Nat → Byte) (n : Nat) (h : k < a) : Sparse.get 0 (m ++ listed a n f) k = Sparse.get 0 m k :=
    Laws.get_append_left 0 m _ k fun e he hk => by have := listed_keys he; omega
  refine ⟨restorable [] (fun e he => (by cases he)), by decide +kernel, restorable image image_keys, ?_, ?_, ?_, fun i hi => ?_⟩
  · have h : ((saveState [] [savedTask] image).mem.bytes 0x200000 8) = [0, 0, 0, 0, 0, 0, 0, 0x80] := by
      simp only [Sparse.bytes]
      rw [List.map_congr_left (g := fun i => Sparse.get 0 (listed 0x200007 1 fun _ => 0x80) (0x200000 + i)) fun i hi => by
        have := List.mem_range.1 hi
        rw [image_get _ (by omega), image, hlo _ _ _ _ _ (by omega), hlo _ _ _ _ _ (by omega)]]
      decide +kernel
    show 2 ^ 63 ≤ (BitVec.ofNat 64 (leNat ((saveState [] [savedTask] image).mem.bytes 0x200000 8))).toNat
    rw [h]
    decide +kernel
  · have h : ((saveState [] [savedTask] image).mem.bytes 0x200008 8) = [0, 0, 0, 0, 0, 0, 0, 0] := by
      simp only [Sparse.bytes]
      rw [List.map_congr_left (g := fun i => Sparse.get 0 (listed 0x200007 1 fun _ => 0x80) (0x200008 + i)) fun i hi => by
        have := List.mem_range.1 hi
        rw [image_get _ (by omega), image, hlo _ _ _ _ _ (by omega), hlo _ _ _ _ _ (by omega)]]
      decide +kernel
    show BitVec.ofNat 64 (leNat ((saveState [] [savedTask] image).mem.bytes 0x200008 8)) = 0
    rw [h]
    decide +kernel
  · have h : ((saveState [] [savedTask] image).mem.bytes 0x200018 8) = leBytes 8 (Config.freeWord 0).toNat := by
      simp only [Sparse.bytes]
      rw [List.map_congr_left (g := fun i => byteAt (leBytes 8 (Config.freeWord 0).toNat) i) fun i hi => by
        have hi := List.mem_range.1 hi
        rw [image_get _ (by omega), image, hlo _ _ _ _ _ (by omega),
          Laws.get_append 0 _ _ _ fun e he hk => by have := listed_keys he; omega, listed_get _ _ _ _ hi]]
      rfl
    show BitVec.ofNat 64 (leNat ((saveState [] [savedTask] image).mem.bytes 0x200018 8)) = _
    rw [h, word_of_bytes]
    rfl
  · show (saveState [] [savedTask] image).mem.get 0 (0x200000 + (4096 + i)) = _
    rw [image_get _ (by omega), image, show 0x200000 + (4096 + i) = 0x201000 + i by omega,
      Laws.get_append 0 _ _ _ fun e he hk => by
        rcases List.mem_append.1 he with h | h <;> have := listed_keys h <;> omega, listed_get _ _ _ _ hi]
    rfl

/-- A stride that ends before the image, and a save area that no window shows. -/
theorem witness_TasksAreSavedAndRestored_failures :
    (let s := (saveState [(0, savedCore {})] [] []).setSr 0 133 0
     Savable s 0 saver ∧ bf (s.sr saver.ctx 133) 7 0 * 2 ^ 21 < 1652 * 1024 + 4096 * saver.nvreg + saver.spadPlaced ∧
     Plain s { s.devReq 0 saver.ctx with kind := 1 } 0x200000 8 { w := true } 0x200000 bigPage 0x200000) ∧
    (let s := (saveState [(0, savedCore {})] [] []).setSr 0 132 0x40000000001
     Savable s 0 saver ∧ s.translate? { s.devReq 0 saver.ctx with kind := 1 } (bf (s.sr saver.ctx 132) 55 21 * 2 ^ 21) 8 { w := true } = .error 0x04) := by
  have h (s : State) (hh : s.halted = false ∧ (s.coreAt 0).task = some saver ∧ ((s.coreAt 0).strmAt .a).st = .running ∧
      bit (s.sr saver.ctx 132) 0 = true ∧ (s.coreAt 0).frozen = none ∧ (s.coreAt 0).eng = [] ∧ (s.coreAt 0).q.qv = [] ∧ (s.coreAt 0).mx.tst = [] ∧
      (s.coreAt 0).stLine = [] ∧ (s.coreAt 0).stash = [] ∧ (s.coreAt 0).held = [] ∧ (s.coreAt 0).inRegion = false ∧ s.remote = [] ∧ s.pend = [] ∧
      (s.coreAt 0).mx.wait = [] ∧ s.slots = [] ∧ s.slotTable? saver.ctx = none) : Savable s 0 saver := by
    obtain ⟨h1, h2, h3, h4, h5, h6, h7, h8, h9, h10, h11, h12, h13, h14, h15, h16, h17⟩ := hh
    exact ⟨h1, by decide, h2, rfl, rfl, h3, h4, ⟨by rw [h2]; rfl, h5, h6, h7, h8⟩,
      ⟨by rw [h14]; exact fun o ho => (by cases ho), h9, h10, h11, h12, by rw [h13]; exact fun o ho => (by cases ho)⟩, ⟨h14, h15⟩, h16, h17⟩
  refine ⟨⟨h _ ?_, ?_, plain_of ?_ ?_⟩, h _ ?_, ?_⟩ <;> decide +kernel

theorem witness_RegisterWritesKeepEverythingElse :
    ∃ t, WritesOnly (.add 9 4 5) 9 ∧ exec (.add 9 4 5) base = .next t :=
  ⟨_, .binary (Instr.add, fun a b => a + b) (by simp [binaryOps]) 9 4 5, rfl⟩

theorem witness_MemoryStaysCanonical : ∃ t, base.memWf = true ∧ step { base with agenda := [.time 1000] } = .next t :=
  ⟨_, by decide +kernel, rfl⟩

theorem witness_ScalarWordsRoundTrip : ∃ i w, i.wellFormed = true ∧ encode i = .a w ∧ sharesWord i = false :=
  ⟨.ldD 10 7 2 0x3FF, _, by decide +kernel, rfl, rfl⟩

theorem witness_StreamWordsRoundTrip :
    (∃ i w, i.wellFormed = true ∧ encode i = .z w) ∧
    ∃ i j g v k, i.wellFormed = true ∧ j.wellFormed = true ∧ encode i = .xv g v ∧ encode j = .xk g k ∧ (240 ≤ v / 2 ^ 28 → k = 0) :=
  ⟨⟨.zcmpEq 0 1 318 0, _, by decide +kernel, rfl⟩,
   ⟨.fadd .none 0 6 (.vec 6) (.vec 5), .knop .none, _, _, _, by decide +kernel, by decide +kernel, rfl, rfl, by decide +kernel⟩⟩

end Sys2Proof.Tests
end

section
/-! The A-stream's register-register operations (R92 to R95): what the function of each gives in the terms of Tables 4.1
and 4.2, and from that what executing the instruction does. -/

namespace Sys2Proof.Laws

open Sys2Proof.Machine Sys2Proof.Claims

/-! ### The two shared forms -/

/-- The two-source instruction r.1 completes, writes r.2 of its sources to S[d] and nothing else, and goes on at the next word. -/
def ComputesTwo (r : (Nat → Nat → Nat → Instr) × (Word → Word → Word)) : Prop :=
  ∀ d a b s, exec (r.1 d a b) s = .next (s.wrS d (r.2 (s.rdS a) (s.rdS b))).step4

/-- The one-source instruction r.1 completes, writes r.2 of its source to S[d] and nothing else, and goes on at the next word. -/
def ComputesOne (r : (Nat → Nat → Instr) × (Word → Word)) : Prop :=
  ∀ d a s, exec (r.1 d a) s = .next (s.wrS d (r.2 (s.rdS a))).step4

theorem ComputesTwo.of_aluRR {i : Nat → Nat → Nat → Instr} {f g : Word → Word → Word} (hfg : ∀ x y, f x y = g x y)
    (hi : ∀ d a b s, exec (i d a b) s = aluRR f d a b s) : ComputesTwo (i, g) := by
  intro d a b s
  rw [hi, aluRR, hfg]

theorem ComputesOne.of_aluR {i : Nat → Nat → Instr} {f g : Word → Word} (hfg : ∀ x, f x = g x)
    (hi : ∀ d a s, exec (i d a) s = aluR f d a s) : ComputesOne (i, g) := by
  intro d a s
  rw [hi, aluR, hfg]

/-! ### Rotates, compares, extremes and the hash -/

/-- A rotate of a word takes its count modulo 64, so that `rotl64`'s own reduction changes nothing. -/
theorem rotl64_eq_rotateLeft (x : Word) (n : Nat) : rotl64 x n = x.rotateLeft n :=
  BitVec.rotateLeft_mod_eq_rotateLeft

theorem flag_slt (x y : Word) : flag (x.slt y) = if x.toInt < y.toInt then 1 else 0 := by
  simp only [flag, BitVec.slt_iff_toInt_lt]

theorem flag_ult (x y : Word) : flag (x.ult y) = if x.toNat < y.toNat then 1 else 0 := by
  simp only [flag, BitVec.ult_iff_lt, BitVec.lt_def]

/-- A choice by `<` and one by `≤` differ only at equal keys; where equal keys make the answers equal, they agree. -/
theorem ite_lt_eq_ite_le {κ α : Type} [PartialOrder κ] [DecidableLT κ] [DecidableLE κ] {p q : κ} {u v : α}
    (h : p = q → u = v) : (if p < q then u else v) = if p ≤ q then u else v := by
  rcases eq_or_ne p q with heq | hne
  · rw [h heq, ite_self, ite_self]
  · simp only [lt_iff_le_and_ne, ne_eq, hne, not_false_eq_true, and_true]

theorem minS_eq (x y : Word) : minS x y = if x.toInt ≤ y.toInt then x else y := by
  simp only [minS, BitVec.slt_iff_toInt_lt]
  exact ite_lt_eq_ite_le BitVec.eq_of_toInt_eq

theorem maxS_eq (x y : Word) : maxS x y = if x.toInt ≤ y.toInt then y else x := by
  simp only [maxS, BitVec.slt_iff_toInt_lt]
  exact ite_lt_eq_ite_le fun h => (BitVec.eq_of_toInt_eq h).symm

theorem minU_eq (x y : Word) : minU x y = if x.toNat ≤ y.toNat then x else y := by
  simp only [minU, BitVec.ult_iff_lt, BitVec.lt_def]
  exact ite_lt_eq_ite_le BitVec.eq_of_toNat_eq

theorem maxU_eq (x y : Word) : maxU x y = if x.toNat ≤ y.toNat then y else x := by
  simp only [maxU, BitVec.ult_iff_lt, BitVec.lt_def]
  exact ite_lt_eq_ite_le fun h => (BitVec.eq_of_toNat_eq h).symm

/-- A quotient by a power of two is a right shift; with n = 32, the high half that `bhash` takes. -/
theorem ofNat_toNat_div_two_pow (x : Word) (n : Nat) : BitVec.ofNat 64 (x.toNat / 2 ^ n) = x >>> n := by
  rw [← Nat.shiftRight_eq_div_pow, ← BitVec.toNat_ushiftRight, BitVec.ofNat_toNat, BitVec.setWidth_eq]

/-- A remainder by 2^32 is a mask; it is the low half that `bhash` takes. -/
theorem ofNat_toNat_mod_two_pow_32 (x : Word) : BitVec.ofNat 64 (x.toNat % 2 ^ 32) = x &&& 0xFFFFFFFF := by
  have hmask : x.toNat &&& 0xFFFFFFFF = x.toNat % 2 ^ 32 := Nat.and_two_pow_sub_one_eq_mod x.toNat 32
  rw [← hmask]
  refine BitVec.eq_of_toNat_eq ?_
  rw [BitVec.toNat_ofNat, BitVec.toNat_and]
  exact Nat.mod_eq_of_lt (Nat.lt_of_le_of_lt Nat.and_le_left x.isLt)

theorem bhash_eq (x y : Word) : bhash x y = x.rotateLeft 8 ^^^ (y >>> 32).rotateLeft 4 ^^^ (y &&& 0xFFFFFFFF) := by
  rw [bhash, rotl64_eq_rotateLeft, rotl64_eq_rotateLeft, ofNat_toNat_div_two_pow, ofNat_toNat_mod_two_pow_32]

/-! ### Counts of bits -/

theorem popcNat_eq_countP (x k : Nat) : popcNat x k = (List.range k).countP x.testBit := by
  induction k with
  | zero => rfl
  | succ k ih => rw [popcNat, ih, List.range_succ, List.countP_append, List.countP_singleton]

/-- The length of the run of p at the start of 0, …, k: one more than the run of the shifted p, where p 0 holds. -/
theorem length_takeWhile_range_succ (p : Nat → Bool) (k : Nat) :
    ((List.range (k + 1)).takeWhile p).length =
      if p 0 then 1 + ((List.range k).takeWhile fun i => p (i + 1)).length else 0 := by
  rw [List.range_succ_eq_map, List.takeWhile_cons, List.takeWhile_map]
  split
  · rw [List.length_cons, List.length_map, Nat.add_comm]; rfl
  · rfl

theorem clzNat_eq_length_takeWhile (x k : Nat) :
    clzNat x k = ((List.range k).takeWhile fun i => !x.testBit (k - 1 - i)).length := by
  induction k with
  | zero => rfl
  | succ k ih =>
    have hidx (i : Nat) : k + 1 - 1 - (i + 1) = k - 1 - i := by omega
    rw [clzNat, ih, length_takeWhile_range_succ]
    simp only [hidx, show k + 1 - 1 - 0 = k from rfl]
    cases x.testBit k <;> rfl

theorem ctzNat_eq_length_takeWhile (x i k : Nat) :
    ctzNat x i k = ((List.range k).takeWhile fun j => !x.testBit (i + j)).length := by
  induction k generalizing i with
  | zero => rfl
  | succ k ih =>
    have hidx (j : Nat) : i + 1 + j = i + (j + 1) := by omega
    rw [ctzNat, ih, length_takeWhile_range_succ]
    simp only [hidx, Nat.add_zero]
    cases x.testBit i <;> rfl

theorem popcNat_toNat (x : Word) : popcNat x.toNat 64 = (List.range 64).countP x.getLsbD :=
  popcNat_eq_countP x.toNat 64

theorem clzNat_toNat (x : Word) :
    clzNat x.toNat 64 = ((List.range 64).takeWhile fun i => !x.getLsbD (63 - i)).length :=
  clzNat_eq_length_takeWhile x.toNat 64

theorem ctzNat_toNat (x : Word) : ctzNat x.toNat 0 64 = ((List.range 64).takeWhile fun i => !x.getLsbD i).length := by
  rw [ctzNat_eq_length_takeWhile]
  simp only [Nat.zero_add, BitVec.testBit_toNat]

/-! ### Sign extension and the funnel shift -/

theorem sext_toNat (n : Nat) (x : Word) : sext n x.toNat = (x.setWidth n).signExtend 64 := by
  rw [sext, BitVec.ofNat_toNat]

/-- R94: the funnel shift reads 64 bits of the doubleword pair from bit n on. -/
theorem funnel_eq_append_shift (n : Nat) (x y : Word) : funnel n x y = ((x ++ y : BitVec 128) >>> n).setWidth 64 := by
  have hpair : x.toNat * 2 ^ 64 + y.toNat = (x ++ y).toNat := by
    rw [BitVec.toNat_append, ← Nat.shiftLeft_add_eq_or_of_lt y.isLt, Nat.shiftLeft_eq]
  rw [funnel, hpair, ← BitVec.toNat_ushiftRight, BitVec.ofNat_toNat]

/-- R94: with both doublewords the same, bits that leave the older one at the bottom come back at the top. -/
theorem funnel_self_eq_rotateRight {n : Nat} (hn : n < 64) (x : Word) : funnel n x x = x.rotateRight n := by
  rw [funnel_eq_append_shift]
  refine BitVec.eq_of_getLsbD_eq fun i hi => ?_
  rw [BitVec.getLsbD_setWidth, BitVec.getLsbD_ushiftRight, BitVec.getLsbD_append, BitVec.getLsbD_rotateRight,
    Nat.mod_eq_of_lt hn]
  by_cases hwrap : n + i < 64
  · have hlow : i < 64 - n := by omega
    simp only [hi, hwrap, hlow, decide_true, Bool.true_and, if_true, cond_true]
  · have hlow : ¬ i < 64 - n := by omega
    have hidx : n + i - 64 = i - (64 - n) := by omega
    simp only [hi, hwrap, hlow, hidx, decide_true, decide_false, Bool.true_and, if_false, cond_false]

/-! ### The divisions -/

/-- The one quotient that has no word, 2^63, wraps to -2^63 (Table 4.2). -/
theorem divS_eq (x y : Word) : divS x y = (signedDivision x y).1 := by
  unfold divS signedDivision
  split
  · rfl
  · split
    · next hover => obtain ⟨rfl, rfl⟩ := hover; decide
    · rfl

theorem remS_eq (x y : Word) : remS x y = (signedDivision x y).2 := by
  unfold remS signedDivision
  split
  · rfl
  · split
    · next hover => obtain ⟨rfl, rfl⟩ := hover; decide
    · rw [Int.tmod_def]

theorem divU_eq (x y : Word) : divU x y = (unsignedDivision x y).1 := by
  unfold divU unsignedDivision
  split <;> rfl

theorem remU_eq (x y : Word) : remU x y = (unsignedDivision x y).2 := by
  unfold remU unsignedDivision
  split
  · rfl
  · rw [Nat.mod_def]

/-! ### The statements -/

/-- Table 4.1, two sources: where no lemma above stands, the operation's function is the table's, word for word. -/
theorem computesTwo_of_mem_binaryOps : ∀ r ∈ binaryOps, ComputesTwo r := by
  simp only [binaryOps, List.forall_mem_cons, List.not_mem_nil, false_imp_iff, implies_true, and_true]
  refine ⟨?add, ?sub, ?and, ?or, ?xor, ?andn, ?sll, ?srl, ?sra, ?rol, ?slt, ?sltu, ?min, ?max, ?minu, ?maxu, ?mul, ?mulh,
    ?mulhu, ?bhash⟩
  case rol => exact .of_aluRR (fun x y => rotl64_eq_rotateLeft x (cnt6 y)) fun _ _ _ _ => rfl
  case slt => exact .of_aluRR flag_slt fun _ _ _ _ => rfl
  case sltu => exact .of_aluRR flag_ult fun _ _ _ _ => rfl
  case min => exact .of_aluRR minS_eq fun _ _ _ _ => rfl
  case max => exact .of_aluRR maxS_eq fun _ _ _ _ => rfl
  case minu => exact .of_aluRR minU_eq fun _ _ _ _ => rfl
  case maxu => exact .of_aluRR maxU_eq fun _ _ _ _ => rfl
  case bhash => exact .of_aluRR bhash_eq fun _ _ _ _ => rfl
  all_goals exact fun _ _ _ _ => rfl

theorem computesOne_of_mem_unaryOps : ∀ r ∈ unaryOps, ComputesOne r := by
  simp only [unaryOps, List.forall_mem_cons, List.not_mem_nil, false_imp_iff, implies_true, and_true]
  refine ⟨?popc, ?clz, ?ctz, ?sextB, ?sextH, ?sextW⟩
  case popc => exact .of_aluR (fun x => congrArg _ (popcNat_toNat x)) fun _ _ _ => rfl
  case clz => exact .of_aluR (fun x => congrArg _ (clzNat_toNat x)) fun _ _ _ => rfl
  case ctz => exact .of_aluR (fun x => congrArg _ (ctzNat_toNat x)) fun _ _ _ => rfl
  case sextB => exact .of_aluR (sext_toNat 8) fun _ _ _ => rfl
  case sextH => exact .of_aluR (sext_toNat 16) fun _ _ _ => rfl
  case sextW => exact .of_aluR (sext_toNat 32) fun _ _ _ => rfl

theorem computesTwo_fsh (n : Nat) : ComputesTwo (fun d a b => .fsh d a b n, funnel n) := fun _ _ _ _ => rfl

/-- Settles O1: each operation's function is Table 4.1's, and the funnel shift is R94's. -/
theorem registerOperationsWriteTheirResult : Obligations.RegisterOperationsWriteTheirResult := by
  unfold Obligations.RegisterOperationsWriteTheirResult
  refine ⟨computesTwo_of_mem_binaryOps, computesOne_of_mem_unaryOps, fun d a b n s hn => ⟨?_, ?_⟩⟩
  · rw [← funnel_eq_append_shift]
    exact computesTwo_fsh n d a b s
  · rw [← funnel_self_eq_rotateRight hn]
    exact computesTwo_fsh n d a a s

theorem computesTwo_div : ComputesTwo (.div, fun x y => (signedDivision x y).1) := .of_aluRR divS_eq fun _ _ _ _ => rfl

theorem computesTwo_rem : ComputesTwo (.rem, fun x y => (signedDivision x y).2) := .of_aluRR remS_eq fun _ _ _ _ => rfl

theorem computesTwo_divu : ComputesTwo (.divu, fun x y => (unsignedDivision x y).1) := .of_aluRR divU_eq fun _ _ _ _ => rfl

theorem computesTwo_remu : ComputesTwo (.remu, fun x y => (unsignedDivision x y).2) := .of_aluRR remU_eq fun _ _ _ _ => rfl

/-- Settles O2: the model's quotients and remainders are those of Tables 4.1 and 4.2 on every pair of operands. -/
theorem divisionNeverFaults : Obligations.DivisionNeverFaults := by
  unfold Obligations.DivisionNeverFaults
  exact fun d a b s => ⟨computesTwo_div d a b s, computesTwo_rem d a b s, computesTwo_divu d a b s, computesTwo_remu d a b s⟩

end Sys2Proof.Laws
end
